-- ==== Sys2Proof/Word.lean ====
section
/-! DEFINITION. The widths and index types the manual uses, and nothing that computes. -/

namespace Sys2Proof

/-- One byte of shared RAM, of a loop frame or of a link frame. -/
abbrev Byte := BitVec 8

/-- One half of a register, or one access of the host bus (R190, R191). -/
abbrev Half := BitVec 16

/-- A station index, 0 to 15 (R2, R60). -/
abbrev Station := Fin 16

/-- A stage, and the link of that stage, 0 to 3 (R85). -/
abbrev Stage := Fin 4

/-- A request slot, 0 to 31 (R168). -/
abbrev Slot := Fin 32

end Sys2Proof
end

