-- ==== Sys2Proof/Syntax.lean ====
section
/-! DEFINITION. The commands of the part: one constructor for each row of spec/opcode_table.json, in the
table's order, with the operands that the row's event carries. The table gives no row any bits; what an operand
stands for is said at its constructor. -/

namespace Sys2Proof

/-- The two redundant polling loops (R56). -/
inductive Loop where
  | a
  | b
deriving DecidableEq, Repr

/-- The registers of the window (Table 9-10); `reserved` is offset 0x1C, which is no register. -/
inductive Reg where
  | ident
  | control
  | status
  | attention
  | noticeHead
  | noticeTail
  | showClock
  | reserved
deriving DecidableEq, Repr

/-- One 16-bit access of the host's RAM port (R190): a read of the whole word, whatever its byte enables (log entry 44), or a
write with its two byte enables. -/
inductive RamAccess where
  | read
  | write (data : Half) (enableLow enableHigh : Bool)
deriving DecidableEq, Repr

/-- The pieces of work that one second event hands to the blocks (Table 5-1). The manual leaves open the order in
which the blocks take it; a SECOND_EVENT carries an order (log entry 3). -/
inductive SecondWork where
  | accumulator   -- IDLE, STARTING: every ring advances with ABSENT
  | poller        -- RUNNING: deadline closure of an open round, probe abandoned, next round opened
  | linkSecond    -- all states: a new second for the failed-second count
  | linkOffer     -- IDLE with configuration held: the stop-ceiling offer
  | scanner       -- IDLE, RUNNING: a request scan
  | walker        -- WAITING: a pass from the successor; the wrap as a movement of the clock
  | minute        -- RUNNING, at minute events: the minute's records
  | occupancy     -- the archive index is read
deriving DecidableEq, Repr

/-- The commands. A `high` operand is the high half of a register write (R191): the low half is in the write
latch, and the register write is the two together. -/
inductive Instr where
  /-- HARDWARE_RESET: the RESET input is asserted. -/
  | hardwareReset
  /-- RESET_RELEASE: the RESET input is released and the clearing of the RAM begins. -/
  | resetRelease
  /-- RAM_CLEAR_COMPLETE: the clearing has ended. -/
  | ramClearComplete
  /-- SECOND_EVENT: a second of the timebase, with the order in which the blocks take it; work that the list does
  not name follows in the order of Table 5-1. -/
  | secondEvent (order : List SecondWork)
  /-- START: a CONTROL write, its high half. -/
  | start (high : Half)
  /-- START_CHECKS_COMPLETE: the start checks have ended. -/
  | startChecksComplete
  /-- STOP: a CONTROL write, its high half. -/
  | stop (high : Half)
  /-- SOFT_RESET: a CONTROL write, its high half. -/
  | softReset (high : Half)
  /-- IMMEDIATE_MUTE: a CONTROL write, its high half. -/
  | immediateMute (high : Half)
  /-- INT_ENABLE: a CONTROL write, its high half. -/
  | intEnable (high : Half)
  /-- NOTICE_OVERRUN_CLEAR: a STATUS write, its high half (bit 16 is the half's bit 0). -/
  | noticeOverrunClear (high : Half)
  /-- ATTENTION: an ATTENTION write, its high half. -/
  | attention (high : Half)
  /-- NOTICE_TAIL_WRITE: a NOTICE_TAIL write, its high half. -/
  | noticeTailWrite (high : Half)
  /-- REGISTER_LOW_HALF_WRITE: the low half of a register is written. -/
  | registerLowHalfWrite (reg : Reg) (value : Half)
  /-- REGISTER_WRITE_IGNORED: the high half of a register is written. -/
  | registerWriteIgnored (reg : Reg) (high : Half)
  /-- HOST_RAM_ACCESS: one host access to the 16-bit word `word`, at byte offset 2 × `word`. -/
  | hostRamAccess (word : BitVec 15) (access : RamAccess)
  /-- REQUEST_SCAN: the scan in progress runs to its end with nothing between its requests. `unstated` stands where
  the manual states no value (log entries 11 and 12). -/
  | requestScan (unstated : Half)
  /-- SET_CLOCK: the scan takes slot `slot`; `logFirst` says whether the Log Writer takes a moving set before the
  walker (log entry 33). -/
  | setClock (slot : Slot) (logFirst : Bool)
  /-- RESTART_SCHEDULE: the scan takes slot `slot`. -/
  | restartSchedule (slot : Slot)
  /-- RESUME_SCHEDULE: the scan takes slot `slot`; `unstated` as in log entry 12. -/
  | resumeSchedule (slot : Slot) (unstated : Half)
  /-- SET_WATCH: the scan takes slot `slot`. -/
  | setWatch (slot : Slot)
  /-- SWAP_BOOK: the scan takes slot `slot`. -/
  | swapBook (slot : Slot)
  /-- SET_FLAGS: the scan takes slot `slot`. -/
  | setFlags (slot : Slot)
  /-- HOLD_STAGE: the scan takes slot `slot`; `unstated` as in log entry 11. -/
  | holdStage (slot : Slot) (unstated : Half)
  /-- RELEASE_STAGE: the scan takes slot `slot`; `unstated` as in log entry 11. -/
  | releaseStage (slot : Slot) (unstated : Half)
  /-- MEASURE_AMBIENT: the scan takes slot `slot`. -/
  | measureAmbient (slot : Slot)
  /-- ABORT_AMBIENT: the scan takes slot `slot`. -/
  | abortAmbient (slot : Slot)
  /-- SET_AMBIENT: the scan takes slot `slot`. -/
  | setAmbient (slot : Slot)
  /-- LOOP_TEST: the scan takes slot `slot`. -/
  | loopTest (slot : Slot)
  /-- SET_STATION: the scan takes slot `slot`. -/
  | setStation (slot : Slot)
  /-- READ_WINDOW: the scan takes slot `slot`. -/
  | readWindow (slot : Slot)
  /-- REQUEST_BAD_KIND: the scan takes slot `slot`, read with a parity error or of an unknown kind. -/
  | requestBadKind (slot : Slot)
  /-- POLL_SENT: the last byte of the frame being transmitted on the loop has been sent. -/
  | pollSent (loop : Loop)
  /-- REPLY_TIMEOUT: the reply timer on the loop expires; `receiving` says whether a frame is being received. -/
  | replyTimeout (loop : Loop) (receiving : Bool)
  /-- LOOP_FRAME_RECEIVED: a frame of these bytes completes on the loop. -/
  | loopFrameReceived (loop : Loop) (bytes : List Byte)
  /-- LOOP_FRAME_SILENCE: the loop falls silent and ends the frame being collected. -/
  | loopFrameSilence (loop : Loop)
  /-- ROUND_DEADLINE: 800 ms have passed since the second event that opened the round. -/
  | roundDeadline
  /-- CEILING_SENT: the last byte of the frame being transmitted on the link has been sent. -/
  | ceilingSent (stage : Stage)
  /-- ACK_TIMEOUT: the attempt's timer on the link expires; `receiving` as in REPLY_TIMEOUT. -/
  | ackTimeout (stage : Stage) (receiving : Bool)
  /-- LINK_FRAME_RECEIVED: a frame of these bytes completes on the link. -/
  | linkFrameReceived (stage : Stage) (bytes : List Byte)
  /-- LINK_FRAME_SILENCE: the link falls silent and ends the frame being collected. -/
  | linkFrameSilence (stage : Stage)
  /-- TEST_FRAME_TIMEOUT: the TEST frame in flight has not begun to return in time. -/
  | testFrameTimeout
  /-- REGISTER_LOW_HALF_READ: the low half of a register is read. -/
  | registerLowHalfRead (reg : Reg)
  /-- RAM_CONTENT_DISTURBED: the byte at `addr` now holds `content`, with bad parity. -/
  | ramContentDisturbed (addr : Half) (content : Byte)
deriving DecidableEq, Repr

end Sys2Proof
end

