-- ==== Sys2Proof/WellFormed.lean ====
section
/-! DEFINITION. Which commands describe an event that can occur as it is written. Operands are typed, so most
commands are well formed as they stand; the checks left are the lengths of frames and the order of a second event. A
meaning is total and answers for ill-formed commands too (a frame of a wrong length counts as incomplete). -/

namespace Sys2Proof.WellFormed

/-- R58: a loop collects 16 bytes, or the 10 bytes of a TEST frame during a loop test. -/
def loopFrame (bytes : List Byte) : Bool := bytes.length == 16 || bytes.length == 10

/-- R87: a link collects 8 bytes. -/
def linkFrame (bytes : List Byte) : Bool := bytes.length == 8

/-- An order of a second event names no work twice. -/
def secondOrder (order : List SecondWork) : Bool := decide order.Nodup

/-- Every check that applies to the command. -/
def check : Instr → Bool
  | .hardwareReset => true
  | .resetRelease => true
  | .ramClearComplete => true
  | .secondEvent order => secondOrder order
  | .start _ => true
  | .startChecksComplete => true
  | .stop _ => true
  | .softReset _ => true
  | .immediateMute _ => true
  | .intEnable _ => true
  | .noticeOverrunClear _ => true
  | .attention _ => true
  | .noticeTailWrite _ => true
  | .registerLowHalfWrite _ _ => true
  | .registerWriteIgnored _ _ => true
  | .hostRamAccess _ _ => true
  | .requestScan _ => true
  | .setClock _ _ => true
  | .restartSchedule _ => true
  | .resumeSchedule _ _ => true
  | .setWatch _ => true
  | .swapBook _ => true
  | .setFlags _ => true
  | .holdStage _ _ => true
  | .releaseStage _ _ => true
  | .measureAmbient _ => true
  | .abortAmbient _ => true
  | .setAmbient _ => true
  | .loopTest _ => true
  | .setStation _ => true
  | .readWindow _ => true
  | .requestBadKind _ => true
  | .pollSent _ => true
  | .replyTimeout _ _ => true
  | .loopFrameReceived _ bytes => loopFrame bytes
  | .loopFrameSilence _ => true
  | .roundDeadline => true
  | .ceilingSent _ => true
  | .ackTimeout _ _ => true
  | .linkFrameReceived _ bytes => linkFrame bytes
  | .linkFrameSilence _ => true
  | .testFrameTimeout => true
  | .registerLowHalfRead _ => true
  | .ramContentDisturbed _ _ => true

end Sys2Proof.WellFormed
end

