-- ==== Sys2Proof/Config.lean ====
section
/-! DEFINITION. The constants that the manual fixes for every LC-24: the greatest count, the full scale, the
size of a ring, and the map of shared RAM (Table 9-1). Nothing here is a free value: what the manual leaves open
comes with a command as an operand (log entries 3, 11, 12 and 33). -/

namespace Sys2Proof.Config

/-- The largest energy count, 4,294,967,295 exposure units (R1). -/
def energyMax : Nat := 4294967295

/-- The unlimited ceiling and the demand that asks for no reduction, in Q12 (chapter 2). -/
def fullScale : Nat := 4096

/-- The slots of one exposure ring (R2). -/
def ringLength : Nat := 900

/-- The largest value of the show clock (R106). -/
def clockMax : Nat := 2147483647

/-- The ceiling of the consecutive-missing count (R13). -/
def missingMax : Nat := 65535

/-- Most links that one advance pass counts (R120, step 6). -/
def linkMax : Nat := 64

/-- Attempts of one ceiling command (R89). -/
def ceilingAttempts : Nat := 3

/-- Table 9-1: the configuration block. -/
def configBase : Nat := 0x0000

/-- Table 9-1: the station table. -/
def stationBase : Nat := 0x0100

/-- Table 9-1: the fault record. -/
def faultBase : Nat := 0x0200

/-- Table 9-1: the log header. -/
def logHeaderBase : Nat := 0x0240

/-- Table 9-1: limit book area `n`, 0 or 1. -/
def bookBase (n : Nat) : Nat := if n = 0 then 0x0400 else 0x1000

/-- Table 9-1: the request slots. -/
def slotBase : Nat := 0x1C00

/-- Table 9-1: the notice queue. -/
def noticeBase : Nat := 0x2400

/-- Table 9-1: the schedule header; entry `n` follows at 32 bytes each. -/
def scheduleBase : Nat := 0x3400

/-- Table 9-1: the compliance log. -/
def logBase : Nat := 0x5400

end Sys2Proof.Config
end

