-- ==== Sys2Proof/Machine/State.lean ====
section
/-! DEFINITION. The state of the LC-24, block by block as Table 0-1 names them, as plain data; the two ways a step
could stop (no rule of the manual stops the part); and the state right after the RESET input is asserted. -/

namespace Sys2Proof.Machine

/-- Why the machine would stop with a fault. No rule stops the part: parity errors, schedule faults, start errors
and refused requests are all state, so there is no reason and nothing raises one. -/
inductive Fault where
deriving DecidableEq, Repr

/-- Why a command would be refused. -/
inductive Refusal where
  /-- Raised by an arm of `exec` whose command has no meaning yet; no arm raises it. Safe. -/
  | notModelled (mnemonic : String)
deriving DecidableEq, Repr

/-! ### Run Control and the register window (chapters 7 and 9) -/

/-- Table 7-1. -/
inductive RunState where
  | resetBusy
  | idle
  | starting
  | running
deriving DecidableEq, Repr

/-- Table 7-3; `none` is the code NONE. -/
inductive StartError where
  | none
  | parity
  | duplicateAddress
  | ceiling
  | bookArea
  | book
  | schedule
  | stopped
deriving DecidableEq, Repr

/-- R158, and the RESET input of R159. -/
structure RunControl where
  state : RunState
  resetAsserted : Bool
  error : StartError
  runBit : Bool
  muteBit : Bool
  intBit : Bool
deriving DecidableEq, Repr

/-- R191: the two latches; and the data the part last put on the host bus (log entry 28). -/
structure Registers where
  readLatch : Half
  writeLatch : Half
  bus : Half
deriving DecidableEq, Repr

/-- R190: the 64 KiB of shared RAM. `cells` lists the bytes that are not 0, by rising address; `bad` lists the
addresses whose byte holds bad parity, rising. -/
structure Memory where
  cells : List Host.Cell
  bad : List Nat
deriving DecidableEq, Repr

/-! ### Exposure Accumulator (chapters 1, 2 and 6) -/

/-- R2, Table 1-2. -/
inductive Mark where
  | present
  | held
  | primed
  | absent
  | excluded
deriving DecidableEq, Repr

/-- The samples of a station's two rings at one age: one mark (R8) and the energy of each band. -/
structure Sample where
  mark : Mark
  eA : Nat
  eC : Nat
deriving DecidableEq, Repr

/-- The fields of an account record that are kept per band (Table 1-5), and the overdrawn state (R31). -/
structure BandAccount where
  s : Nat
  pLim : Nat
  pAmb : Nat
  allow : Nat
  q : Nat
  overdrawn : Bool
deriving DecidableEq, Repr

/-- One station's rings (newest sample first) and account record (R2, Table 1-5), and its UNCONTROLLABLE state
(R38). -/
structure Account where
  ring : List Sample
  n : Nat
  a : BandAccount
  c : BandAccount
  qs : Nat
  gs : Nat
  missing : Nat
  unctl : Bool
deriving DecidableEq, Repr

/-- Table 6-3. -/
inductive AmbientPhase where
  | none
  | settling
  | measuring
deriving DecidableEq, Repr

/-- Table 6-3: what a measurement has collected for one station. -/
structure Collected where
  count : Nat
  sumA : Nat
  sumC : Nat
deriving DecidableEq, Repr

/-- Table 6-3. -/
structure Ambient where
  phase : AmbientPhase
  slot : Slot
  mask : BitVec 16
  dur : Nat
  settle : Nat
  measure : Nat
  got : Vector Collected 16
deriving DecidableEq, Repr

/-- R18, R22, R29, R35 and the accounts; `advanced` marks the stations that have advanced in the round (R4). -/
structure Accumulator where
  w : Nat
  set : Fin 8
  h : Nat
  k : Nat
  primePending : Bool
  ctrl : Vector Bool 4
  advanced : Vector Bool 16
  accts : Vector Account 16
  ambient : Ambient
deriving DecidableEq, Repr

/-! ### Gain Allocator (chapter 2) -/

/-- R41: the soft target, the applied ceiling and the six terms of Table 2-3 of one stage. -/
structure GainStage where
  target : Nat
  applied : Nat
  sched : Option Nat
  hold : Option Nat
  fault : Option Nat
  lost : Option Nat
  ambient : Option Nat
  immediate : Option Nat
deriving DecidableEq, Repr

/-- R52. -/
structure GainConfig where
  dn : Nat
  up : Nat
  cMin : Nat
  fault : Nat
  lost : Vector Nat 4
deriving DecidableEq, Repr

/-- R41, R52. -/
structure GainAllocator where
  stages : Vector GainStage 4
  cfg : Option GainConfig
deriving DecidableEq, Repr

/-! ### Station Poller (chapter 3) -/

/-- Table 3-3. -/
inductive StationState where
  | unknown
  | live
  | stale
  | lost
  | disabled
deriving DecidableEq, Repr

/-- Table 3-4. -/
inductive LoopState where
  | good
  | suspect
  | down
  | testing
deriving DecidableEq, Repr

/-- Section 3.5, and the frame that the Poller is transmitting on the loop, if any (R56). -/
structure LoopLine where
  state : LoopState
  fails : Nat
  probe : Nat
  tx : Option (List Byte)
deriving DecidableEq, Repr

/-- R60: one entry of the Poller's copy of the station table. -/
structure StationEntry where
  enabled : Bool
  addr : Nat
  loop : Loop
deriving DecidableEq, Repr

/-- R71. -/
structure PollTiming where
  timeout : Nat
  retries : Nat
  alternate : Bool
deriving DecidableEq, Repr

/-- Where an attempt on a line stands: its frame waits for the line to be free, is being transmitted, has been sent
(the timer runs), or the timer has expired while a frame was being received (R65, R85, R89). -/
inductive AttemptPhase where
  | queued
  | sending
  | waiting
  | expired
deriving DecidableEq, Repr

/-- The exchange in progress (R63 to R67), with the address and preferred loop it began with (R62). -/
structure Exchange where
  station : Station
  addr : Nat
  pref : Loop
  made : Nat
  loop : Loop
  phase : AttemptPhase
  earlier : List Loop
deriving DecidableEq, Repr

/-- The probe in progress (R78). -/
structure Probe where
  station : Station
  addr : Nat
  loop : Loop
  phase : AttemptPhase
deriving DecidableEq, Repr

/-- The loop test in flight (R80 to R83): `rounds` of its two rounds have opened, frame `frame` was sent last and is
in flight or has ended, `intact` frames have returned intact. -/
structure LoopTest where
  loop : Loop
  slot : Slot
  rounds : Nat
  frame : Nat
  inFlight : Bool
  intact : Nat
deriving DecidableEq, Repr

/-- Chapter 3. `todo` lists the stations of the round whose exchange has not begun; `settled` lists, for the
exchanges of the round that have ended, the station and the address it was polled at (R59). -/
structure Poller where
  loops : Vector LoopLine 2
  copy : Option (Vector StationEntry 16)
  timing : Option PollTiming
  states : Vector StationState 16
  roundOpen : Bool
  roundNo : Nat
  todo : List Station
  settled : List (Station × Nat)
  exch : Option Exchange
  probe : Option Probe
  probeDue : List Loop
  test : Option LoopTest
deriving DecidableEq, Repr

/-! ### Stage Link Controller (chapter 4) -/

/-- Table 4-5. -/
inductive LinkState where
  | unknown
  | up
  | retrying
  | lost
  | disabled
deriving DecidableEq, Repr

/-- R97. -/
inductive LimiterState where
  | unknown
  | normal
  | bypass
  | fault
deriving DecidableEq, Repr

/-- The outstanding command (R88, R89). -/
structure Command where
  seq : Byte
  ceiling : Nat
  attempt : Nat
  phase : AttemptPhase
deriving DecidableEq, Repr

/-- What the controller holds for one stage, and the frame it is transmitting on the link, if any (R85). -/
structure Link where
  state : LinkState
  failed : Nat
  charged : Bool
  limiter : LimiterState
  seq : Byte
  out : Option Command
  pend : Option Nat
  hold : Bool
  tx : Option (List Byte)
deriving DecidableEq, Repr

/-- R96. -/
structure LinkConfig where
  enabled : Vector Bool 4
  stopCeiling : Nat
deriving DecidableEq, Repr

/-- Chapter 4. -/
structure LinkController where
  lines : Vector Link 4
  cfg : Option LinkConfig
deriving DecidableEq, Repr

/-! ### Schedule Walker (chapter 5) -/

/-- Table 5-4. -/
inductive WalkerState where
  | unstarted
  | waiting
  | paused
  | final
  | faulted
deriving DecidableEq, Repr

/-- The fields and index of a LIMIT entry (Table 5-2). -/
structure LimitEntry where
  index : Nat
  start : Nat
  next : Nat
  final : Bool
  set : Fin 8
  w : Nat
  h : Nat
  k : Nat
  ceil : Vector Nat 4
deriving DecidableEq, Repr

/-- R130: the pause index and the pause linker start. -/
structure Pause where
  index : Nat
  linkerStart : Nat
deriving DecidableEq, Repr

/-- R118. -/
structure Walker where
  state : WalkerState
  active : Option LimitEntry
  watch : Nat
  pause : Option Pause
  links : Nat
deriving DecidableEq, Repr

/-! ### Book Store (chapter 6) -/

/-- Table 6-1: what one limit set holds for one station. -/
structure BookRecord where
  pLimA : Nat
  pLimC : Nat
  shares : Vector Nat 4
deriving DecidableEq, Repr

/-- R140, R146. The working book lists 128 records: set 0, stations 0 to 15, then set 1, and so on. -/
structure BookStore where
  working : Option (List BookRecord)
  area : Fin 2
  ambA : Vector Nat 16
  ambC : Vector Nat 16
deriving DecidableEq, Repr

/-! ### Request Scanner (chapters 5 and 7) -/

/-- A scan in progress (R169): the slot it reads next, how many slots it has still to read, the last slot taken. -/
structure Scan where
  next : Slot
  left : Nat
  last : Option Slot
deriving DecidableEq, Repr

/-- R168: a request in flight, its slot and the 64 bytes of its internal copy. -/
structure InFlight where
  slot : Slot
  copy : List Byte
deriving DecidableEq, Repr

/-- R115, R168. -/
structure Scanner where
  pointer : Slot
  scan : Option Scan
  again : Bool
  inFlight : List InFlight
  flags : BitVec 8
deriving DecidableEq, Repr

/-! ### Notice Writer and Log Writer (chapter 8) -/

/-- R180: an edge selection. -/
inductive EdgeSelection where
  | none
  | enter
  | leave
  | both
deriving DecidableEq, Repr

/-- R177, R180, and the interrupt output of R179. Class `i` of `edges` and `conds` is notice kind `i + 1`. -/
structure NoticeWriter where
  head : BitVec 8
  tail : BitVec 8
  seq : BitVec 16
  overrun : Bool
  edges : Vector EdgeSelection 9
  conds : Vector (Vector Bool 16) 9
  irq : Bool
deriving DecidableEq, Repr

/-- R183. -/
inductive LogMode where
  | keepOldest
  | keepNewest
deriving DecidableEq, Repr

/-- R183: one station's minute accumulator, and its last EXCEED state. -/
structure MinuteAccount where
  count : Nat
  sumA : Nat
  sumC : Nat
  held : Bool
  exceed : Bool
  lowest : Nat
  lastExceed : Bool
deriving DecidableEq, Repr

/-- R183, R184. -/
structure LogWriter where
  writeIdx : BitVec 10
  mode : LogMode
  full : Bool
  half : Bool
  accs : Vector MinuteAccount 16
  folded : Nat
  minuteOpen : Bool
deriving DecidableEq, Repr

/-! ### The part -/

/-- The whole part, and the commands that are waiting, first in, first out. -/
structure State where
  run : RunControl
  clock : Nat
  regs : Registers
  ram : Memory
  acc : Accumulator
  gain : GainAllocator
  poller : Poller
  links : LinkController
  walker : Walker
  book : BookStore
  scanner : Scanner
  notices : NoticeWriter
  log : LogWriter
  pending : List Instr
deriving DecidableEq, Repr

/-! ### Hardware-reset values -/

/-- R7: a slot not written since the last hardware reset. -/
def Sample.unwritten : Sample := { mark := .absent, eA := 0, eC := 0 }

/-- R26: one band of an account record after a hardware reset. -/
def BandAccount.reset : BandAccount :=
  { s := 0, pLim := 0, pAmb := 0, allow := 0, q := Config.fullScale, overdrawn := false }

/-- R7, R26. -/
def Account.reset : Account :=
  { ring := List.replicate Config.ringLength Sample.unwritten, n := 0, a := .reset, c := .reset,
    qs := Config.fullScale, gs := Config.fullScale, missing := 0, unctl := false }

/-- R149: a masked station's count and sums as a measurement begins. -/
def Collected.zero : Collected := { count := 0, sumA := 0, sumC := 0 }

/-- R148: no measurement in flight; the other items hold no meaning (log entry 6). -/
def Ambient.reset : Ambient :=
  { phase := .none, slot := 0, mask := 0, dur := 0, settle := 0, measure := 0, got := Vector.replicate 16 .zero }

/-- R7, R18, R22, R26, R29, R35. -/
def Accumulator.reset : Accumulator :=
  { w := 900, set := 0, h := 600, k := 1, primePending := true, ctrl := Vector.replicate 4 false,
    advanced := Vector.replicate 16 false, accts := Vector.replicate 16 .reset, ambient := .reset }

/-- R54. -/
def GainStage.reset : GainStage :=
  { target := Config.fullScale, applied := Config.fullScale, sched := none, hold := none, fault := none,
    lost := none, ambient := none, immediate := none }

/-- R79; no frame is being transmitted. -/
def LoopLine.reset : LoopLine := { state := .good, fails := 0, probe := 10, tx := none }

/-- R60, R71, R75, R79. -/
def Poller.reset : Poller :=
  { loops := Vector.replicate 2 .reset, copy := none, timing := none, states := Vector.replicate 16 .unknown,
    roundOpen := false, roundNo := 0, todo := [], settled := [], exch := none, probe := none, probeDue := [],
    test := none }

/-- R105. -/
def Link.reset : Link :=
  { state := .unknown, failed := 0, charged := false, limiter := .unknown, seq := 0, out := none, pend := none,
    hold := false, tx := none }

/-- R118. -/
def Walker.reset : Walker := { state := .unstarted, active := none, watch := 0, pause := none, links := 0 }

/-- R140, R146. -/
def BookStore.reset : BookStore :=
  { working := none, area := 0, ambA := Vector.replicate 16 0, ambC := Vector.replicate 16 0 }

/-- R115, Table 7-5. -/
def Scanner.reset : Scanner := { pointer := 0, scan := none, again := false, inFlight := [], flags := 0 }

/-- R177, R179, R180. -/
def NoticeWriter.reset : NoticeWriter :=
  { head := 0, tail := 0, seq := 0, overrun := false, edges := Vector.replicate 9 .none,
    conds := Vector.replicate 9 (Vector.replicate 16 false), irq := false }

/-- R183: an empty accumulator of a station whose last EXCEED state is `last`. -/
def MinuteAccount.empty (last : Bool) : MinuteAccount :=
  { count := 0, sumA := 0, sumC := 0, held := false, exceed := last, lowest := Config.fullScale, lastExceed := last }

/-- R183. -/
def LogWriter.reset : LogWriter :=
  { writeIdx := 0, mode := .keepOldest, full := false, half := false,
    accs := Vector.replicate 16 (MinuteAccount.empty false), folded := 0, minuteOpen := false }

/-- R158, R159: RESET_BUSY, with the RESET input asserted. -/
def RunControl.reset : RunControl :=
  { state := .resetBusy, resetAsserted := true, error := .none, runBit := false, muteBit := false, intBit := false }

/-- The part right after the RESET input is asserted (R159), with nothing listed in its RAM and no command waiting.
The values that the manual does not state are named in log entries 6, 7, 8 and 28. -/
def State.reset : State :=
  { run := .reset, clock := 0, regs := { readLatch := 0, writeLatch := 0, bus := 0 },
    ram := { cells := [], bad := [] }, acc := .reset,
    gain := { stages := Vector.replicate 4 .reset, cfg := none }, poller := .reset,
    links := { lines := Vector.replicate 4 .reset, cfg := none }, walker := .reset, book := .reset,
    scanner := .reset, notices := .reset, log := .reset, pending := [] }

end Sys2Proof.Machine
end

