-- ==== Sys2Proof/Machine/Ops.lean ====
section
/-! DEFINITION. The named operations over shared RAM (R190) and over the parts of the state that come in fixed
numbers: stations, stages, loops. Byte order is decided here, once: multi-byte fields are little-endian (chapter 9). -/

namespace Sys2Proof.Machine

/-! ### Indexed parts of the state -/

/-- One element of a fixed number of like things replaced. -/
def upd {α : Type} {n : Nat} (v : Vector α n) (i : Fin n) (x : α) : Vector α n := v.set i.1 x i.2

/-- The stations in ascending index. -/
def allStations : List Station := [0, 1, 2, 3, 4, 5, 6, 7, 8, 9, 10, 11, 12, 13, 14, 15]

/-- The stages in ascending index. -/
def allStages : List Stage := [0, 1, 2, 3]

/-- The place of a loop in the Poller's pair, and its subject number in a notice (Table 8-2). -/
def loopIx : Loop → Fin 2
  | .a => 0
  | .b => 1

/-- The loop that is not this one. -/
def otherLoop : Loop → Loop
  | .a => .b
  | .b => .a

/-- A station's account replaced. -/
def State.setAccount (st : Station) (a : Account) (s : State) : State :=
  { s with acc := { s.acc with accts := upd s.acc.accts st a } }

/-- A stage's Gain Allocator values replaced. -/
def State.setGain (k : Stage) (g : GainStage) (s : State) : State :=
  { s with gain := { s.gain with stages := upd s.gain.stages k g } }

/-- A stage's link values replaced. -/
def State.setLink (k : Stage) (l : Link) (s : State) : State :=
  { s with links := { s.links with lines := upd s.links.lines k l } }

/-- A loop's values. -/
def State.loopLine (s : State) (l : Loop) : LoopLine := s.poller.loops[loopIx l]

/-- A loop's values replaced. -/
def State.setLoop (l : Loop) (v : LoopLine) (s : State) : State :=
  { s with poller := { s.poller with loops := upd s.poller.loops (loopIx l) v } }

/-- A station's minute accumulator replaced. -/
def State.setMinute (st : Station) (m : MinuteAccount) (s : State) : State :=
  { s with log := { s.log with accs := upd s.log.accs st m } }

/-- The effect of `f` for each station, in ascending index. -/
def forStations (f : Station → State → State) (s : State) : State :=
  allStations.foldl (fun t st => f st t) s

/-- The effect of `f` for each stage, in ascending index. -/
def forStages (f : Stage → State → State) (s : State) : State :=
  allStages.foldl (fun t k => f k t) s

/-! ### Numbers -/

/-- "Clamped to a to b" (Conventions): a value below `a` is replaced by `a` and a value above `b` by `b`. -/
def clamp (a b x : Nat) : Nat := max a (min b x)

/-- The same for a signed value, where the bounds are natural numbers. -/
def clampInt (b : Nat) (x : Int) : Nat := min b x.toNat

/-! ### Bytes -/

/-- The number that bytes hold, least significant byte first. -/
def leNat : List Byte → Nat
  | [] => 0
  | b :: rest => b.toNat + 256 * leNat rest

/-- A number in `n` bytes, least significant byte first; what does not fit is dropped. -/
def leBytes : Nat → Nat → List Byte
  | 0, _ => []
  | n + 1, v => BitVec.ofNat 8 v :: leBytes n (v / 256)

/-- The number at offset `off`, `n` bytes long, in a record that has been read. -/
def field (bytes : List Byte) (off n : Nat) : Nat := leNat ((bytes.drop off).take n)

/-- One bit of a number. -/
def bit (v i : Nat) : Bool := v.testBit i

/-! ### Shared RAM -/

/-- The byte listed for an address; an unlisted address reads 0 (R159). -/
def cellAt : List Host.Cell → Nat → Byte
  | [], _ => 0
  | (x, c) :: rest, a => if x = a then c else cellAt rest a

/-- The list with the byte at an address replaced; a byte of 0 is not listed. -/
def setCell : List Host.Cell → Nat → Byte → List Host.Cell
  | [], a, b => if b = 0 then [] else [(a, b)]
  | (x, c) :: rest, a, b =>
    if a < x then (if b = 0 then (x, c) :: rest else (a, b) :: (x, c) :: rest)
    else if a = x then (if b = 0 then rest else (a, b) :: rest)
    else (x, c) :: setCell rest a b

/-- An address entered in a rising list of addresses. -/
def insertAddr : List Nat → Nat → List Nat
  | [], a => [a]
  | x :: rest, a => if a < x then a :: x :: rest else if a = x then x :: rest else x :: insertAddr rest a

/-- An address taken out of a list of addresses. -/
def removeAddr : List Nat → Nat → List Nat
  | [], _ => []
  | x :: rest, a => if x = a then removeAddr rest a else x :: removeAddr rest a

/-- The byte at an address. -/
def Memory.byte (m : Memory) (a : Nat) : Byte := cellAt m.cells a

/-- Whether the byte at an address holds bad parity. -/
def Memory.badAt (m : Memory) (a : Nat) : Bool := m.bad.contains a

/-- R190: a byte written, by the host or by the part, with good parity. -/
def Memory.write (m : Memory) (a : Nat) (b : Byte) : Memory :=
  { cells := setCell m.cells a b, bad := removeAddr m.bad a }

/-- R190: the content of a byte disturbed after it was written: it holds bad parity. -/
def Memory.disturb (m : Memory) (a : Nat) (b : Byte) : Memory :=
  { cells := setCell m.cells a b, bad := insertAddr m.bad a }

/-- Bytes written at rising addresses, with good parity. -/
def Memory.writeBytes (m : Memory) (a : Nat) : List Byte → Memory
  | [] => m
  | b :: rest => (m.write a b).writeBytes (a + 1) rest

/-- A number written in `n` bytes (R190). -/
def Memory.writeLe (m : Memory) (a n v : Nat) : Memory := m.writeBytes a (leBytes n v)

/-- `n` bytes read from an address on. -/
def Memory.read (m : Memory) (a : Nat) : Nat → List Byte
  | 0 => []
  | n + 1 => m.byte a :: m.read (a + 1) n

/-- The number of `n` bytes at an address. -/
def Memory.readLe (m : Memory) (a n : Nat) : Nat := leNat (m.read a n)

/-- Whether any of `n` bytes from an address on holds bad parity: a parity error in a read of them (R190). -/
def Memory.parityError (m : Memory) (a : Nat) : Nat → Bool
  | 0 => false
  | n + 1 => m.badAt a || m.parityError (a + 1) n

/-- R159: all of the RAM cleared to zero with good parity. -/
def Memory.cleared : Memory := { cells := [], bad := [] }

/-- The addresses of a list of cells rise strictly, and no listed byte is 0. -/
def cellsCanonical : List Host.Cell → Bool
  | [] => true
  | [(_, b)] => b != 0
  | (x, b) :: (y, c) :: rest => b != 0 && decide (x < y) && cellsCanonical ((y, c) :: rest)

/-- The addresses of a list rise strictly. -/
def rising : List Nat → Bool
  | [] => true
  | [_] => true
  | x :: y :: rest => decide (x < y) && rising (y :: rest)

/-- The canonical form of the RAM: equal contents are equal data. -/
def Memory.wf (m : Memory) : Bool := cellsCanonical m.cells && rising m.bad

/-- RAM of the state rewritten. -/
def State.setRam (m : Memory) (s : State) : State := { s with ram := m }

end Sys2Proof.Machine
end

