-- ==== Sys2Proof/Machine/Operands.lean ====
section
/-! DEFINITION. The forms that data takes on its way in and out of the part: the check word and the frames of the
loops and links (R57, R86), the fields of a request slot (Table 9-7), and the codes of chapter 9. -/

namespace Sys2Proof.Machine

/-! ### Frames -/

/-- R57: a 16-bit ones'-complement addition: a carry out of the top bit is added back into the lowest bit. -/
def onesAdd (x y : Nat) : Nat := if x + y < 65536 then x + y else x + y - 65535

/-- R57: the ones'-complement sum of a frame's words. -/
def onesSum (words : List Nat) : Nat := words.foldl onesAdd 0

/-- R57: the words of a frame, each sent low byte first. A byte left over at the end makes no word. -/
def wordsOf : List Byte → List Nat
  | lo :: hi :: rest => (lo.toNat + 256 * hi.toNat) :: wordsOf rest
  | _ => []

/-- R57: the bytes in which words are sent. -/
def bytesOf (words : List Nat) : List Byte := words.flatMap (leBytes 2)

/-- R57: the check passes when the sum of all words, check word included, is 0xFFFF. -/
def checkPasses (words : List Nat) : Bool := onesSum words == 0xFFFF

/-- R57: a frame of these words with its check word, the complement of their sum. -/
def sealFrame (words : List Nat) : List Byte := bytesOf (words ++ [0xFFFF - onesSum words])

/-- Table 3-1: the POLL frame for an address in a round. -/
def pollFrame (addr roundNo : Nat) : List Byte := sealFrame [0x5AC3, addr % 256 + 256 * (roundNo % 256)]

/-- Table 3-1: TEST frame `n`. -/
def testFrame (n : Nat) : List Byte := sealFrame [0x96E1, n % 256, 0x55AA, 0xAA55]

/-- Table 4-1: the CEILING frame of a stage. -/
def ceilingFrame (k : Stage) (seq : Byte) (ceiling : Nat) : List Byte :=
  sealFrame [0x3CA5, k.val + 256 * seq.toNat, ceiling]

/-- R9: a valid record, or missing. -/
inductive SecondOutcome where
  | valid (eA eC : Nat) (wind cal ovld sfault : Bool)
  | missing
deriving DecidableEq, Repr

/-- Table 3-1: the content of a SECOND frame. -/
structure SecondFrame where
  addr : Nat
  echo : Nat
  outcome : SecondOutcome
deriving DecidableEq, Repr

/-- R58: a complete SECOND frame that is not corrupt (16 bytes, the sync word 0xA53C, the check passing), with its
energies assembled low word first (R68). -/
def parseSecond (bytes : List Byte) : Option SecondFrame :=
  let ws := wordsOf bytes
  let w := fun i => ws.getD i 0
  if bytes.length = 16 ∧ w 0 = 0xA53C ∧ checkPasses ws = true then
    some { addr := w 1 % 256, echo := w 1 / 256,
           outcome := .valid (w 3 + 65536 * w 4) (w 5 + 65536 * w 6) (bit (w 2) 0) (bit (w 2) 1) (bit (w 2) 2) (bit (w 2) 3) }
  else none

/-- Table 4-1: the content of an ACK frame. -/
structure AckFrame where
  echo : Byte
  limiter : LimiterState
deriving DecidableEq, Repr

/-- R86: the limiter-state word: 0 NORMAL, 1 BYPASS, every other value FAULT. -/
def limiterOfWord (w : Nat) : LimiterState := if w = 0 then .normal else if w = 1 then .bypass else .fault

/-- R87: a valid ACK on the link of stage `k`: 8 bytes, the sync word 0xC35A, the check passing, the stage number
that of the link. -/
def parseAck (k : Stage) (bytes : List Byte) : Option AckFrame :=
  let ws := wordsOf bytes
  let w := fun i => ws.getD i 0
  if bytes.length = 8 ∧ w 0 = 0xC35A ∧ checkPasses ws = true ∧ w 1 % 256 = k.val then
    some { echo := BitVec.ofNat 8 (w 1 / 256), limiter := limiterOfWord (w 2) }
  else none

/-! ### Codes (Tables 7-6, 7-7, 9-6, 9-10 and the paragraphs after Table 9-9) -/

def RunState.code : RunState → Nat
  | .resetBusy => 0
  | .idle => 1
  | .starting => 2
  | .running => 3

def WalkerState.code : WalkerState → Nat
  | .unstarted => 0
  | .waiting => 1
  | .paused => 2
  | .final => 3
  | .faulted => 4

def StartError.code : StartError → Nat
  | .none => 0
  | .parity => 1
  | .duplicateAddress => 2
  | .ceiling => 3
  | .bookArea => 4
  | .book => 5
  | .schedule => 6
  | .stopped => 7

def StationState.code : StationState → Nat
  | .unknown => 0
  | .live => 1
  | .stale => 2
  | .lost => 3
  | .disabled => 4

def LinkState.code : LinkState → Nat
  | .unknown => 0
  | .up => 1
  | .retrying => 2
  | .lost => 3
  | .disabled => 4

def LimiterState.code : LimiterState → Nat
  | .unknown => 0
  | .normal => 1
  | .bypass => 2
  | .fault => 3

def LogMode.code : LogMode → Nat
  | .keepOldest => 0
  | .keepNewest => 1

/-- The preferred loop in the station table and in SET_STATION (Tables 9-3 and 9-8). -/
def loopCode : Loop → Nat
  | .a => 0
  | .b => 1

def boolCode (b : Bool) : Nat := if b then 1 else 0

/-- Table 9-3: 1 names loop B and any other value loop A. -/
def loopOfByte (v : Nat) : Loop := if v = 1 then .b else .a

/-- Table 9-2: an edge selection byte; a value other than 0 to 3 is BOTH (R180). -/
def edgeOfByte (v : Nat) : EdgeSelection :=
  if v = 0 then .none else if v = 1 then .enter else if v = 2 then .leave else .both

/-- Table 9-2: 1 names KEEP_NEWEST and any other value KEEP_OLDEST (R183). -/
def logModeOfByte (v : Nat) : LogMode := if v = 1 then .keepNewest else .keepOldest

/-! ### Request slots -/

/-- Table 7-7. -/
inductive ResultCode where
  | badKind
  | badField
  | busy
  | notRunning
  | conflict
  | parity
  | reset
deriving DecidableEq, Repr

def ResultCode.code : ResultCode → Nat
  | .badKind => 1
  | .badField => 2
  | .busy => 3
  | .notRunning => 4
  | .conflict => 5
  | .parity => 6
  | .reset => 7

/-- Table 7-8. -/
inductive RequestKind where
  | setClock
  | restartSchedule
  | resumeSchedule
  | setWatch
  | swapBook
  | setFlags
  | holdStage
  | releaseStage
  | measureAmbient
  | abortAmbient
  | setAmbient
  | loopTest
  | setStation
  | readWindow
deriving DecidableEq, Repr

/-- Table 7-8: the kind byte of a slot; `none` for a value that names no kind. -/
def RequestKind.ofByte (v : Nat) : Option RequestKind :=
  match v with
  | 1 => some .setClock
  | 2 => some .restartSchedule
  | 3 => some .resumeSchedule
  | 4 => some .setWatch
  | 5 => some .swapBook
  | 6 => some .setFlags
  | 7 => some .holdStage
  | 8 => some .releaseStage
  | 9 => some .measureAmbient
  | 10 => some .abortAmbient
  | 11 => some .setAmbient
  | 12 => some .loopTest
  | 13 => some .setStation
  | 14 => some .readWindow
  | _ => none

/-- A value of a result: its offset in the slot, its size in bytes, and the value (Table 9-8). -/
structure Result where
  off : Nat
  size : Nat
  value : Nat
deriving DecidableEq, Repr

/-- What an owning block answers to a request (R170): finished with results, refused with results, or in flight. -/
inductive Reply where
  | done (results : List Result)
  | refused (code : ResultCode) (results : List Result)
  | taken
deriving DecidableEq, Repr

/-- Table 7-6: the state values that the part reads or writes. -/
def slotPosted : Nat := 1

/-- Table 7-6. -/
def slotTaken : Nat := 2

/-- Table 7-6. -/
def slotDone : Nat := 3

/-- Table 7-6. -/
def slotRefused : Nat := 4

/-- Table 9-7: the offset of slot `i` in shared RAM. -/
def slotAddr (i : Slot) : Nat := Config.slotBase + 64 * i.val

/-- Table 9-7: the kind of an internal copy. -/
def copyKind (copy : List Byte) : Nat := field copy 0x01 1

/-- Table 9-7: the notify flag of an internal copy. -/
def copyNotify (copy : List Byte) : Bool := bit (field copy 0x02 1) 0

end Sys2Proof.Machine
end

