-- ==== Sys2Proof/Machine/Flags.lean ====
section
/-! DEFINITION. The Notice Writer (chapter 8): the interrupt line, the writing of a notice, the event notices and
the condition states. -/

namespace Sys2Proof.Machine

/-- R179: the line is asserted while the head differs from the tail and INT_ENABLE is 1. -/
def irqLevel (head tail : BitVec 8) (intEnable : Bool) : Bool := decide (head ≠ tail) && intEnable

/-- R179: the interrupt line re-evaluated. -/
def State.driveIrq (s : State) : State :=
  { s with notices := { s.notices with irq := irqLevel s.notices.head s.notices.tail s.run.intBit } }

/-- The 16 bytes of a notice: sequence, kind, subject, show clock, detail, and 0 in bytes 0x0C to 0x0F. -/
def noticeBytes (seq kind subject clock detail : Nat) : List Byte :=
  leBytes 2 seq ++ leBytes 1 kind ++ leBytes 1 subject ++ leBytes 4 clock ++ leBytes 4 detail ++ leBytes 4 0

/-- R178: a notice written at the head, or lost with the overrun flag set when the queue holds 255 unread notices. -/
def State.post (kind subject detail : Nat) (s : State) : State :=
  if s.notices.head + 1 = s.notices.tail then
    { s with notices := { s.notices with overrun := true } }
  else
    State.driveIrq
      { s with
        ram := s.ram.writeBytes (Config.noticeBase + 16 * s.notices.head.toNat)
          (noticeBytes s.notices.seq.toNat kind subject s.clock detail)
        notices := { s.notices with head := s.notices.head + 1, seq := s.notices.seq + 1 } }

/-- The nine condition classes, in the order of their notice kinds 1 to 9 (Table 8-2). -/
inductive CondClass where
  | exceed
  | uncontrollable
  | stationStale
  | stationLost
  | stageLimiting
  | stageMuted
  | stageUncontrolled
  | loopDown
  | logHalf
deriving DecidableEq, Repr

/-- The place of a class among the nine; its notice kind is one greater. -/
def CondClass.ix : CondClass → Fin 9
  | .exceed => 0
  | .uncontrollable => 1
  | .stationStale => 2
  | .stationLost => 3
  | .stageLimiting => 4
  | .stageMuted => 5
  | .stageUncontrolled => 6
  | .loopDown => 7
  | .logHalf => 8

/-- R180, step 3: whether an edge selection asks for a notice of this transition. -/
def EdgeSelection.selects (e : EdgeSelection) (entry : Bool) : Bool :=
  match e with
  | .none => false
  | .enter => entry
  | .leave => !entry
  | .both => true

/-- R180, step 2: the number of subjects of a class now in the condition. -/
def condCount (v : Vector Bool 16) : Nat := allStations.countP fun i => v[i]

/-- The detail of a condition notice: the edge in byte 0, the count in byte 1, the class's value in bytes 2 and 3. -/
def condDetail (entry : Bool) (count value : Nat) : Nat := boolCode entry + 256 * (count % 256) + 65536 * (value % 65536)

/-- R180: a block hands on that a subject is now in the condition or out of it, with the class's own value. A state
that the subject already holds changes nothing. -/
def State.report (cls : CondClass) (subject : Fin 16) (now : Bool) (value : Nat) (s : State) : State :=
  if s.notices.conds[cls.ix][subject] = now then s
  else
    let row := upd s.notices.conds[cls.ix] subject now
    let t := { s with notices := { s.notices with conds := upd s.notices.conds cls.ix row } }
    if s.notices.edges[cls.ix].selects now then
      t.post (cls.ix.val + 1) subject.val (condDetail now (condCount row) value)
    else t

/-- What began a pass, as ENTRY_ACTIVATED reports it (R125). -/
inductive PassCause where
  | start
  | second
  | restart
  | clockSet
  | resume
deriving DecidableEq, Repr

/-- The cause's code in ENTRY_ACTIVATED. -/
def PassCause.code : PassCause → Nat
  | .start => 1
  | .second => 2
  | .restart => 3
  | .clockSet => 4
  | .resume => 5

/-- REQUEST_DONE (R171). -/
def State.postRequestDone (slot : Slot) (kind code : Nat) (s : State) : State := s.post 16 slot.val (kind % 256 + 256 * code)

/-- ENTRY_ACTIVATED (R125). -/
def State.postEntryActivated (entry : Nat) (cause : PassCause) (s : State) : State := s.post 17 entry cause.code

/-- WATCH_REACHED (R130). -/
def State.postWatchReached (pause active : Nat) (s : State) : State := s.post 18 pause (active % 256)

/-- SCHEDULE_FAULT (R134). -/
def State.postScheduleFault (entry reason link : Nat) (s : State) : State := s.post 19 entry (reason + 256 * (link % 256))

/-- ROUND_OVERRUN (R70). -/
def State.postRoundOverrun (first : Station) (count : Nat) (s : State) : State := s.post 20 first.val (count % 256)

/-- LOG_FULL (R187). -/
def State.postLogFull (writeIdx : Nat) (s : State) : State := s.post 21 0 writeIdx

/-- LOG_WRAP (R188). -/
def State.postLogWrap (given archive : Nat) (s : State) : State := s.post 22 0 (given % 256 + 65536 * archive)

/-- RUN_STATE (R158): the run state before; the run state, start error code and walker state as they now stand. -/
def State.postRunState (before : RunState) (s : State) : State :=
  s.post 23 0 (before.code + 256 * s.run.state.code + 65536 * s.run.error.code + 16777216 * s.walker.state.code)

end Sys2Proof.Machine
end

