-- ==== Sys2Proof/Machine/Log.lean ====
section
/-! DEFINITION. The Log Writer (section 8.3): the minute accumulators, the closing of a minute, the writing of a
record, and the reading of the archive index. -/

namespace Sys2Proof.Machine

/-- R8: a sample marked PRESENT, HELD or PRIMED is counted. -/
def Mark.counted : Mark → Bool
  | .present => true
  | .held => true
  | .primed => true
  | .absent => false
  | .excluded => false

/-- A book record of zeros. -/
def BookRecord.zero : BookRecord := { pLimA := 0, pLimC := 0, shares := Vector.replicate 4 0 }

/-- R142: the record of a station in the set in force, absent while the working book is. -/
def State.bookRecord (s : State) (st : Station) : Option BookRecord :=
  s.book.working.map fun b => b.getD (16 * s.acc.set.val + st.val) BookRecord.zero

/-- R40, R45, R184: the share c(s,k) in the set in force is at least c_min. -/
def State.hears (s : State) (st : Station) (k : Stage) : Bool :=
  match s.bookRecord st, s.gain.cfg with
  | some r, some c => decide (c.cMin ≤ r.shares[k])
  | _, _ => false

/-- Whether a station is enabled in the Poller's copy of the station table. -/
def State.enabledStation (s : State) (st : Station) : Bool :=
  match s.poller.copy with
  | some copy => copy[st].enabled
  | none => false

/-! ### Minute accumulators (R184) -/

/-- R184: a stored sample. -/
def State.logSample (st : Station) (x : Sample) (s : State) : State :=
  if s.log.minuteOpen then
    let m := s.log.accs[st]
    s.setMinute st
      { m with
        count := if x.mark.counted then m.count + 1 else m.count
        sumA := if x.mark.counted then m.sumA + x.eA else m.sumA
        sumC := if x.mark.counted then m.sumC + x.eC else m.sumC
        held := m.held || (x.mark == .held) }
  else s

/-- R184: an EXCEED state; it is recorded as the last whether or not a minute is open. -/
def State.logExceed (st : Station) (inExceed : Bool) (s : State) : State :=
  let m := s.log.accs[st]
  s.setMinute st { m with lastExceed := inExceed, exceed := m.exceed || (s.log.minuteOpen && inExceed) }

/-- R184: the lowest ceiling of a station taken down to a ceiling of stage `k`, when the station watches it. -/
def State.foldCeiling (k : Stage) (ceiling : Nat) (st : Station) (s : State) : State :=
  if s.hears st k then s.setMinute st { s.log.accs[st] with lowest := min s.log.accs[st].lowest ceiling } else s

/-- R184: a C_k handed by a clip. -/
def State.logClip (k : Stage) (ceiling : Nat) (s : State) : State :=
  if s.log.minuteOpen then forStations (State.foldCeiling k ceiling) s else s

/-- R184: a driving closure, after the ramp. -/
def State.logClosure (s : State) : State :=
  if s.log.minuteOpen then
    forStages (fun k t => forStations (State.foldCeiling k t.gain.stages[k].applied) t)
      { s with log := { s.log with folded := s.log.folded + 1 } }
  else s

/-- R183: every accumulator emptied. -/
def LogWriter.emptied (g : LogWriter) : LogWriter :=
  { g with accs := Vector.ofFn fun st : Fin 16 => MinuteAccount.empty g.accs[st].lastExceed, folded := 0 }

/-! ### The log header and the occupancy (R187, R189) -/

/-- R187: the archive index read from the header; a value above 1023 or a parity error is taken as the write index
plus 1. -/
def State.archiveIndex (s : State) : BitVec 10 :=
  let v := s.ram.readLe (Config.logHeaderBase + 2) 2
  if s.ram.parityError (Config.logHeaderBase + 2) 2 || decide (1023 < v) then s.log.writeIdx + 1 else BitVec.ofNat 10 v

/-- Section 8.3: the number of unarchived records, (write index − archive index) modulo 1024. -/
def State.occupancy (s : State) : Nat := (s.log.writeIdx - s.archiveIndex).toNat

/-- R189: the occupancy taken, with LOG_HALF and the full flag brought up to date. -/
def State.readOccupancy (s : State) : State :=
  let n := s.occupancy
  State.report .logHalf 0 (decide (512 ≤ n)) n
    { s with log := { s.log with half := decide (512 ≤ n), full := s.log.full && decide (1023 ≤ n) } }

/-- R183, R193: the write index written into the header. -/
def State.writeLogHeader (s : State) : State :=
  s.setRam (s.ram.writeLe Config.logHeaderBase 2 s.log.writeIdx.toNat)

/-! ### Records (R185 to R188) -/

/-- Table 8-4's flags of a record. -/
structure RecordFlags where
  clockSet : Bool
  stopped : Bool
deriving DecidableEq, Repr

/-- R30: the music account S_m = max(0, S − N·P_amb). -/
def musicAccount (s n pAmb : Nat) : Nat := s - n * pAmb

/-- The 32 bytes of a compliance record (chapter 9): the last five words are one number of 160 bits. -/
def recordBytes (minute : Nat) (st : Station) (f : RecordFlags) (m : MinuteAccount) (a : Account) : List Byte :=
  let flags := boolCode m.exceed + 2 * boolCode m.held + 4 * boolCode f.clockSet + 8 * boolCode f.stopped
  let wide := m.sumA % 2 ^ 38 + 2 ^ 38 * (m.sumC % 2 ^ 38) + 2 ^ 76 * (musicAccount a.a.s a.n a.a.pAmb % 2 ^ 42)
    + 2 ^ 118 * (musicAccount a.c.s a.n a.c.pAmb % 2 ^ 42)
  leBytes 4 minute ++ leBytes 1 st.val ++ leBytes 1 flags ++ leBytes 2 m.count ++ leBytes 2 m.lowest ++ leBytes 2 a.n
    ++ leBytes 20 wide

/-- R187: a record written at the write index, which advances and is written into the header; then R189's reading. -/
def State.putRecord (bytes : List Byte) (s : State) : State :=
  let t := s.setRam (s.ram.writeBytes (Config.logBase + 32 * s.log.writeIdx.toNat) bytes)
  let t := { t with log := { t.log with writeIdx := t.log.writeIdx + 1, full := false } }
  t.writeLogHeader.readOccupancy

/-- R187: one record, with the records given up so far at the closure. -/
def State.writeRecord (bytes : List Byte) (given : Nat) (s : State) : State × Nat :=
  if s.log.writeIdx + 1 ≠ s.archiveIndex then (s.putRecord bytes, given)
  else
    match s.log.mode with
    | .keepOldest =>
      if s.log.full then (s, given)
      else (({ s with log := { s.log with full := true } }).postLogFull s.log.writeIdx.toNat, given)
    | .keepNewest =>
      ((s.setRam (s.ram.writeLe (Config.logHeaderBase + 2) 2 (s.archiveIndex + 1).toNat)).putRecord bytes, given + 1)

/-- R185: the records of a minute, one for each station enabled in the Poller's copy, in ascending index. -/
def State.writeRecords (minute : Nat) (f : RecordFlags) (s : State) : State × Nat :=
  allStations.foldl
    (fun p st =>
      if p.1.enabledStation st then
        p.1.writeRecord (recordBytes minute st f p.1.log.accs[st] p.1.acc.accts[st]) p.2
      else p)
    (s, 0)

/-- R185, R186, R188: the open minute closed: no record when no driving closure has been folded; LOG_WRAP after the last
record when records were given up; then every accumulator emptied. Which of the occupancy of the last record (R189) and LOG_WRAP
comes first is not said: the occupancy is taken with the record, so LOG_HALF stands before LOG_WRAP (log entry 48). -/
def State.closeMinute (minute : Nat) (f : RecordFlags) (s : State) : State :=
  if s.log.minuteOpen then
    let p := if s.log.folded = 0 then (s, 0) else s.writeRecords minute f
    let t := if p.2 = 0 then p.1 else p.1.postLogWrap p.2 p.1.archiveIndex.toNat
    { t with log := t.log.emptied }
  else s

end Sys2Proof.Machine
end

