-- ==== Sys2Proof/Machine/Accounts.lean ====
section
/-! DEFINITION. The Exposure Accumulator (chapters 1 and 2): the rings and window sums, the storing of second
outcomes, priming and re-sum, and stages 1 to 5 of the computation. -/

namespace Sys2Proof.Machine

/-! ### Rings and window sums (sections 1.2, 1.4 and 1.5) -/

/-- The number of counted samples in a list of samples. -/
def countedIn (xs : List Sample) : Nat := xs.countP fun x => x.mark.counted

/-- The band A energy of the counted samples in a list of samples. -/
def sumAIn (xs : List Sample) : Nat := (xs.map fun x => if x.mark.counted then x.eA else 0).sum

/-- The band C energy of the counted samples in a list of samples. -/
def sumCIn (xs : List Sample) : Nat := (xs.map fun x => if x.mark.counted then x.eC else 0).sum

/-- The samples of a ring at ages `lo` to `hi` − 1. -/
def ages (ring : List Sample) (lo hi : Nat) : List Sample := (ring.drop lo).take (hi - lo)

/-- The sample of a ring at an age. -/
def sampleAt (ring : List Sample) (age : Nat) : Sample := ring.getD age Sample.unwritten

/-- R3, R17: one advance of a station's rings by the sample `x`, with the window length `w` in force. -/
def Account.advance (w : Nat) (x : Sample) (a : Account) : Account :=
  let out := ages a.ring (w - 1) w
  { a with
    ring := (x :: a.ring).take Config.ringLength
    n := a.n - countedIn out + countedIn [x]
    a := { a.a with s := a.a.s - sumAIn out + sumAIn [x] }
    c := { a.c with s := a.c.s - sumCIn out + sumCIn [x] } }

/-- R19: the window length in force changes from `w1` to `w2`. -/
def Account.resum (w1 w2 : Nat) (a : Account) : Account :=
  if w2 < w1 then
    let out := ages a.ring w2 w1
    { a with n := a.n - countedIn out, a := { a.a with s := a.a.s - sumAIn out }, c := { a.c with s := a.c.s - sumCIn out } }
  else
    let back := ages a.ring w1 w2
    { a with n := a.n + countedIn back, a := { a.a with s := a.a.s + sumAIn back }, c := { a.c with s := a.c.s + sumCIn back } }

/-- R21: the primed energy of a band. -/
def primedEnergy (pLim pAmb : Nat) : Nat := min Config.energyMax (pLim + pAmb)

/-- R21: one station primed over the window `w`, with the powers of each band. -/
def Account.prime (w pLimA pAmbA pLimC pAmbC : Nat) (a : Account) : Account :=
  let x : Sample := { mark := .primed, eA := primedEnergy pLimA pAmbA, eC := primedEnergy pLimC pAmbC }
  { a with
    ring := List.replicate w x ++ a.ring.drop w
    n := w
    a := { a.a with s := w * x.eA, pLim := pLimA, pAmb := pAmbA }
    c := { a.c with s := w * x.eC, pLim := pLimC, pAmb := pAmbC } }

/-- R21: a station primed from the working book's set in force and the ambient table. Without a working book there is no
priming (R24). -/
def State.prime (st : Station) (s : State) : State :=
  match s.bookRecord st with
  | some r => s.setAccount st (s.acc.accts[st].prime s.acc.w r.pLimA s.book.ambA[st] r.pLimC s.book.ambC[st])
  | none => s

/-! ### Stages 1 to 3 (sections 2.2 to 2.4) -/

/-- R30: the drawn balance D = B − S_m, signed. -/
def drawnBalance (s n pLim pAmb : Nat) : Int := (n * pLim : Nat) - (musicAccount s n pAmb : Int)

/-- R32: A = P_lim + floor(D / H), clamped to 0 to K·P_lim. -/
def allowance (d : Int) (pLim h k : Nat) : Nat := clampInt (k * pLim) (pLim + Int.fdiv d h)

/-- R33: the band demand for an allowance and the music now heard. -/
def bandDemand (allow m : Nat) : Nat :=
  if m = 0 then Config.fullScale else min Config.fullScale (Config.fullScale * allow / m)

/-- Stages 1 to 3 of one band (R30 to R33), with the powers it uses copied into the record (R15). -/
def BandAccount.compute (n eNew pLim pAmb h k : Nat) (b : BandAccount) : BandAccount :=
  let d := drawnBalance b.s n pLim pAmb
  let allow := allowance d pLim h k
  { b with pLim := pLim, pAmb := pAmb, allow := allow, q := bandDemand allow (eNew - pAmb), overdrawn := decide (d < 0) }

/-! ### Stage 5 (section 2.5) -/

/-- R36: the reducible share C_r of a station. -/
def State.reducibleShare (s : State) (st : Station) : Nat :=
  match s.bookRecord st with
  | some r => (allStages.map fun k => if s.acc.ctrl[k] && s.hears st k then r.shares[k] else 0).sum
  | none => 0

/-- R36: the stage demand g_s for a station demand and a reducible share. -/
def stageDemand (qs cr : Nat) : Nat :=
  if cr = 0 then Config.fullScale
  else clampInt Config.fullScale (Int.fdiv (256 * (qs : Int) - (256 - (cr : Int)) * 4096) cr)

/-- Stage 5 of a station from its held q_s (R36), with its UNCONTROLLABLE state (R38). -/
def State.stageFive (st : Station) (s : State) : State :=
  let a := s.acc.accts[st]
  let cr := s.reducibleShare st
  let unctl := decide (cr = 0) && decide (a.qs < Config.fullScale)
  (s.setAccount st { a with gs := stageDemand a.qs cr, unctl := unctl }).report .uncontrollable st unctl a.qs

/-- R37: a change of a stage's controllability taken: stage 5 for every enabled station in state LIVE. The stations, and with them
their UNCONTROLLABLE notices, go in ascending index (log entry 41). -/
def State.takeControllability (k : Stage) (now : Bool) (s : State) : State :=
  forStations (fun st t => if t.poller.states[st] = .live then t.stageFive st else t)
    { s with acc := { s.acc with ctrl := upd s.acc.ctrl k now } }

/-! ### The computation at a counted store (R28) -/

/-- R31: the EXCEED state of a station: either band overdrawn. -/
def Account.inExceed (a : Account) : Bool := a.a.overdrawn || a.c.overdrawn

/-- The bands overdrawn, as the EXCEED notice carries them (bit 0 band A, bit 1 band C). -/
def Account.overBands (a : Account) : Nat := boolCode a.a.overdrawn + 2 * boolCode a.c.overdrawn

/-- R31: the station's EXCEED state handed to the Notice Writer and to the Log Writer. -/
def State.handExceed (st : Station) (s : State) : State :=
  let a := s.acc.accts[st]
  (s.report .exceed st a.inExceed a.overBands).logExceed st a.inExceed

/-- Stages 1 to 4 of a station from the newest sample (R30 to R34). -/
def Account.compute (eA eC : Nat) (r : BookRecord) (pAmbA pAmbC h k : Nat) (a : Account) : Account :=
  let bA := a.a.compute a.n eA r.pLimA pAmbA h k
  let bC := a.c.compute a.n eC r.pLimC pAmbC h k
  { a with a := bA, c := bC, qs := min bA.q bC.q }

/-- R28: stages 1 to 5 for a station, after an advance that stored the counted sample `x`. -/
def State.compute (st : Station) (x : Sample) (s : State) : State :=
  match s.bookRecord st with
  | some r =>
    let a := s.acc.accts[st].compute x.eA x.eC r s.book.ambA[st] s.book.ambC[st] s.acc.h s.acc.k
    (((s.setAccount st a).handExceed st).stageFive st)
  | none => s

/-! ### Second outcomes (section 1.3) -/

/-- The classes of R9. -/
inductive OutcomeClass where
  | missing
  | excluded
  | overloaded
  | plain
deriving DecidableEq, Repr

/-- R9: the first line that applies decides. -/
def SecondOutcome.cls : SecondOutcome → OutcomeClass
  | .missing => .missing
  | .valid _ _ wind cal ovld sfault =>
    if sfault then .missing else if wind || cal then .excluded else if ovld then .overloaded else .plain

/-- The energies that a valid record carries (R68); a missing outcome carries none. -/
def SecondOutcome.energies : SecondOutcome → Nat × Nat
  | .missing => (0, 0)
  | .valid eA eC _ _ _ _ => (eA, eC)

/-- R13: the consecutive-missing count after an outcome of a class. -/
def missingAfter (c : OutcomeClass) (missing : Nat) : Nat :=
  match c with
  | .missing => min Config.missingMax (missing + 1)
  | _ => 0

/-- R10, R11, R12: the sample that an outcome stores, where `missing` is the count after the outcome and `prev` the sample
at age 0 just before the advance. -/
def sampleFor (o : SecondOutcome) (missing : Nat) (prev : Sample) : Sample :=
  match o.cls with
  | .plain => { mark := .present, eA := o.energies.1, eC := o.energies.2 }
  | .overloaded => { mark := .present, eA := Config.energyMax, eC := Config.energyMax }
  | .excluded => { mark := .excluded, eA := 0, eC := 0 }
  | .missing => if missing ≤ 3 ∧ prev.mark.counted = true then { prev with mark := .held } else Sample.unwritten

/-- R151: a sample handed to the measurement. -/
def Ambient.collect (st : Station) (x : Sample) (m : Ambient) : Ambient :=
  if m.phase = .measuring ∧ m.mask.getLsbD st.val = true ∧ x.mark = .present then
    let g := m.got[st]
    { m with got := upd m.got st { count := g.count + 1, sumA := g.sumA + x.eA, sumC := g.sumC + x.eC } }
  else m

/-- One advance of a station (R3), and the mark that it has advanced in the round (R4). -/
def State.advance (st : Station) (x : Sample) (s : State) : State :=
  let t := s.setAccount st (s.acc.accts[st].advance s.acc.w x)
  { t with acc := { t.acc with advanced := upd t.acc.advanced st true } }

/-- R14: an advance that carries no second outcome. The stored sample goes to the Log Writer (R15), which takes it while
a minute is open. -/
def State.advanceSilent (st : Station) (s : State) : State := (s.advance st Sample.unwritten).logSample st Sample.unwritten

/-- R4: the stations that have not advanced in the round advance with no outcome, in ascending index (log entry 41). -/
def State.advanceRest (s : State) : State :=
  forStations (fun st t => if t.acc.advanced[st] then t else t.advanceSilent st) s

/-- R9 to R15: a second outcome stored. One for a station that has already advanced in the round is discarded (R4). -/
def State.storeOutcome (st : Station) (o : SecondOutcome) (s : State) : State :=
  if s.acc.advanced[st] then s
  else
    let a := s.acc.accts[st]
    let missing := missingAfter o.cls a.missing
    let x := sampleFor o missing (sampleAt a.ring 0)
    let t := (s.setAccount st { a with missing := missing }).advance st x
    let t := if x.mark.counted then t.compute st x else t
    let t := t.logSample st x
    { t with acc := { t.acc with ambient := t.acc.ambient.collect st x } }

/-! ### What a LIMIT entry puts in force (R18, R19, R29) -/

/-- R18, R29: the window length, limit set, pacing horizon and burst factor put in force; a change of the window length
re-sums every ring (R19). -/
def State.putInForce (w : Nat) (set : Fin 8) (h k : Nat) (s : State) : State :=
  { s with
    acc :=
      { s.acc with
        w := w, set := set, h := h, k := k
        accts := if w = s.acc.w then s.acc.accts
          else Vector.ofFn fun st : Fin 16 => s.acc.accts[st].resum s.acc.w w } }

end Sys2Proof.Machine
end

