-- ==== Sys2Proof/Machine/Links.lean ====
section
/-! DEFINITION. The Stage Link Controller (chapter 4): commands, offers, hard drops, acknowledgements, the link
and limiter states, and what start, stop and the resets do to them. -/

namespace Sys2Proof.Machine

/-! ### One link -/

/-- R88: a new command: it takes the next sequence number, and its first attempt begins at once, or as soon as the frame
being transmitted has been sent (R85). The stage has no outstanding command before. -/
def Link.begin (k : Stage) (ceiling : Nat) (l : Link) : Link :=
  { l with
    out := some { seq := l.seq, ceiling := ceiling, attempt := 1, phase := if l.tx.isSome then .queued else .sending }
    seq := l.seq + 1
    tx := if l.tx.isSome then l.tx else some (ceilingFrame k l.seq ceiling) }

/-- A command abandoned and the pending value removed; a frame being transmitted is not cut short (R85). -/
def Link.clear (l : Link) : Link := { l with out := none, pend := none }

/-- R91: an offer to a stage that is not in the start hold. -/
def Link.offer (k : Stage) (v : Nat) (l : Link) : Link :=
  if l.state = .disabled then l
  else if l.out.isSome then { l with pend := some v }
  else l.begin k v

/-- R91, R101: the offer of a driving closure, which ends the start hold. -/
def Link.closureOffer (k : Stage) (v : Nat) (l : Link) : Link :=
  if l.state = .disabled then l
  else if l.hold then { l.clear with hold := false }.begin k v
  else l.offer k v

/-- R93, R101, R102: a hard drop handed to a stage: in the start hold it becomes the pending value; in RUNNING it
abandons what is outstanding and begins a new command; in IDLE and STARTING it is not sent. -/
def Link.hardDrop (running : Bool) (k : Stage) (v : Nat) (l : Link) : Link :=
  if l.state = .disabled then l
  else if l.hold then { l with pend := some v }
  else if running then l.clear.begin k v
  else l

/-- R92, R100: the pending value sent as a new command at the end of the outstanding one; in STARTING it is removed. -/
def Link.sendPending (starting : Bool) (k : Stage) (l : Link) : Link :=
  match l.pend with
  | none => l
  | some v => if starting then { l with pend := none } else { l with pend := none }.begin k v

/-- R95: a command's exhaustion taken into the failed-second count and the link state. -/
def Link.charge (l : Link) : Link :=
  let failed := if l.charged then l.failed else min 3 (l.failed + 1)
  let state := if l.state = .unknown ∨ l.state = .up then LinkState.retrying else l.state
  let state := if l.failed < 3 ∧ failed = 3 ∧ state = .retrying then LinkState.lost else state
  { l with failed := failed, charged := true, state := state }

/-- R89: a failed attempt sent again: the same frame with the attempt number one greater. -/
def Link.resend (k : Stage) (c : Command) (l : Link) : Link :=
  { l with
    out := some { c with attempt := c.attempt + 1, phase := .sending }
    tx := some (ceilingFrame k c.seq c.ceiling) }

/-- R90, steps 1 to 3. -/
def Link.acknowledge (limiter : LimiterState) (l : Link) : Link :=
  { l with out := none, limiter := limiter, failed := 0, state := .up }

/-- R35, R98: controllable while the link is UP and the limiter reports NORMAL. -/
def Link.controllable (l : Link) : Bool := l.state = .up ∧ l.limiter = .normal

/-- R99: an enabled stage is in STAGE_UNCONTROLLED while its limiter is in BYPASS or FAULT or its link is LOST. -/
def Link.uncontrolled (l : Link) : Bool :=
  l.state ≠ .disabled ∧ (l.limiter = .bypass ∨ l.limiter = .fault ∨ l.state = .lost)

/-- CEILING_SENT (R85, R89): the last byte of the frame on the line has been sent: a queued command's frame begins, or the
timer of the attempt starts. -/
def Link.sent (k : Stage) (l : Link) : Link :=
  match l.tx, l.out with
  | none, _ => l
  | some _, none => { l with tx := none }
  | some _, some c =>
    match c.phase with
    | .queued => { l with tx := some (ceilingFrame k c.seq c.ceiling), out := some { c with phase := .sending } }
    | .sending => { l with tx := none, out := some { c with phase := .waiting } }
    | .waiting => { l with tx := none }
    | .expired => { l with tx := none }

/-! ### The four links -/

/-- A stage as a subject of a notice. -/
def stageSubject (k : Stage) : Fin 16 := ⟨k.val, by omega⟩

/-- The link and limiter states as a STAGE_UNCONTROLLED notice carries them. -/
def Link.statesCode (l : Link) : Nat := l.state.code + 256 * l.limiter.code

/-- R98, R99: controllability and STAGE_UNCONTROLLED re-evaluated after a change of a stage's states. -/
def State.reevaluateLink (k : Stage) (s : State) : State :=
  let l := s.links.lines[k]
  let t := if s.acc.ctrl[k] = l.controllable then s else s.takeControllability k l.controllable
  t.report .stageUncontrolled (stageSubject k) l.uncontrolled l.statesCode

/-- A change of one link that needs no re-evaluation. -/
def State.modLink (k : Stage) (f : Link → Link) (s : State) : State := s.setLink k (f s.links.lines[k])

/-- R48, R93: a hard drop handed to the controller. -/
def State.hardDrop (k : Stage) (v : Nat) (s : State) : State :=
  s.modLink k (Link.hardDrop (s.run.state == .running) k v)

/-- R90: an acknowledgement of the outstanding command. -/
def State.acknowledge (k : Stage) (limiter : LimiterState) (s : State) : State :=
  ((s.modLink k (Link.acknowledge limiter)).reevaluateLink k).modLink k (Link.sendPending (s.run.state == .starting) k)

/-- R89, R95: the attempts of the outstanding command exhausted. -/
def State.exhaust (k : Stage) (s : State) : State :=
  ((s.modLink k fun l => { l with out := none }.charge).reevaluateLink k).modLink k
    (Link.sendPending (s.run.state == .starting) k)

/-- R89: an attempt of the outstanding command fails. -/
def State.failCommand (k : Stage) (c : Command) (s : State) : State :=
  if c.attempt < Config.ceilingAttempts then s.modLink k (Link.resend k c) else s.exhaust k

/-- R87: a frame that ends on a link, judged against the outstanding command. `frame` is absent for an invalid frame. -/
def State.judgeAck (k : Stage) (frame : Option AckFrame) (s : State) : State :=
  match s.links.lines[k].tx, s.links.lines[k].out with
  | some _, _ => s
  | none, none => s
  | none, some c =>
    match c.phase with
    | .queued => s
    | .sending => s
    | .waiting =>
      match frame with
      | none => s.failCommand k c
      | some f => if f.echo = c.seq then s.acknowledge k f.limiter else s
    | .expired =>
      match frame with
      | none => s.failCommand k c
      | some f => if f.echo = c.seq then s.acknowledge k f.limiter else s.failCommand k c

/-- R89: the attempt's timer expires; while a frame is being received the expiry waits for it. -/
def State.ackExpiry (k : Stage) (receiving : Bool) (s : State) : State :=
  match s.links.lines[k].out with
  | none => s
  | some c =>
    if c.phase = .waiting then
      if receiving then s.modLink k fun l => { l with out := some { c with phase := .expired } }
      else s.failCommand k c
    else s

/-- R95: each second event clears the charged flag of every stage. -/
def State.clearCharged (s : State) : State :=
  { s with links := { s.links with lines := Vector.ofFn fun k : Fin 4 => { s.links.lines[k] with charged := false } } }

/-- R102: the stop ceiling offered to every enabled stage, when the controller holds configuration values. -/
def State.offerStopCeiling (s : State) : State :=
  match s.links.cfg with
  | some c => forStages (fun k t => t.modLink k (Link.offer k c.stopCeiling)) s
  | none => s

/-! ### Start, stop and software reset (section 4.7) -/

/-- R100: an enabled stage as the start checks succeed; it enters the start hold. -/
def Link.startEnabled (l : Link) : Link :=
  { l.clear with
    state := if l.state = .lost then .lost else .unknown
    failed := if l.state = .lost then l.failed else 0
    charged := false
    hold := true }

/-- R96: a stage disabled in the configuration. -/
def Link.startDisabled (l : Link) : Link :=
  { l.clear with state := .disabled, limiter := .unknown, failed := 0, hold := false }

/-- R96, R100: the controller takes its configuration at a successful start. The stages, and with them their STAGE_UNCONTROLLED
notices, go in ascending index (log entry 41). -/
def State.startLinks (cfg : LinkConfig) (s : State) : State :=
  forStages
    (fun k t => (t.modLink k fun l => if cfg.enabled[k] then l.startEnabled else l.startDisabled).reevaluateLink k)
    { s with links := { s.links with cfg := some cfg } }

/-- R101: the applied ceiling at start, and every value handed in the start hold, becomes the pending value. -/
def Link.holdValue (v : Nat) (l : Link) : Link := if l.hold then { l with pend := some v } else l

/-- R103: a stage at a stop: what is outstanding is abandoned and the stop ceiling sent. -/
def Link.stop (k : Stage) (stopCeiling : Nat) (l : Link) : Link :=
  if l.state = .disabled then l else { l.clear with hold := false }.begin k stopCeiling

/-- R103. -/
def State.stopLinks (s : State) : State :=
  match s.links.cfg with
  | some c => forStages (fun k t => t.modLink k (Link.stop k c.stopCeiling)) s
  | none => s

/-- R104: a stage at a software reset; a frame being transmitted is not cut short (R85). -/
def Link.softReset (l : Link) : Link := { Link.reset with tx := l.tx }

end Sys2Proof.Machine
end

