-- ==== Sys2Proof/Machine/Gain.lean ====
section
/-! DEFINITION. The Gain Allocator (sections 2.6 to 2.8): the terms of the hard bound, the clip, the soft targets,
the ramp, and the driving closure's part. -/

namespace Sys2Proof.Machine

/-- The terms present for a stage (Table 2-3). -/
def GainStage.terms (g : GainStage) : List Nat :=
  [g.sched, g.hold, g.fault, g.lost, g.ambient, g.immediate].filterMap id

/-- R41: H_k, the least value among the terms present, and 4096 when none is present. -/
def GainStage.bound (g : GainStage) : Nat := g.terms.foldl min Config.fullScale

/-- R55, R182: the stage conditions of a stage after a change of its C_k: on a fall STAGE_LIMITING is handed before
STAGE_MUTED, on a rise STAGE_MUTED before STAGE_LIMITING. -/
def State.stageConditions (k : Stage) (s : State) : State :=
  let c := s.gain.stages[k].applied
  let sub := stageSubject k
  if c < Config.fullScale then (s.report .stageLimiting sub true c).report .stageMuted sub (decide (c = 0)) c
  else (s.report .stageMuted sub (decide (c = 0)) c).report .stageLimiting sub false c

/-- R48: a stage whose hard bound lies below its applied ceiling is clipped; the new ceiling is handed to the Stage Link
Controller as a hard drop and to the Log Writer, and taken into the stage conditions. -/
def State.clipStage (k : Stage) (s : State) : State :=
  let g := s.gain.stages[k]
  if g.bound < g.applied then
    ((((s.setGain k { g with applied := g.bound }).hardDrop k g.bound).logClip k g.bound).stageConditions k)
  else s

/-- R41: one event that changes terms: the terms of every stage first, then each stage's bound taken once. The stages are clipped,
and their hard drops and notices handed, in ascending index (log entry 41). -/
def State.changeTerms (f : Stage → GainStage → GainStage) (s : State) : State :=
  forStages State.clipStage
    { s with gain := { s.gain with stages := Vector.ofFn fun k : Fin 4 => f k s.gain.stages[k] } }

/-- R45: some enabled station in LOST has a share of at least c_min of stage `k`. No station is in LOST outside a show, and
the stop removes the term itself (R54, R75): outside STARTING and RUNNING the term is absent (log entry 20). -/
def State.lostPresent (s : State) (k : Stage) : Bool :=
  (s.run.state == .running || s.run.state == .starting) &&
    allStations.any fun st => s.enabledStation st && s.poller.states[st] == .lost && s.hears st k

/-- R45: the value of the lost-station term of stage `k`, evaluated afresh. -/
def State.lostTerm (s : State) (k : Stage) : Option Nat :=
  match s.gain.cfg with
  | some c => if s.lostPresent k then some c.lost[k] else none
  | none => none

/-- R45: the lost-station terms of all four stages evaluated afresh. -/
def State.evaluateLost (s : State) : State := s.changeTerms fun k g => { g with lost := s.lostTerm k }

/-- R44: the fault-ceiling term appears for all four stages, or is removed. -/
def State.faultTerm (s : State) (present : Bool) : Option Nat :=
  if present then s.gain.cfg.map GainConfig.fault else none

/-- R46: the ambient-mute term for all four stages. -/
def State.setAmbientMute (present : Bool) (s : State) : State :=
  s.changeTerms fun _ g => { g with ambient := if present then some 0 else none }

/-- R47: the immediate-mute term for all four stages. -/
def State.setImmediateMute (present : Bool) (s : State) : State :=
  s.changeTerms fun _ g => { g with immediate := if present then some 0 else none }

/-- R43: the operator-hold term of one stage. -/
def State.setHold (k : Stage) (v : Option Nat) (s : State) : State :=
  s.changeTerms fun j g => if j = k then { g with hold := v } else g

/-! ### The driving closure (R40, R49, R50) -/

/-- R40: the stations that take part in the soft target of stage `k`. -/
def State.pulls (s : State) (st : Station) (k : Stage) : Bool :=
  (s.poller.states[st] == .live || s.poller.states[st] == .stale) && s.hears st k

/-- R40: the soft target of stage `k`. -/
def State.softTarget (s : State) (k : Stage) : Nat :=
  allStations.foldl (fun t st => if s.pulls st k then min t s.acc.accts[st].gs else t) Config.fullScale

/-- R49: one closure's move of an applied ceiling towards its target, bounded by H_k. -/
def ramp (target applied dn up bound : Nat) : Nat :=
  min (if target < applied then max target (applied - dn) else min target (applied + up)) bound

/-- R40, R49: a stage's target and applied ceiling at a driving closure. -/
def GainStage.close (target dn up : Nat) (g : GainStage) : GainStage :=
  { g with target := target, applied := ramp target g.applied dn up g.bound }

/-- R50, steps 2 and 3: the soft targets and the ramp of all four stages. -/
def State.rampAll (s : State) : State :=
  match s.gain.cfg with
  | some c =>
    { s with
      gain :=
        { s.gain with
          stages := Vector.ofFn fun k : Fin 4 => s.gain.stages[k].close (s.softTarget k) c.dn c.up } }
  | none => s

/-- R50: the Gain Allocator driven by a round closure: targets, ramp, offers, the log's fold, the stage conditions. Offers and
stage conditions go in ascending stage index (log entry 41). -/
def State.driveGain (s : State) : State :=
  let t := s.rampAll
  let t := forStages (fun k t => t.modLink k (Link.closureOffer k t.gain.stages[k].applied)) t
  forStages State.stageConditions t.logClosure

/-! ### Start and stop (R53, R54) -/

/-- R53: the soft target and applied ceiling of a stage as the start checks succeed. -/
def GainStage.start (g : GainStage) : GainStage :=
  { g with target := Config.fullScale, applied := min Config.fullScale g.bound }

/-- R53: the applied ceilings at start, handed to the Stage Link Controller, whose enabled stages are in the start hold,
and to the Log Writer, which folds them as it folds a clip's (log entry 40); and R55. The stages go in ascending index (log entry 41). -/
def State.startGain (s : State) : State :=
  let t := { s with gain := { s.gain with stages := Vector.ofFn fun k : Fin 4 => s.gain.stages[k].start } }
  forStages
    (fun k t =>
      let c := t.gain.stages[k].applied
      ((t.modLink k (Link.holdValue c)).logClip k c).stageConditions k)
    t

/-- R54: a stage at a stop: its schedule, fault, lost-station and ambient-mute terms are removed; C_k and T_k are kept. -/
def GainStage.stop (g : GainStage) : GainStage :=
  { g with sched := none, fault := none, lost := none, ambient := none }

/-- R54: the stop removes terms and hands nothing. -/
def State.stopGain (s : State) : State :=
  { s with gain := { s.gain with stages := Vector.ofFn fun k : Fin 4 => s.gain.stages[k].stop } }

end Sys2Proof.Machine
end

