-- ==== Sys2Proof/Machine/Walker.lean ====
section
/-! DEFINITION. The Schedule Walker (chapter 5): reading and validating entries, the advance pass, what the end of
a pass does, and the events that begin one. -/

namespace Sys2Proof.Machine

/-! ### Entries (section 5.2) -/

/-- Table 5-7. -/
inductive FaultReason where
  | linkHeader
  | linkRange
  | order
  | kind
  | field
  | parity
  | chain
deriving DecidableEq, Repr

/-- Table 9-6. -/
def FaultReason.code : FaultReason → Nat
  | .linkHeader => 1
  | .linkRange => 2
  | .order => 3
  | .kind => 4
  | .field => 5
  | .parity => 6
  | .chain => 7

/-- Table 9-5: the schedule header. -/
structure Header where
  count : Nat
  head : Nat
deriving DecidableEq, Repr

/-- Table 9-5: the fields of an entry as they stand in RAM; `word8` is W or the operand. -/
structure RawEntry where
  kind : Nat
  next : Nat
  byte2 : Nat
  byte3 : Nat
  start : Nat
  word8 : Nat
  h : Nat
  k : Nat
  ceil : Vector Nat 4
deriving DecidableEq, Repr

/-- A valid entry (R121). -/
inductive Entry where
  | limit (e : LimitEntry)
  | test (start next taken cond operand : Nat)
deriving DecidableEq, Repr

/-- R111: the header read; `none` for a parity error in the fields the table names (log entry 17). -/
def readHeader (m : Memory) : Option Header :=
  if m.parityError (Config.scheduleBase + 4) 4 then none
  else some { count := m.readLe (Config.scheduleBase + 4) 2, head := m.readLe (Config.scheduleBase + 6) 2 }

/-- R114: entry `n` read whole; `none` for a parity error in the bytes the table names (log entry 17). -/
def readEntry (m : Memory) (n : Nat) : Option RawEntry :=
  let a := Config.scheduleBase + 32 * n
  if m.parityError a 22 then none
  else
    let bytes := m.read a 22
    some
      { kind := field bytes 0 1, next := field bytes 1 1, byte2 := field bytes 2 1, byte3 := field bytes 3 1,
        start := field bytes 4 4, word8 := field bytes 8 2, h := field bytes 10 2, k := field bytes 12 2,
        ceil := Vector.ofFn fun k : Fin 4 => field bytes (14 + 2 * k.val) 2 }

/-- Table 5-3: the condition and operand are in range. -/
def testInRange (cond operand : Nat) : Bool :=
  match cond with
  | 1 => decide (operand ≤ 7)
  | 2 => decide (operand ≤ 7)
  | 3 => true
  | 4 => true
  | 5 => decide (operand ≤ 3)
  | 6 => decide (operand ≤ 3)
  | 7 => decide (operand ≤ 15)
  | 8 => decide (operand ≤ 15)
  | _ => false

/-- R121: the fields of a LIMIT entry are in range. -/
def RawEntry.limitInRange (e : RawEntry) : Bool :=
  decide (e.byte2 ≤ 1) && decide (e.byte3 ≤ 7) && decide (60 ≤ e.word8 ∧ e.word8 ≤ 900) && decide (10 ≤ e.h ∧ e.h ≤ 600) &&
    decide (1 ≤ e.k ∧ e.k ≤ 4) && allStages.all fun k => decide (e.ceil[k] ≤ Config.fullScale)

/-- R121: an entry validated; `atHead` for the first entry of a pass from the head. -/
def RawEntry.validate (n : Nat) (atHead : Bool) (e : RawEntry) : Except FaultReason Entry :=
  if e.kind = 1 then
    if e.limitInRange then
      .ok (.limit
        { index := n, start := e.start, next := e.next, final := decide (e.byte2 = 1), set := Fin.ofNat 8 e.byte3,
          w := e.word8, h := e.h, k := e.k, ceil := e.ceil })
    else .error .field
  else if e.kind = 2 then
    if atHead then .error .kind
    else if testInRange e.byte2 e.word8 then .ok (.test e.start e.next e.byte3 e.byte2 e.word8)
    else .error .field
  else .error .kind

/-! ### Conditions (section 5.3) -/

/-- R117: at least one band of at least one enabled station is overdrawn. -/
def State.anyExceed (s : State) : Bool := allStations.any fun st => s.enabledStation st && s.acc.accts[st].inExceed

/-- R117: an operator hold is in force on a stage. -/
def State.stageHeld (s : State) (k : Nat) : Bool := s.gain.stages[Fin.ofNat 4 k].hold.isSome

/-- R117: a station is in state LIVE. -/
def State.stationLive (s : State) (st : Nat) : Bool := s.poller.states[Fin.ofNat 16 st] == .live

/-- Table 5-3: a TEST's condition, for an operand in range. -/
def State.holds (s : State) (cond operand : Nat) : Bool :=
  match cond with
  | 1 => s.scanner.flags.getLsbD operand
  | 2 => !s.scanner.flags.getLsbD operand
  | 3 => s.anyExceed
  | 4 => !s.anyExceed
  | 5 => s.stageHeld operand
  | 6 => !s.stageHeld operand
  | 7 => s.stationLive operand
  | _ => !s.stationLive operand

/-! ### The advance pass (R119 to R124) -/

/-- How a pass ends: at a candidate not yet due (R123), at a final entry (R122), at the watch (R130), at a fault (R134)
with the reported entry index and link value. -/
inductive PassEnd where
  | notDue
  | final
  | watch (pause : Pause)
  | fault (reason : FaultReason) (entry link : Nat)
deriving DecidableEq, Repr

/-- A pass taken: the last LIMIT reached, the link count, and how it ended. -/
structure Pass where
  last : Option LimitEntry
  links : Nat
  ending : PassEnd
deriving DecidableEq, Repr

/-- R120, R121: from a counted link on. `left` links may still be counted; `count` is the header's entry count; the linker
is the entry at `linker`, which starts at `linkerStart`; `link` is the link followed. -/
def State.follow (s : State) (count : Nat) (left : Nat) (last : Option LimitEntry) (linker linkerStart link : Nat) : Pass :=
  let stop := fun (left : Nat) (ending : PassEnd) =>
    ({ last := last, links := Config.linkMax - left, ending := ending } : Pass)
  if link = 0 then stop left (.fault .linkHeader linker 0)
  else if count < link then stop left (.fault .linkRange linker link)
  else
    match readEntry s.ram link with
    | none => stop left (.fault .parity link link)
    | some e =>
      if s.clock < e.start then stop left .notDue
      else if e.start < linkerStart then stop left (.fault .order link link)
      else
        match left with
        | 0 => stop 0 (.fault .chain linker link)
        | left + 1 =>
          if link = s.walker.watch then stop left (.watch { index := link, linkerStart := linkerStart })
          else
            match e.validate link false with
            | .error reason => stop left (.fault reason link link)
            | .ok (.test start next taken cond operand) =>
              s.follow count left last link start (if s.holds cond operand then taken else next)
            | .ok (.limit l) =>
              if l.final then { last := some l, links := Config.linkMax - left, ending := .final }
              else s.follow count left (some l) link l.start l.next

/-- R119, R121: the first entry of a pass from the head or from the pause index, processed whatever its start time. -/
def State.processFirst (s : State) (count : Nat) (atHead : Bool) (n : Nat) (e : RawEntry) : Pass :=
  match e.validate n atHead with
  | .error reason => { last := none, links := 0, ending := .fault reason n n }
  | .ok (.test start next taken cond operand) =>
    s.follow count Config.linkMax none n start (if s.holds cond operand then taken else next)
  | .ok (.limit l) =>
    if l.final then { last := some l, links := 0, ending := .final }
    else s.follow count Config.linkMax (some l) n l.start l.next

/-- A pass that ends in a fault before its first entry. -/
def Pass.early (reason : FaultReason) (entry link : Nat) : Pass :=
  { last := none, links := 0, ending := .fault reason entry link }

/-- R111: the header read at the beginning of a pass; `f` is the rest of the pass. -/
def State.withHeader (s : State) (f : Header → Pass) : Pass :=
  match readHeader s.ram with
  | none => Pass.early .parity 0 0
  | some h => if h.count = 0 ∨ 255 < h.count then Pass.early .field 0 0 else f h

/-- R119: a pass from the head. -/
def State.passFromHead (s : State) : Pass :=
  s.withHeader fun h =>
    if h.head = 0 then Pass.early .linkHeader 0 0
    else if h.count < h.head then Pass.early .linkRange 0 (min 255 h.head)
    else
      match readEntry s.ram h.head with
      | none => Pass.early .parity h.head h.head
      | some e => s.processFirst h.count true h.head e

/-- R119: a pass from the successor of the active entry. -/
def State.passFromSuccessor (s : State) (e : LimitEntry) : Pass :=
  s.withHeader fun h => s.follow h.count Config.linkMax none e.index e.start e.next

/-- R119, R132: a pass from the pause index. A pause index above the entry count is a LINK_RANGE fault; the entry that held
that link is not among what the walker holds, and `holder` stands for the index reported (log entry 12). -/
def State.passFromPause (s : State) (p : Pause) (holder : Byte) : Pass :=
  s.withHeader fun h =>
    if h.count < p.index then Pass.early .linkRange holder.toNat p.index
    else
      match readEntry s.ram p.index with
      | none => Pass.early .parity p.index p.index
      | some e =>
        if e.start < p.linkerStart then Pass.early .order p.index p.index
        else s.processFirst h.count false p.index e

/-- R128: the start's first pass, from the head entry that the start checks kept and the entry count that they read. -/
def State.passAtStart (s : State) (count : Nat) (head : LimitEntry) : Pass :=
  if head.final then { last := some head, links := 0, ending := .final }
  else s.follow count Config.linkMax (some head) head.index head.start head.next

/-! ### The end of a pass (R122, R123, R125, R130, R134, R135) -/

/-- R125: a LIMIT entry activated; with `faulted`, the fault-ceiling term appears in the same event (R134). -/
def State.activate (cause : PassCause) (faulted : Bool) (e : LimitEntry) (s : State) : State :=
  let t := State.putInForce e.w e.set e.h e.k { s with walker := { s.walker with active := some e } }
  let moved := decide (e.set ≠ s.acc.set)
  let t := t.changeTerms fun k g =>
    { g with
      sched := some e.ceil[k]
      lost := if moved then t.lostTerm k else g.lost
      fault := if faulted then t.faultTerm true else g.fault }
  t.postEntryActivated e.index cause

/-- R135: the fault record written in full when its state reads EMPTY with good parity, else marked. -/
def Memory.recordFault (m : Memory) (reason entry link clock found : Nat) : Memory :=
  if m.badAt Config.faultBase = false ∧ m.byte Config.faultBase = 0 then
    ((m.writeBytes (Config.faultBase + 1)
      (leBytes 1 reason ++ leBytes 1 entry ++ leBytes 1 link ++ leBytes 4 clock ++ leBytes 1 found ++ leBytes 1 0)).writeLe
        Config.faultBase 1 1)
  else m.writeLe (Config.faultBase + 9) 1 1

/-- R134, steps 3 to 5, once the walker's own state is FAULTED. -/
def State.reportFault (reason : FaultReason) (entry link : Nat) (found : WalkerState) (s : State) : State :=
  let t := s.postScheduleFault entry reason.code link
  t.setRam (t.ram.recordFault reason.code entry link t.clock found.code)

/-- What the end of a pass does. `found` is the walker state in which the event found the walker; `starting` for the
start's first pass. -/
def State.endPass (cause : PassCause) (starting : Bool) (found : WalkerState) (p : Pass) (s : State) : State :=
  let s := { s with walker := { s.walker with links := p.links, pause := none } }
  let activateLast := fun (t : State) => match p.last with
    | some e => t.activate cause false e
    | none => t
  let goTo := fun (w : WalkerState) (t : State) => { t with walker := { t.walker with state := w } }
  match p.ending with
  | .notDue => goTo .waiting (activateLast s)
  | .final => goTo .final (activateLast s)
  | .watch pause =>
    let t := activateLast s
    let t := { t with walker := { t.walker with state := .paused, pause := some pause } }
    t.postWatchReached pause.index ((t.walker.active.map LimitEntry.index).getD 0)
  | .fault reason entry link =>
    let t := match starting, p.last with
      | true, some e => s.activate cause true e
      | _, _ => s.changeTerms fun _ g => { g with fault := s.faultTerm true }
    (goTo .faulted t).reportFault reason entry link found

/-! ### The events that begin a pass (R119) -/

/-- A second event at the walker: a pass from the successor in WAITING. -/
def State.walkerSecond (s : State) : State :=
  if s.walker.state = .waiting then
    match s.walker.active with
    | some e => s.endPass .second false .waiting (s.passFromSuccessor e)
    | none => s
  else s

/-- R126: a movement of the clock at the walker: in WAITING, PAUSED and FINAL a pass from the head. -/
def State.walkerMoved (s : State) : State :=
  if s.walker.state = .waiting ∨ s.walker.state = .paused ∨ s.walker.state = .final then
    s.endPass .clockSet false s.walker.state s.passFromHead
  else s

/-- R137: FAULTED left, with the fault-ceiling term removed as one event (R136). -/
def State.leaveFaulted (s : State) : State :=
  if s.walker.state = .faulted then s.changeTerms fun _ g => { g with fault := none } else s

/-- R137: a restart taken, and the pass it made. -/
def State.walkerRestart (s : State) : State × Pass :=
  let t := s.leaveFaulted
  let p := t.passFromHead
  (t.endPass .restart false s.walker.state p, p)

/-- R132: a resume taken from a pause, and the pass it made. -/
def State.walkerResume (pause : Pause) (holder : Byte) (s : State) : State × Pass :=
  let p := s.passFromPause pause holder
  (s.endPass .resume false s.walker.state p, p)

/-- The fault reason of a pass as a result gives it, 0 when none (Table 9-8). -/
def Pass.reasonCode (p : Pass) : Nat :=
  match p.ending with
  | .fault reason _ _ => reason.code
  | .notDue => 0
  | .final => 0
  | .watch _ => 0

/-- The walker's return to UNSTARTED on a stop (R118). -/
def Walker.stop (w : Walker) : Walker := { w with state := .unstarted, active := none, pause := none }

end Sys2Proof.Machine
end

