-- ==== Sys2Proof/Machine/Slots.lean ====
section
/-! DEFINITION. The Request Scanner's own work (section 7.6): the scan's progress, the reading of a slot, the writing
of a final state, and the completion of a request in flight. -/

namespace Sys2Proof.Machine

/-! ### Writing a slot (R170, R171) -/

/-- The results of a request written into its slot (Table 9-8). -/
def Memory.writeResults (m : Memory) (i : Slot) (results : List Result) : Memory :=
  results.foldl (fun m r => m.writeLe (slotAddr i + r.off) r.size r.value) m

/-- R170: the results first, then the result code, then the state. -/
def Memory.finishSlot (m : Memory) (i : Slot) (state code : Nat) (results : List Result) : Memory :=
  (((m.writeResults i results).writeLe (slotAddr i + 0x03) 1 code).writeLe (slotAddr i) 1 state)

/-- R171: REQUEST_DONE, when the notify flag of the internal copy is set. -/
def State.notifyDone (i : Slot) (copy : List Byte) (code : Nat) (s : State) : State :=
  if copyNotify copy then s.postRequestDone i (copyKind copy) code else s

/-- The final state of a request that its owner completes or refuses within its taking (R170). -/
def State.answer (i : Slot) (copy : List Byte) (reply : Reply) (s : State) : State :=
  match reply with
  | .done results => (s.setRam (s.ram.finishSlot i slotDone 0 results)).notifyDone i copy 0
  | .refused code results => (s.setRam (s.ram.finishSlot i slotRefused code.code results)).notifyDone i copy code.code
  | .taken => s.setRam (s.ram.writeLe (slotAddr i) 1 slotTaken)

/-- Whether a slot's state byte reads a value with good parity (R168). -/
def Memory.slotReads (m : Memory) (i : Slot) (value : Nat) : Bool :=
  !m.badAt (slotAddr i) && decide ((m.byte (slotAddr i)).toNat = value)

/-- R168: whether a slot has a request in flight. -/
def Scanner.hasInFlight (c : Scanner) (i : Slot) : Bool := c.inFlight.any fun f => decide (f.slot = i)

/-- A slot's in-flight mark and internal copy removed. -/
def Scanner.forget (c : Scanner) (i : Slot) : Scanner := { c with inFlight := c.inFlight.filter fun f => decide (f.slot ≠ i) }

/-- R171: a request in flight finishes with DONE. The slot is written when its state still reads TAKEN; the in-flight mark
goes in either case, and REQUEST_DONE is handed in either case. -/
def State.complete (i : Slot) (results : List Result) (s : State) : State :=
  match s.scanner.inFlight.find? fun f => decide (f.slot = i) with
  | some f =>
    let ram := if s.ram.slotReads i slotTaken then s.ram.finishSlot i slotDone 0 results else s.ram
    ({ s with ram := ram, scanner := s.scanner.forget i }).notifyDone i f.copy 0
  | none => s

/-- R176: every slot with a request in flight refused with RESET where its state reads TAKEN; no results, no notice. -/
def Memory.refuseInFlight (m : Memory) (fs : List InFlight) : Memory :=
  fs.foldl (fun m f => if m.slotReads f.slot slotTaken then m.finishSlot f.slot slotRefused ResultCode.reset.code [] else m) m

/-! ### The scan (R169) -/

/-- The slot `n` places after slot `i`, in circular index order. -/
def slotAfter (i : Slot) (n : Nat) : Slot := Fin.ofNat 32 (i.val + n)

/-- R169: a second event, an ATTENTION write or the end of STARTING asks for a scan: it begins, or sets the pending-scan
flag while one is in progress. -/
def Scanner.beginScan (c : Scanner) : Scanner :=
  if c.scan.isSome then { c with again := true }
  else { c with scan := some { next := c.pointer, left := 32, last := none } }

/-- R169: the part leaves STARTING: a pending scan is taken unless one is in progress. -/
def Scanner.leaveStarting (c : Scanner) : Scanner :=
  if c.again && c.scan.isNone then { c with again := false }.beginScan else c

/-- R169: the scan ends: the pointer moves one past the last slot taken, and a pending scan begins. -/
def Scanner.endScan (c : Scanner) (p : Scan) : Scanner :=
  let c := { c with scan := none, pointer := match p.last with | some i => slotAfter i 1 | none => c.pointer }
  if c.again then { c with again := false }.beginScan else c

/-- R169: a slot that the scan takes when it reads it: its state reads POSTED and it has no request in flight. -/
def State.takes (s : State) (i : Slot) : Bool := s.ram.slotReads i slotPosted && !s.scanner.hasInFlight i

/-- How many slots a scan passes over, of the `left` it has still to read from `i` on, before one that it takes. -/
def State.passOver (s : State) (i : Slot) : Nat → Option Nat
  | 0 => none
  | left + 1 => if s.takes i then some 0 else (s.passOver (slotAfter i 1) left).map (· + 1)

/-- The slot that the scan in progress takes next, and the scan's progress once it has been read. In RESET_BUSY and
STARTING the scan stands still (Table 7-1, log entry 5). -/
def State.nextTaken (s : State) : Option (Slot × Scan) :=
  if s.run.state = .idle ∨ s.run.state = .running then
    match s.scanner.scan with
    | some p =>
      match s.passOver p.next p.left with
      | some n =>
        let i := slotAfter p.next n
        some (i, { next := slotAfter i 1, left := p.left - (n + 1), last := some i })
      | none => none
    | none => none
  else none

end Sys2Proof.Machine
end

