-- ==== Sys2Proof/Machine/AmbientMeasure.lean ====
section
/-! DEFINITION. The ambient measurement (section 6.4): its part of a driving closure, its completion and its abort.
The collecting of samples stands with the advances (Accounts.lean). -/

namespace Sys2Proof.Machine

/-- R148: a measurement is in flight while the phase is SETTLING or MEASURING. -/
def Ambient.inFlight (m : Ambient) : Bool := decide (m.phase ≠ .none)

/-- Settling rounds counted so far (R152, R153). -/
def Ambient.settled (m : Ambient) : Nat := 5 - m.settle

/-- Measuring rounds counted so far (R152, R153). -/
def Ambient.measured (m : Ambient) : Nat := if m.phase = .measuring then m.dur - m.measure else 0

/-- R152, step 1: a masked station whose count satisfies 2c ≥ D is updated. -/
def Ambient.qualifies (m : Ambient) (st : Station) : Bool :=
  m.mask.getLsbD st.val && decide (m.dur ≤ 2 * m.got[st].count)

/-- R152: the updated mask as a number. -/
def Ambient.updatedMask (m : Ambient) : Nat := (allStations.map fun st => if m.qualifies st then 2 ^ st.val else 0).sum

/-- R152, step 1: the table entries that a completion writes. -/
def BookStore.takeAmbient (b : BookStore) (m : Ambient) : BookStore :=
  { b with
    ambA := Vector.ofFn fun st : Fin 16 => if m.qualifies st then m.got[st].sumA / m.got[st].count else b.ambA[st]
    ambC := Vector.ofFn fun st : Fin 16 => if m.qualifies st then m.got[st].sumC / m.got[st].count else b.ambC[st] }

/-- The results of a MEASURE_AMBIENT (Table 9-8): outcome, settling rounds, measuring rounds, updated mask. -/
def ambientResults (outcome settling measuring updated : Nat) : List Result :=
  [⟨0x20, 1, outcome⟩, ⟨0x21, 1, settling⟩, ⟨0x22, 2, measuring⟩, ⟨0x24, 2, updated⟩]

/-- The phase becomes NONE. -/
def State.endAmbient (s : State) : State :=
  { s with acc := { s.acc with ambient := { s.acc.ambient with phase := .none } } }

/-- R152: the measurement `m` completes. -/
def State.completeAmbient (m : Ambient) (s : State) : State :=
  let t := { s with book := s.book.takeAmbient m }
  ((t.setAmbientMute false).complete m.slot (ambientResults 1 m.settled m.measured m.updatedMask)).endAmbient

/-- R153, steps 1 to 4, and R154: the measurement in flight ends ABORTED. -/
def State.abortAmbient (s : State) : State :=
  let m := s.acc.ambient
  ((s.setAmbientMute false).complete m.slot (ambientResults 2 m.settled m.measured 0)).endAmbient

/-- R150: the measurement's part of a driving closure, taken after the closure's advances. -/
def State.ambientClosure (s : State) : State :=
  let m := s.acc.ambient
  let put := fun (m : Ambient) => { s with acc := { s.acc with ambient := m } }
  match m.phase with
  | .none => s
  | .settling =>
    if m.settle ≤ 1 then put { m with settle := 0, phase := .measuring, measure := m.dur }
    else put { m with settle := m.settle - 1 }
  | .measuring =>
    if m.measure ≤ 1 then (put { m with measure := 0 }).completeAmbient { m with measure := 0 }
    else put { m with measure := m.measure - 1 }

end Sys2Proof.Machine
end

