-- ==== Sys2Proof/Machine/Poller.lean ====
section
/-! DEFINITION. The Station Poller (chapter 3): station states, loop states, the choice of a loop, attempts and
exchanges, rounds and their closures, probes and loop tests. -/

namespace Sys2Proof.Machine

/-! ### Station states (section 3.4) -/

/-- A station's state set, with what R74 hands on: STATION_STALE, STATION_LOST (with the consecutive-missing count after
the step), and the lost-station terms when LOST is entered or left. -/
def State.setStationState (st : Station) (v : StationState) (s : State) : State :=
  let old := s.poller.states[st]
  let missing := s.acc.accts[st].missing
  let t := { s with poller := { s.poller with states := upd s.poller.states st v } }
  let t := t.report .stationStale st (v == .stale) missing
  let t := t.report .stationLost st (v == .lost) missing
  if (old == .lost) = (v == .lost) then t else t.evaluateLost

/-- R72: the state that follows from the consecutive-missing count after a store. -/
def stateAfterStore (missing : Nat) (old : StationState) : StationState :=
  if missing = 0 then .live
  else if missing = 4 ∧ (old = .live ∨ old = .unknown) then .stale
  else if missing = 30 ∧ old = .stale then .lost
  else old

/-- R68, R72: a second outcome handed to the accumulator, and the station's state updated from the count handed back. An
outcome that the accumulator discards (R4) updates nothing. -/
def State.takeOutcome (st : Station) (o : SecondOutcome) (s : State) : State :=
  if s.acc.advanced[st] then s
  else
    let t := s.storeOutcome st o
    t.setStationState st (stateAfterStore t.acc.accts[st].missing t.poller.states[st])

/-! ### Loop states (section 3.5) -/

/-- A loop as a subject of a notice (Table 8-2). -/
def loopSubject : Loop → Fin 16
  | .a => 0
  | .b => 1

/-- R77: the LOOP_DOWN condition of a loop, with its consecutive-failure count. -/
def State.reportLoop (l : Loop) (s : State) : State :=
  s.report .loopDown (loopSubject l) ((s.loopLine l).state == .down) (s.loopLine l).fails

/-- R76: a failed attempt on a loop. A loop that is TESTING keeps its count (log entry 16). -/
def LoopLine.failed (v : LoopLine) : LoopLine :=
  if v.state = .testing then v
  else
    let fails := min 255 (v.fails + 1)
    if fails = 3 ∧ v.state = .good then { v with fails := fails, state := .suspect }
    else if fails = 8 ∧ v.state = .suspect then { v with fails := fails, state := .down, probe := 10 }
    else { v with fails := fails }

/-- R76: a valid reply on a loop. -/
def LoopLine.answered (v : LoopLine) : LoopLine :=
  if v.state = .testing then v else { v with fails := 0, state := .good }

/-- A loop's values changed, with the LOOP_DOWN transition handed on (R77). -/
def State.modLoop (l : Loop) (f : LoopLine → LoopLine) (s : State) : State := (s.setLoop l (f (s.loopLine l))).reportLoop l

/-- R64: a loop is usable for polling while it is GOOD or SUSPECT. -/
def LoopLine.usable (v : LoopLine) : Bool := v.state = .good ∨ v.state = .suspect

/-- R64: the loop of a first attempt. -/
def State.firstLoop (s : State) (pref : Loop) : Loop :=
  if (s.loopLine pref).usable then pref
  else if (s.loopLine (otherLoop pref)).usable then otherLoop pref
  else if (s.loopLine pref).state = .down then pref
  else otherLoop pref

/-- R71: the timing values in force; an exchange runs only while they are held. -/
def State.timing (s : State) : PollTiming := s.poller.timing.getD { timeout := 1, retries := 0, alternate := false }

/-- R64: the loop of a retry after an attempt on `prev`. -/
def State.retryLoop (s : State) (pref prev : Loop) : Loop :=
  if s.timing.alternate && (s.loopLine (otherLoop prev)).usable then otherLoop prev else s.firstLoop pref

/-! ### Attempts (R65) -/

/-- R65: the frame of an attempt put on a loop; it waits for a frame still being transmitted there (log entry 15). -/
def State.putPoll (l : Loop) (addr : Nat) (s : State) : State × AttemptPhase :=
  let v := s.loopLine l
  match v.tx with
  | some _ => (s, .queued)
  | none => (s.setLoop l { v with tx := some (pollFrame addr s.poller.roundNo) }, .sending)

/-- R64: the loop of the exchange's attempt, from the loop states as they stand: a first attempt has no earlier one, and a
retry follows the attempt named first among the earlier ones. -/
def State.attemptLoop (e : Exchange) (s : State) : Loop :=
  match e.earlier with
  | [] => s.firstLoop e.pref
  | prev :: _ => s.retryLoop e.pref prev

/-- R64, R65: the loop of an attempt chosen and its POLL sent there, or queued behind the frame that the line still carries. An
attempt that was queued comes here again when that frame has been sent, so that the loop is the one chosen at the moment of
sending (log entry 46). -/
def State.sendAttempt (e : Exchange) (s : State) : State :=
  let l := s.attemptLoop e
  let p := s.putPoll l e.addr
  { p.1 with poller := { p.1.poller with exch := some { e with loop := l, phase := p.2 } } }

/-- The exchange of a station begins with its first attempt (R63, R64). -/
def State.beginExchange (st : Station) (e : StationEntry) (s : State) : State :=
  s.sendAttempt { station := st, addr := e.addr, pref := e.loop, made := 1, loop := e.loop, phase := .queued, earlier := [] }

/-- R66: a retry of the exchange in progress. -/
def State.retry (e : Exchange) (s : State) : State :=
  s.sendAttempt { e with made := e.made + 1, earlier := e.loop :: e.earlier }

/-! ### Probes (R78) -/

/-- The lowest-indexed station enabled in the Poller's copy, and its entry. -/
def State.probeStation (s : State) : Option (Station × StationEntry) :=
  match s.poller.copy with
  | some copy => (allStations.find? fun st => copy[st].enabled).map fun st => (st, copy[st])
  | none => none

/-- A probe begun on the first loop that is due and still DOWN. -/
def State.beginProbe (s : State) : State :=
  match s.poller.probeDue.filter fun l => decide ((s.loopLine l).state = .down), s.probeStation with
  | l :: rest, some (st, e) =>
    let p := s.putPoll l e.addr
    { p.1 with
      poller := { p.1.poller with
        probeDue := rest, probe := some { station := st, addr := e.addr, loop := l, phase := p.2 } } }
  | _, _ => { s with poller := { s.poller with probeDue := [] } }

/-- R78: after a probe, whatever its result, the probe interval count is 10; a TESTING loop's is held (R80). -/
def LoopLine.probed (v : LoopLine) : LoopLine := if v.state = .testing then v else { v with probe := 10 }

/-- A probe has ended: its loop takes the result, and a loop that is due next is probed. -/
def State.endProbe (p : Probe) (result : LoopLine → LoopLine) (s : State) : State :=
  let t := { s with poller := { s.poller with probe := none } }
  (t.modLoop p.loop fun v => (result v).probed).beginProbe

/-- R78: a probe still in progress when a round opens is abandoned, counting as neither failure nor success. A loop whose probe
was due and had not begun is due no longer, and its count stays 0, so that it is due again at the next closure by last outcome
(log entry 43). -/
def State.abandonProbe (s : State) : State :=
  match s.poller.probe with
  | some p =>
    let t := s.setLoop p.loop (s.loopLine p.loop).probed
    { t with poller := { t.poller with probe := none, probeDue := [] } }
  | none => { s with poller := { s.poller with probeDue := [] } }

/-- R78: the probe interval count of a loop at a round closure in RUNNING. -/
def LoopLine.countDown (v : LoopLine) : LoopLine := if v.state = .down then { v with probe := v.probe - 1 } else v

/-- R78: both probe interval counts at a round closure in RUNNING. -/
def State.countProbes (s : State) : State :=
  let t := s.setLoop .a (s.loopLine .a).countDown
  t.setLoop .b (t.loopLine .b).countDown

/-- R69, R78: the probes due after a closure by last outcome; loop A first. -/
def State.takeProbes (s : State) : State :=
  State.beginProbe
    { s with
      poller := { s.poller with
        probeDue := [Loop.a, Loop.b].filter fun l => decide ((s.loopLine l).state = .down ∧ (s.loopLine l).probe = 0) } }

/-! ### Closures (R69, R70) -/

/-- R69: a closure handed on: the remaining stations advance, the measurement takes its part (R150), the Gain Allocator is
driven (R50); and the probe interval counts go down (R78). -/
def State.closeRound (s : State) : State :=
  let t := { s with poller := { s.poller with roundOpen := false, exch := none, todo := [] } }
  t.advanceRest.ambientClosure.driveGain.countProbes

/-- R69: a closure by last outcome. -/
def State.closeByLastOutcome (s : State) : State := s.closeRound.takeProbes

/-- The stations of the round that are not yet resolved: that of the exchange in progress, then those listed. -/
def Poller.unresolved (p : Poller) : List Station :=
  match p.exch with
  | some e => e.station :: p.todo
  | none => p.todo

/-- Missing outcomes handed for a list of stations, in the order of the list: that of the round (log entry 41). -/
def State.handMissing (sts : List Station) (s : State) : State := sts.foldl (fun t st => t.takeOutcome st .missing) s

/-- R70: a closure by deadline, with ROUND_OVERRUN. -/
def State.closeByDeadline (s : State) : State :=
  let missed := s.poller.unresolved
  let t := ({ s with poller := { s.poller with exch := none, todo := [] } }.handMissing missed).closeRound
  match missed with
  | first :: _ => t.postRoundOverrun first missed.length
  | [] => t

/-- The next listed station's exchange begins, or the round closes by last outcome (R63, R68, R69). -/
def State.proceed (s : State) : State :=
  match s.poller.todo, s.poller.copy with
  | st :: rest, some copy => { s with poller := { s.poller with todo := rest } }.beginExchange st copy[st]
  | _, _ => s.closeByLastOutcome

/-- The exchange in progress ends and its station and address are noted for R59. -/
def State.settle (e : Exchange) (s : State) : State :=
  { s with poller := { s.poller with exch := none, settled := (e.station, e.addr) :: s.poller.settled } }

/-- R68: the exchange in progress ends with an outcome, and the round goes on. -/
def State.endExchange (e : Exchange) (o : SecondOutcome) (s : State) : State :=
  ((s.settle e).takeOutcome e.station o).proceed

/-- R65, R66: the attempt of the exchange in progress fails. -/
def State.failAttempt (e : Exchange) (s : State) : State :=
  let t := s.modLoop e.loop LoopLine.failed
  if e.made < t.timing.retries + 1 then t.retry e else t.endExchange e .missing

/-! ### Rounds (R63) -/

/-- The stations enabled in the Poller's copy, in ascending index. -/
def State.enabledStations (s : State) : List Station := allStations.filter fun st => s.enabledStation st

/-- R81: a TEST frame sent when the previous one has ended and the rounds begun allow another: eight a round. -/
def LoopTest.sendNext (t : LoopTest) : LoopTest :=
  if t.inFlight = false ∧ t.frame < 8 * t.rounds then { t with frame := t.frame + 1, inFlight := true } else t

/-- R81: the opening moment of a round at a loop test. -/
def LoopTest.openRound (t : LoopTest) : LoopTest := { t with rounds := min 2 (t.rounds + 1) }.sendNext

/-- R63: a round opened at a second event in RUNNING, whose value the clock now holds. -/
def State.openRound (s : State) : State :=
  State.proceed
    { s with
      acc := { s.acc with advanced := Vector.replicate 16 false }
      poller := { s.poller with
        roundOpen := true, roundNo := s.clock, todo := s.enabledStations, settled := [], exch := none
        test := s.poller.test.map LoopTest.openRound } }

/-- A second event at the Poller in RUNNING (R63, R70, R78). -/
def State.pollerSecond (s : State) : State :=
  let t := if s.poller.roundOpen then s.closeByDeadline else s
  t.abandonProbe.openRound

/-! ### Loop tests (R81, R82) -/

/-- R81: the loop interface is turned back on itself from the opening of the test's first round. -/
def Poller.loopedBack (p : Poller) (l : Loop) : Option LoopTest :=
  match p.test with
  | some t => if t.loop = l ∧ 0 < t.rounds then some t else none
  | none => none

/-- R82: the results of a LOOP_TEST (Table 9-8): loop, outcome, frames intact. -/
def testResults (l : Loop) (pass : Bool) (intact : Nat) : List Result :=
  [⟨0x20, 1, loopCode l⟩, ⟨0x21, 1, if pass then 1 else 2⟩, ⟨0x22, 1, intact⟩]

/-- R82: a loop after its test: GOOD with count 0, or DOWN with count 8 and probe interval count 10. -/
def LoopLine.afterTest (pass : Bool) (v : LoopLine) : LoopLine :=
  if pass then { v with state := .good, fails := 0 } else { v with state := .down, fails := 8, probe := 10 }

/-- R82: the test completes. -/
def State.completeTest (t : LoopTest) (s : State) : State :=
  let pass := decide (t.intact = 16)
  let u := ({ s with poller := { s.poller with test := none } }).complete t.slot (testResults t.loop pass t.intact)
  u.modLoop t.loop (LoopLine.afterTest pass)

/-- R81: the TEST frame in flight has returned or timed out. -/
def State.endTestFrame (t : LoopTest) (intact : Bool) (s : State) : State :=
  let t := { t with inFlight := false, intact := t.intact + boolCode intact }
  if t.frame = 16 then s.completeTest t
  else { s with poller := { s.poller with test := some t.sendNext } }

/-! ### Frames and timers (R58, R59, R65, R67, R78) -/

/-- R59: the kinds of a frame that ends on a loop. -/
inductive ReplyKind where
  | valid (o : SecondOutcome)
  | stray
  | bad
deriving DecidableEq, Repr

/-- R58, R59: a frame judged against the station address of an exchange or probe; `bad` is an invalid frame or a mismatched
reply. -/
def Poller.judge (p : Poller) (addr : Nat) (bytes : List Byte) : ReplyKind :=
  match parseSecond bytes with
  | none => .bad
  | some f =>
    if f.echo = p.roundNo % 256 then
      if f.addr = addr then .valid f.outcome
      else if p.settled.any fun d => decide (d.2 = f.addr) then .stray
      else .bad
    else .bad

/-- R65: whether an attempt waits for a reply. -/
def AttemptPhase.awaits : AttemptPhase → Bool
  | .queued => false
  | .sending => false
  | .waiting => true
  | .expired => true

/-- R65, R67: a judged frame at the exchange in progress. -/
def State.frameAtExchange (l : Loop) (e : Exchange) (kind : ReplyKind) (s : State) : State :=
  if e.loop = l then
    if e.phase.awaits then
      match kind with
      | .valid o => (s.modLoop l LoopLine.answered).endExchange e o
      | .stray => if e.phase = .expired then s.failAttempt e else s
      | .bad => s.failAttempt e
    else s
  else if e.earlier.contains l then
    match kind with
    | .valid o => (s.modLoop l LoopLine.answered).endExchange e o
    | .stray => s
    | .bad => s
  else s

/-- R78: a judged frame at the probe in progress. -/
def State.frameAtProbe (l : Loop) (p : Probe) (kind : ReplyKind) (s : State) : State :=
  if p.loop = l ∧ p.phase.awaits = true then
    match kind with
    | .valid _ => s.endProbe p LoopLine.answered
    | .stray => if p.phase = .expired then s.endProbe p LoopLine.failed else s
    | .bad => s.endProbe p LoopLine.failed
  else s

/-- R56, R58, R59: a frame of these bytes ends on a loop, complete or not. -/
def State.loopFrame (l : Loop) (bytes : List Byte) (s : State) : State :=
  match s.poller.loopedBack l with
  | some t => if t.inFlight then s.endTestFrame t (decide (bytes = testFrame t.frame)) else s
  | none =>
    if (s.loopLine l).tx.isSome then s
    else
      match s.poller.exch, s.poller.probe with
      | some e, _ => s.frameAtExchange l e (s.poller.judge e.addr bytes)
      | none, some p => s.frameAtProbe l p (s.poller.judge p.addr bytes)
      | none, none => s

/-- R65, R78: the reply timer of an attempt or probe on a loop expires. -/
def State.replyExpiry (l : Loop) (receiving : Bool) (s : State) : State :=
  match s.poller.exch, s.poller.probe with
  | some e, _ =>
    if e.loop = l ∧ e.phase = .waiting then
      if receiving then { s with poller := { s.poller with exch := some { e with phase := .expired } } }
      else s.failAttempt e
    else s
  | none, some p =>
    if p.loop = l ∧ p.phase = .waiting then
      if receiving then { s with poller := { s.poller with probe := some { p with phase := .expired } } }
      else s.endProbe p LoopLine.failed
    else s
  | none, none => s

/-- The exchange in progress once its loop's line is free: a queued attempt is sent (R64), and one that was being sent starts
its reply timer (R65). -/
def State.attemptSent (e : Exchange) (s : State) : State :=
  match e.phase with
  | .queued => s.sendAttempt e
  | .sending => { s with poller := { s.poller with exch := some { e with phase := .waiting } } }
  | .waiting => s
  | .expired => s

/-- The probe in progress once its loop's line is free, as for an attempt. A queued probe whose loop is DOWN no more is dropped
unsent, and a loop that is due next is probed (R76, R78; log entry 46). -/
def State.probeSent (b : Probe) (s : State) : State :=
  match b.phase with
  | .queued =>
    if (s.loopLine b.loop).state = .down then
      let p := s.putPoll b.loop b.addr
      { p.1 with poller := { p.1.poller with probe := some { b with phase := p.2 } } }
    else { s with poller := { s.poller with probe := none } }.beginProbe
  | .sending => { s with poller := { s.poller with probe := some { b with phase := .waiting } } }
  | .waiting => s
  | .expired => s

/-- POLL_SENT (R64, R65): the last byte of the frame on the loop has been sent. With no frame there, the event has no occasion
(log entry 2). -/
def State.pollSent (l : Loop) (s : State) : State :=
  match (s.loopLine l).tx with
  | none => s
  | some _ =>
    let t := s.setLoop l { s.loopLine l with tx := none }
    match t.poller.exch, t.poller.probe with
    | some e, _ => if e.loop = l then t.attemptSent e else t
    | none, some b => if b.loop = l then t.probeSent b else t
    | none, none => t

/-! ### Stop and software reset (R83, R84) -/

/-- R83: a stop ends a loop test in flight. -/
def State.stopTest (s : State) : State :=
  match s.poller.test with
  | some t =>
    let u := ({ s with poller := { s.poller with test := none } }).complete t.slot (testResults t.loop false t.intact)
    u.modLoop t.loop fun v => { v with state := .suspect, fails := 3 }
  | none => s

/-- R6, R84: a stop ends the round's work: missing outcomes for the stations not yet resolved, then the advances of the
rest; nothing is driven. -/
def State.stopRound (s : State) : State :=
  let missed := s.poller.unresolved
  let t := { s with poller := { s.poller with exch := none, probe := none, probeDue := [], todo := [] } }
  if s.poller.roundOpen then
    let t := (t.handMissing missed).advanceRest
    { t with poller := { t.poller with roundOpen := false } }
  else t

/-- R75: a stop makes every station's state UNKNOWN, handing the transitions of those that were STALE or LOST; R13: every
consecutive-missing count becomes 0. The stations, and with them their notices, go in ascending index (log entry 41). -/
def State.stopStations (s : State) : State :=
  let t := { s with
    acc := { s.acc with accts := Vector.ofFn fun st : Fin 16 => { s.acc.accts[st] with missing := 0 } } }
  forStations
    (fun st u =>
      let u := { u with poller := { u.poller with states := upd u.poller.states st .unknown } }
      (u.report .stationStale st false 0).report .stationLost st false 0)
    t

/-- R79, R84: the Poller at a software reset; a frame being transmitted is not cut short (log entry 15). -/
def Poller.softReset (p : Poller) : Poller :=
  { Poller.reset with loops := Vector.ofFn fun i : Fin 2 => { LoopLine.reset with tx := p.loops[i].tx } }

end Sys2Proof.Machine
end

