-- ==== Sys2Proof/Machine/Book.lean ====
section
/-! DEFINITION. The Book Store (sections 6.1 and 6.2): the reading and validation of a book area, and the exchange. -/

namespace Sys2Proof.Machine

/-- R139: why a station record fails. -/
inductive BookCause where
  | parity
  | shareRange
  | shareSum
deriving DecidableEq, Repr

/-- Table 9-8. -/
def BookCause.code : BookCause → Nat
  | .parity => 1
  | .shareRange => 2
  | .shareSum => 3

/-- R139: the first failing record. -/
structure BookFault where
  set : Nat
  station : Nat
  cause : BookCause
deriving DecidableEq, Repr

/-- Table 9-4: the record at a byte offset; bytes 0x10 to 0x17 are not read. -/
def readBookRecord (m : Memory) (a : Nat) : BookRecord :=
  { pLimA := m.readLe a 4, pLimC := m.readLe (a + 4) 4,
    shares := Vector.ofFn fun k : Fin 4 => m.readLe (a + 8 + 2 * k.val) 2 }

/-- The four shares of a record added. -/
def BookRecord.shareSum (r : BookRecord) : Nat := (allStages.map fun k => r.shares[k]).sum

/-- R139: the three checks of one record, in turn. -/
def checkRecord (m : Memory) (a : Nat) : Except BookCause BookRecord :=
  let r := readBookRecord m a
  if m.parityError a 16 then .error .parity
  else if allStages.any fun k => decide (256 < r.shares[k]) then .error .shareRange
  else if 256 < r.shareSum then .error .shareSum
  else .ok r

/-- R139: `left` records read and checked from record `n` of an area on, in the order set 0 to 7 and, within each set,
station 0 to 15. -/
def checkRecords (m : Memory) (base n : Nat) : Nat → Except BookFault (List BookRecord)
  | 0 => .ok []
  | left + 1 =>
    match checkRecord m (base + 24 * n) with
    | .error cause => .error { set := n / 16, station := n % 16, cause := cause }
    | .ok r =>
      match checkRecords m base (n + 1) left with
      | .error f => .error f
      | .ok rest => .ok (r :: rest)

/-- R138, R139: an area read and validated whole. -/
def validateArea (m : Memory) (area : Fin 2) : Except BookFault (List BookRecord) :=
  checkRecords m (Config.bookBase area.val) 0 128

/-- The area that an indicator does not name (R140). -/
def otherArea (area : Fin 2) : Fin 2 := if area = 0 then 1 else 0

/-- R143, R145: the inactive area, read as `b`, becomes the working book; the lost-station terms are evaluated afresh. -/
def State.exchangeBook (b : List BookRecord) (s : State) : State :=
  State.evaluateLost { s with book := { s.book with working := some b, area := otherArea s.book.area } }

end Sys2Proof.Machine
end

