-- ==== Sys2Proof/Machine/Requests.lean ====
section
/-! DEFINITION. The fourteen kinds of request (Table 7-8): for each, what its owning block does with a slot's internal
copy and what it answers; the taking of a slot; and the scan. -/

namespace Sys2Proof.Machine

/-! ### Clock and schedule -/

/-- R126, R186: a movement of the clock from the value `before`, at the walker and at the Log Writer; `logFirst` gives the
order (log entry 33). The Log Writer closes its minute in RUNNING. -/
def State.clockMoved (logFirst : Bool) (before : Nat) (s : State) : State :=
  let close := fun (t : State) =>
    if t.run.state = .running then t.closeMinute (before / 60 + 1) { clockSet := true, stopped := false } else t
  if logFirst then (close s).walkerMoved else close s.walkerMoved

/-- R109: SET_CLOCK. -/
def serveSetClock (logFirst : Bool) (copy : List Byte) (s : State) : State × Reply :=
  let v := field copy 0x04 4
  if Config.clockMax < v then (s, .refused .badField [])
  else
    let t := { s with clock := v }
    let t := if v = s.clock then t else t.clockMoved logFirst s.clock
    (t, .done [⟨0x20, 4, s.clock⟩, ⟨0x24, 4, v⟩, ⟨0x28, 1, t.walker.state.code⟩])

/-- The results of RESTART_SCHEDULE and RESUME_SCHEDULE (Table 9-8). -/
def passResults (p : Pass) (s : State) : List Result :=
  [⟨0x20, 1, s.walker.state.code⟩, ⟨0x21, 1, (s.walker.active.map LimitEntry.index).getD 0⟩, ⟨0x22, 1, p.links⟩,
   ⟨0x23, 1, p.reasonCode⟩]

/-- R137: RESTART_SCHEDULE. -/
def serveRestartSchedule (_copy : List Byte) (s : State) : State × Reply :=
  if s.run.state ≠ .running then (s, .refused .notRunning [])
  else
    let r := s.walkerRestart
    (r.1, .done (passResults r.2 r.1))

/-- R132: RESUME_SCHEDULE. -/
def serveResumeSchedule (holder : Byte) (_copy : List Byte) (s : State) : State × Reply :=
  if s.run.state ≠ .running then (s, .refused .notRunning [])
  else
    match s.walker.state, s.walker.pause with
    | .paused, some pause =>
      let r := s.walkerResume pause holder
      (r.1, .done (passResults r.2 r.1))
    | _, _ => (s, .refused .conflict [])

/-- R133: SET_WATCH. -/
def serveSetWatch (copy : List Byte) (s : State) : State × Reply :=
  let v := field copy 0x04 2
  if s.run.state ≠ .running then (s, .refused .notRunning [])
  else if 255 < v then (s, .refused .badField [])
  else ({ s with walker := { s.walker with watch := v } }, .done [⟨0x20, 1, s.walker.watch⟩])

/-- R143, R144: SWAP_BOOK. -/
def serveSwapBook (_copy : List Byte) (s : State) : State × Reply :=
  if s.run.state ≠ .running then (s, .refused .notRunning [])
  else
    let area := otherArea s.book.area
    match validateArea s.ram area with
    | .ok b => (s.exchangeBook b, .done [⟨0x20, 1, s.book.area.val⟩, ⟨0x21, 1, area.val⟩])
    | .error f =>
      (s, .refused (if f.cause = .parity then .parity else .badField)
        [⟨0x22, 1, area.val⟩, ⟨0x23, 1, f.set⟩, ⟨0x24, 1, f.station⟩, ⟨0x25, 1, f.cause.code⟩])

/-- R116: SET_FLAGS. -/
def serveSetFlags (copy : List Byte) (s : State) : State × Reply :=
  let mask := field copy 0x04 2
  let values := field copy 0x06 2
  if 255 < mask ∨ 255 < values then (s, .refused .badField [])
  else
    let m := BitVec.ofNat 8 mask
    let flags := (s.scanner.flags &&& ~~~m) ||| (BitVec.ofNat 8 values &&& m)
    ({ s with scanner := { s.scanner with flags := flags } }, .done [⟨0x20, 1, flags.toNat⟩])

/-! ### Stages -/

/-- A stage number of a request, 0 to 3 (R172, R173). -/
def stageOf (v : Nat) : Option Stage := if h : v < 4 then some ⟨v, h⟩ else none

/-- A station index of a request, 0 to 15. -/
def stationOf (v : Nat) : Option Station := if h : v < 16 then some ⟨v, h⟩ else none

/-- The hold before, as a result gives it: 0x21 says whether there was one and 0x22 gives it; the manual states no value at
0x22 when there was none, and `unstated` stands there (log entry 11). -/
def holdBefore (unstated : Half) (hold : Option Nat) : List Result :=
  [⟨0x21, 1, boolCode hold.isSome⟩, ⟨0x22, 2, hold.getD unstated.toNat⟩]

/-- H_k and C_k after a hold or a release (R172, R173). -/
def boundResults (g : GainStage) : List Result := [⟨0x26, 2, g.bound⟩, ⟨0x28, 2, g.applied⟩]

/-- R172: HOLD_STAGE. -/
def serveHoldStage (unstated : Half) (copy : List Byte) (s : State) : State × Reply :=
  match stageOf (field copy 0x04 1) with
  | none => (s, .refused .badField [])
  | some k =>
    let v := clamp 0 Config.fullScale (field copy 0x06 2)
    let t := s.setHold k (some v)
    (t, .done ([⟨0x20, 1, k.val⟩] ++ holdBefore unstated s.gain.stages[k].hold ++ [⟨0x24, 2, v⟩] ++ boundResults t.gain.stages[k]))

/-- R173: RELEASE_STAGE. -/
def serveReleaseStage (unstated : Half) (copy : List Byte) (s : State) : State × Reply :=
  match stageOf (field copy 0x04 1) with
  | none => (s, .refused .badField [])
  | some k =>
    let t := s.setHold k none
    (t, .done ([⟨0x20, 1, k.val⟩] ++ holdBefore unstated s.gain.stages[k].hold ++ boundResults t.gain.stages[k]))

/-! ### Ambient -/

/-- R149: the measurement that a MEASURE_AMBIENT begins. -/
def Ambient.begin (slot : Slot) (mask dur : Nat) : Ambient :=
  { phase := .settling, slot := slot, mask := BitVec.ofNat 16 mask, dur := dur, settle := 5, measure := 0,
    got := Vector.replicate 16 .zero }

/-- R149: MEASURE_AMBIENT. -/
def serveMeasureAmbient (slot : Slot) (copy : List Byte) (s : State) : State × Reply :=
  let dur := field copy 0x04 2
  let mask := field copy 0x08 4
  if s.run.state ≠ .running then (s, .refused .notRunning [])
  else if dur < 10 ∨ 300 < dur ∨ mask = 0 ∨ 65535 < mask then (s, .refused .badField [])
  else if s.acc.ambient.inFlight then (s, .refused .busy [])
  else (State.setAmbientMute true { s with acc := { s.acc with ambient := Ambient.begin slot mask dur } }, .taken)

/-- R153: ABORT_AMBIENT. -/
def serveAbortAmbient (_copy : List Byte) (s : State) : State × Reply :=
  if s.acc.ambient.inFlight then (s.abortAmbient, .done [⟨0x20, 1, s.acc.ambient.slot.val⟩])
  else (s, .refused .conflict [])

/-- R147: SET_AMBIENT. -/
def serveSetAmbient (copy : List Byte) (s : State) : State × Reply :=
  match stationOf (field copy 0x04 1) with
  | none => (s, .refused .badField [])
  | some st =>
    if s.acc.ambient.inFlight && s.acc.ambient.mask.getLsbD st.val then (s, .refused .busy [])
    else
      ({ s with
          book := { s.book with
            ambA := upd s.book.ambA st (field copy 0x08 4)
            ambC := upd s.book.ambC st (field copy 0x0C 4) } },
        .done [⟨0x20, 1, st.val⟩, ⟨0x24, 4, s.book.ambA[st]⟩, ⟨0x28, 4, s.book.ambC[st]⟩])

/-! ### Loops -/

/-- R80: a loop number of a request, 0 for A and 1 for B. -/
def loopOf (v : Nat) : Option Loop := if v = 0 then some .a else if v = 1 then some .b else none

/-- R80: LOOP_TEST. -/
def serveLoopTest (slot : Slot) (copy : List Byte) (s : State) : State × Reply :=
  if s.run.state ≠ .running then (s, .refused .notRunning [])
  else
    match loopOf (field copy 0x04 1) with
    | none => (s, .refused .badField [])
    | some l =>
      if s.poller.test.isSome then (s, .refused .busy [])
      else if (s.loopLine (otherLoop l)).state ≠ .good then (s, .refused .conflict [])
      else
        let t := s.modLoop l fun v => { v with state := .testing }
        ({ t with
            poller := { t.poller with
              test := some { loop := l, slot := slot, rounds := 0, frame := 0, inFlight := false, intact := 0 } } },
          .taken)

/-! ### Stations -/

/-- Table 9-3: the entry of a station in the shared RAM table, as it stands there. -/
def readStationEntry (m : Memory) (st : Station) : StationEntry :=
  let a := Config.stationBase + 16 * st.val
  { enabled := bit (m.readLe a 1) 0, addr := m.readLe (a + 1) 1, loop := loopOfByte (m.readLe (a + 2) 1) }

/-- Whether the bytes that Table 9-3 names hold a parity error in any entry (log entry 17). -/
def stationTableParity (m : Memory) : Bool :=
  allStations.any fun st => m.parityError (Config.stationBase + 16 * st.val) 3

/-- R61: the entries that a SET_STATION is checked against: the Poller's copy, or the RAM table when it holds none. -/
def State.entries (s : State) : Vector StationEntry 16 :=
  match s.poller.copy with
  | some copy => copy
  | none => Vector.ofFn fun st : Fin 16 => readStationEntry s.ram st

/-- R61: an entry written into the shared RAM station table with good parity. -/
def Memory.writeStationEntry (m : Memory) (st : Station) (e : StationEntry) : Memory :=
  m.writeBytes (Config.stationBase + 16 * st.val)
    (leBytes 1 (boolCode e.enabled) ++ leBytes 1 e.addr ++ leBytes 1 (loopCode e.loop))

/-- R174: the parameters of a SET_STATION. -/
structure StationChange where
  mask : Nat
  enable : Nat
  addr : Nat
  loop : Nat
deriving DecidableEq, Repr

/-- R174, check 1, but for the station index. -/
def StationChange.valid (c : StationChange) : Bool :=
  decide (c.mask ≤ 7) && (!bit c.mask 0 || decide (c.enable ≤ 1)) && (!bit c.mask 1 || decide (1 ≤ c.addr ∧ c.addr ≤ 62)) &&
    (!bit c.mask 2 || decide (c.loop ≤ 1))

/-- R174: the entry after a change; what the mask does not name keeps its value. -/
def StationChange.apply (c : StationChange) (e : StationEntry) : StationEntry :=
  { enabled := if bit c.mask 0 then decide (c.enable = 1) else e.enabled
    addr := if bit c.mask 1 then c.addr else e.addr
    loop := if bit c.mask 2 then loopOfByte c.loop else e.loop }

/-- R174, checks 2 and 3: why an entry after the change is refused, if it is. With no copy held, R61 and R174 order neither the
parity of the table against the conflict nor say whether an entry left disabled has the table read: all 16 entries are read for
parity first, for such an entry too (log entry 47). -/
def State.stationRefusal (s : State) (st : Station) (e : StationEntry) : Option ResultCode :=
  if e.enabled && !decide (1 ≤ e.addr ∧ e.addr ≤ 62) then some .badField
  else if s.poller.copy.isNone && stationTableParity s.ram then some .parity
  else if e.enabled && allStations.any fun o => decide (o ≠ st) && s.entries[o].enabled && decide (s.entries[o].addr = e.addr) then
    some .conflict
  else none

/-- R61: the changed entry put into the Poller's copy, when it holds one, and into the RAM table. -/
def State.putEntry (st : Station) (e : StationEntry) (s : State) : State :=
  { s with
    ram := s.ram.writeStationEntry st e
    poller := { s.poller with copy := s.poller.copy.map fun copy => upd copy st e } }

/-- R13, R31, R38: a disable at the accumulator: the count 0, the overdrawn states and UNCONTROLLABLE cleared, with the
transitions handed on. -/
def State.disableAccount (st : Station) (s : State) : State :=
  let a := s.acc.accts[st]
  let t := s.setAccount st
    { a with missing := 0, a := { a.a with overdrawn := false }, c := { a.c with overdrawn := false }, unctl := false }
  (t.handExceed st).report .uncontrollable st false a.qs

/-- R62: a disable at the round that is open: the station leaves the list, or its exchange is abandoned and the round goes
on. With no round open R62 is silent: a probe in progress runs on, at the address with which it was begun, whatever a SET_STATION
makes of the probed station (log entry 42). -/
def State.disableInRound (st : Station) (s : State) : State :=
  if s.poller.roundOpen then
    match s.poller.exch with
    | some e =>
      if e.station = st then (s.settle e).proceed
      else { s with poller := { s.poller with todo := s.poller.todo.filter fun o => decide (o ≠ st) } }
    | none => s
  else s

/-- R24: whether an enable primes the station. -/
def State.primesOnEnable (s : State) (st : Station) : Bool := decide (s.acc.accts[st].n = 0) && s.book.working.isSome

/-- R24, R61, R62, R73: a SET_STATION that passes its checks takes effect. -/
def State.changeStation (st : Station) (before after : StationEntry) (s : State) : State :=
  let t := s.putEntry st after
  if before.enabled && !after.enabled then
    ((t.disableAccount st).setStationState st .disabled).disableInRound st
  else if !before.enabled && after.enabled then
    let t := t.setStationState st .unknown
    if t.primesOnEnable st then t.prime st else t
  else t

/-- The three bytes of an entry as a result gives them (Table 9-8). -/
def entryResults (off : Nat) (e : StationEntry) : List Result :=
  [⟨off, 1, boolCode e.enabled⟩, ⟨off + 1, 1, e.addr⟩, ⟨off + 2, 1, loopCode e.loop⟩]

/-- R174: SET_STATION. -/
def serveSetStation (copy : List Byte) (s : State) : State × Reply :=
  let c : StationChange :=
    { mask := field copy 0x05 1, enable := field copy 0x06 1, addr := field copy 0x07 1, loop := field copy 0x08 1 }
  match stationOf (field copy 0x04 1) with
  | none => (s, .refused .badField [])
  | some st =>
    let before := s.entries[st]
    let after := c.apply before
    let results := fun (t : State) (primed : Bool) =>
      entryResults 0x20 before ++ entryResults 0x24 after ++
        [⟨0x28, 1, t.poller.states[st].code⟩, ⟨0x29, 1, boolCode primed⟩]
    if !c.valid then (s, .refused .badField [])
    else if c.mask = 0 then (s, .done (results s false))
    else
      match s.stationRefusal st after with
      | some code => (s, .refused code [])
      | none =>
        let t := s.changeStation st before after
        (t, .done (results t (!before.enabled && after.enabled && s.primesOnEnable st)))

/-- Table 9-9: the READ_WINDOW report. -/
def windowReport (st : Station) (v : StationState) (a : Account) : List Result :=
  [⟨0x04, 1, st.val⟩, ⟨0x05, 1, v.code⟩, ⟨0x06, 2, a.qs⟩, ⟨0x08, 8, a.a.s⟩, ⟨0x10, 8, a.a.allow⟩, ⟨0x18, 8, a.c.s⟩,
   ⟨0x20, 8, a.c.allow⟩, ⟨0x28, 4, a.a.pLim⟩, ⟨0x2C, 4, a.a.pAmb⟩, ⟨0x30, 4, a.c.pLim⟩, ⟨0x34, 4, a.c.pAmb⟩,
   ⟨0x38, 2, a.n⟩, ⟨0x3A, 2, a.a.q⟩, ⟨0x3C, 2, a.c.q⟩, ⟨0x3E, 2, a.gs⟩]

/-- R175: READ_WINDOW. -/
def serveReadWindow (copy : List Byte) (s : State) : State × Reply :=
  match stationOf (field copy 0x04 1) with
  | none => (s, .refused .badField [])
  | some st => (s, .done (windowReport st s.poller.states[st] s.acc.accts[st]))

/-! ### The taking of a slot (R170) -/

/-- What a scan finds in a slot that it takes: a request of a kind, or one that REQUEST_BAD_KIND refuses. -/
inductive SlotKind where
  | kind (k : RequestKind)
  | bad (code : ResultCode)
deriving DecidableEq, Repr

/-- R170, checks 1 and 2, on the whole slot as it stands in RAM. -/
def Memory.slotKind (m : Memory) (i : Slot) : SlotKind :=
  if m.parityError (slotAddr i) 64 then .bad .parity
  else
    match RequestKind.ofByte (copyKind (m.read (slotAddr i) 64)) with
    | some k => .kind k
    | none => .bad .badKind

/-- What the manual leaves open in a taking, as the commands carry it. -/
structure Open where
  logFirst : Bool
  unstated : Half
deriving DecidableEq, Repr

/-- R170, check 3: a request of a known kind handed to its owning block. -/
def serve (o : Open) (i : Slot) (copy : List Byte) (s : State) : RequestKind → State × Reply
  | .setClock => serveSetClock o.logFirst copy s
  | .restartSchedule => serveRestartSchedule copy s
  | .resumeSchedule => serveResumeSchedule (o.unstated.setWidth 8) copy s
  | .setWatch => serveSetWatch copy s
  | .swapBook => serveSwapBook copy s
  | .setFlags => serveSetFlags copy s
  | .holdStage => serveHoldStage o.unstated copy s
  | .releaseStage => serveReleaseStage o.unstated copy s
  | .measureAmbient => serveMeasureAmbient i copy s
  | .abortAmbient => serveAbortAmbient copy s
  | .setAmbient => serveSetAmbient copy s
  | .loopTest => serveLoopTest i copy s
  | .setStation => serveSetStation copy s
  | .readWindow => serveReadWindow copy s

/-- R170: the request is marked in flight when its owner takes it and does not finish it. -/
def State.markInFlight (i : Slot) (copy : List Byte) (reply : Reply) (s : State) : State :=
  if reply = .taken then
    { s with scanner := { s.scanner with inFlight := { slot := i, copy := copy } :: s.scanner.inFlight } }
  else s

/-- R170: a slot taken: its internal copy made, the request served or refused, and the outcome written. `progress` is the
scan's progress once the slot has been read. -/
def State.takeSlot (o : Open) (i : Slot) (progress : Scan) (s : State) : State :=
  let copy := s.ram.read (slotAddr i) 64
  let t := { s with scanner := { s.scanner with scan := some progress } }
  let r := match s.ram.slotKind i with
    | .kind k => serve o i copy t k
    | .bad code => (t, .refused code [])
  (r.1.answer i copy r.2).markInFlight i copy r.2

/-- One command of a request kind: the scan in progress takes slot `i`, when that is the slot it takes next and holds that
kind. Otherwise the event has no occasion (log entry 2). -/
def State.takeKind (o : Open) (want : SlotKind → Bool) (i : Slot) (s : State) : State :=
  match s.nextTaken with
  | some (j, progress) => if i = j ∧ want (s.ram.slotKind i) = true then s.takeSlot o i progress else s
  | none => s

/-- REQUEST_SCAN: at most `n` takings, and then the end of the scan. -/
def State.runScan (o : Open) : Nat → State → State
  | 0, s => s
  | n + 1, s =>
    match s.nextTaken with
    | some (i, progress) => State.runScan o n (s.takeSlot o i progress)
    | none =>
      match s.scanner.scan with
      | some p => { s with scanner := s.scanner.endScan p }
      | none => s

/-- R169: the scan in progress runs to its end. In RESET_BUSY and STARTING it stands still (log entry 5). -/
def State.scanToEnd (o : Open) (s : State) : State :=
  if s.run.state = .idle ∨ s.run.state = .running then
    match s.scanner.scan with
    | some p => s.runScan o (p.left + 1)
    | none => s
  else s

end Sys2Proof.Machine
end

