-- ==== Sys2Proof/Machine/RunControl.lean ====
section
/-! DEFINITION. Run Control (sections 7.1 to 7.5): the start checks and the successful start, the stop, the software
reset and the RESET input. -/

namespace Sys2Proof.Machine

/-! ### The configuration block (Table 9-2) -/

/-- R162, R180, R183: what a start takes from the configuration block, with the clamps made. -/
structure StartConfig where
  timing : PollTiming
  gain : GainConfig
  link : LinkConfig
  area : Nat
  watch : Nat
  mode : LogMode
  edges : Vector EdgeSelection 9
deriving DecidableEq, Repr

/-- Table 9-2: a field of the configuration block. -/
def configField (m : Memory) (off n : Nat) : Nat := m.readLe (Config.configBase + off) n

/-- Whether the bytes that Table 9-2 names hold a parity error; offset 0x1B is named by no field (log entry 17). -/
def configParity (m : Memory) : Bool :=
  m.parityError Config.configBase 0x1B || m.parityError (Config.configBase + 0x1C) 9

/-- R162: the configuration block read, with the clamps of the start checks. -/
def readConfig (m : Memory) : StartConfig :=
  { timing :=
      { timeout := clamp 1 20 (configField m 0x00 2), retries := clamp 0 2 (configField m 0x02 1),
        alternate := bit (configField m 0x03 1) 0 }
    gain :=
      { dn := clamp 1 4096 (configField m 0x04 2), up := clamp 1 4096 (configField m 0x06 2),
        cMin := clamp 1 256 (configField m 0x08 2), fault := configField m 0x0A 2,
        lost := Vector.ofFn fun k : Fin 4 => configField m (0x10 + 2 * k.val) 2 }
    link :=
      { enabled := Vector.ofFn fun k : Fin 4 => bit (configField m 0x0E 1) k.val, stopCeiling := configField m 0x0C 2 }
    area := configField m 0x0F 1
    watch := if 255 < configField m 0x18 2 then 0 else configField m 0x18 2
    mode := logModeOfByte (configField m 0x1A 1)
    edges := Vector.ofFn fun i : Fin 9 => edgeOfByte (configField m (0x1C + i.val) 1) }

/-! ### The start checks (R162, Table 7-3) -/

/-- R60: an entry as the Poller loads it: an enabled entry whose address is 0 or above 62 is loaded as disabled. -/
def StationEntry.loaded (e : StationEntry) : StationEntry :=
  { e with enabled := e.enabled && decide (1 ≤ e.addr ∧ e.addr ≤ 62) }

/-- R60: the Poller's copy of the sixteen entries. -/
def readStationTable (m : Memory) : Vector StationEntry 16 := Vector.ofFn fun st : Fin 16 => (readStationEntry m st).loaded

/-- R60: two enabled entries have the same address (log entry 18). -/
def duplicateAddress (copy : Vector StationEntry 16) : Bool :=
  allStations.any fun i => allStations.any fun j =>
    decide (i ≠ j) && copy[i].enabled && copy[j].enabled && decide (copy[i].addr = copy[j].addr)

/-- Table 7-3, check 4. -/
def StartConfig.ceilingAbove (c : StartConfig) : Bool :=
  decide (4096 < c.link.stopCeiling) || decide (4096 < c.gain.fault) || allStages.any fun k => decide (4096 < c.gain.lost[k])

/-- R128: the entry count and the head entry, when the schedule header and the head entry are usable. -/
def readHead (m : Memory) : Option (Nat × LimitEntry) :=
  match readHeader m with
  | none => none
  | some h =>
    if h.count = 0 ∨ 255 < h.count ∨ h.head = 0 ∨ h.count < h.head then none
    else
      match readEntry m h.head with
      | none => none
      | some e =>
        match e.validate h.head true with
        | .ok (.limit l) => some (h.count, l)
        | .ok (.test _ _ _ _ _) => none
        | .error _ => none

/-- What start checks that all pass have read. -/
structure StartData where
  config : StartConfig
  copy : Vector StationEntry 16
  area : Fin 2
  book : List BookRecord
  count : Nat
  head : LimitEntry
deriving DecidableEq, Repr

/-- R141, Table 7-3, checks 5 to 7: the area that the configuration names, read and validated. -/
def checkArea (m : Memory) (area : Nat) : Except StartError (Fin 2 × List BookRecord) :=
  if h : area < 2 then
    match validateArea m ⟨area, h⟩ with
    | .ok book => .ok (⟨area, h⟩, book)
    | .error f => .error (if f.cause = .parity then .parity else .book)
  else .error .bookArea

/-- R162: the start checks in the order of Table 7-3; the first failing check decides. What they read is read in one step
(log entry 19). -/
def startCheck (m : Memory) : Except StartError StartData :=
  let config := readConfig m
  let copy := readStationTable m
  if configParity m then .error .parity
  else if stationTableParity m then .error .parity
  else if duplicateAddress copy then .error .duplicateAddress
  else if config.ceilingAbove then .error .ceiling
  else
    match checkArea m config.area with
    | .error e => .error e
    | .ok (area, book) =>
      match readHead m with
      | none => .error .schedule
      | some (count, head) =>
        .ok { config := config, copy := copy, area := area, book := book, count := count, head := head }

/-! ### The successful start (R164) -/

/-- R180, R183, R193: the Notice Writer and the Log Writer take their configuration; a minute opens (R184). -/
def State.startWriters (c : StartConfig) (s : State) : State :=
  let t := { s with
    notices := { s.notices with edges := c.edges }
    log := { s.log.emptied with mode := c.mode, minuteOpen := true } }
  t.writeLogHeader.setRam (t.writeLogHeader.ram.writeLe (Config.logHeaderBase + 4) 1 c.mode.code)

/-- R164, step 1: the blocks take their configuration values. -/
def State.takeConfig (d : StartData) (s : State) : State :=
  let t := { s with
    poller := { s.poller with copy := some d.copy, timing := some d.config.timing }
    gain := { s.gain with cfg := some d.config.gain } }
  (t.startLinks d.config.link).startWriters d.config

/-- R22, R23: the stations that a start primes, and the prime-pending flag cleared. -/
def State.startPriming (s : State) : State :=
  let t := forStations
    (fun st t =>
      if t.enabledStation st && (s.acc.primePending || decide (t.acc.accts[st].n = 0)) then t.prime st else t) s
  { t with acc := { t.acc with primePending := false } }

/-- R60: each station UNKNOWN or DISABLED from the copy, as the start reaches RUNNING. -/
def State.startStations (s : State) : State :=
  { s with
    poller := { s.poller with
      states := Vector.ofFn fun st : Fin 16 => if s.enabledStation st then StationState.unknown else .disabled } }

/-- R128, R129: the watch index taken, and the start's first pass. -/
def State.startWalker (d : StartData) (s : State) : State :=
  let t := { s with walker := { s.walker with watch := d.config.watch } }
  t.endPass .start true .unstarted (t.passAtStart d.count d.head)

/-- R164: the successful start, one step. -/
def State.succeedStart (d : StartData) (s : State) : State :=
  let t := s.takeConfig d
  let t := { t with book := { t.book with working := some d.book, area := d.area } }
  let t := ((t.startGain.startWalker d).startPriming).startStations
  let t := { t with run := { t.run with state := .running, error := .none } }
  let t := t.postRunState s.run.state
  { t with scanner := t.scanner.leaveStarting }

/-- R163: a start that ends in a start error. -/
def State.failStart (e : StartError) (s : State) : State :=
  let t := { s with run := { s.run with state := .idle, error := e, runBit := false } }
  let t := t.postRunState s.run.state
  { t with scanner := t.scanner.leaveStarting }

/-- R161: a start begins. RUN_STATE is handed as the run state changes (R158; log entry 9). -/
def State.beginStart (s : State) : State :=
  State.postRunState s.run.state { s with run := { s.run with state := .starting, runBit := true } }

/-! ### The stop (R165, Table 7-4) -/

/-- R154: the stop aborts an ambient measurement in flight. -/
def State.stopAmbient (s : State) : State := if s.acc.ambient.inFlight then s.abortAmbient else s

/-- R186: the stop closes the open minute, and no minute is then open. -/
def State.stopMinute (s : State) : State :=
  let t := s.closeMinute (s.clock / 60 + 1) { clockSet := false, stopped := true }
  { t with log := { t.log with minuteOpen := false } }

/-- R165: the stop, one step. The order of the blocks, where no rule gives it, is log entry 21. -/
def State.stopShow (s : State) : State :=
  let t := { s with run := { s.run with state := .idle, runBit := false } }
  let t := t.stopAmbient.stopRound.stopTest.stopMinute.stopStations.stopGain.stopLinks
  State.postRunState s.run.state { t with walker := t.walker.stop }

/-! ### The software reset (R166) -/

/-- R26, R31, R38: one band of an account record at a software reset: N and S and P_amb are kept. -/
def BandAccount.softReset (b : BandAccount) : BandAccount :=
  { b with pLim := 0, allow := 0, q := Config.fullScale, overdrawn := false }

/-- R7, R13, R26: a station at a software reset: the rings and N are kept. -/
def Account.softReset (a : Account) : Account :=
  { a with a := a.a.softReset, c := a.c.softReset, qs := Config.fullScale, gs := Config.fullScale, missing := 0, unctl := false }

/-- R18, R22, R26, R29, R35, R155: the accumulator at a software reset. -/
def Accumulator.softReset (c : Accumulator) : Accumulator :=
  { c with
    ctrl := Vector.replicate 4 false
    advanced := Vector.replicate 16 false
    accts := Vector.ofFn fun st : Fin 16 => c.accts[st].softReset
    ambient := { c.ambient with phase := .none } }

/-- R183, R184: the Log Writer at a software reset; the mode is log entry 23. -/
def LogWriter.softReset (g : LogWriter) : LogWriter := { LogWriter.reset with writeIdx := g.writeIdx }

/-- R6: a software reset closes an open round: the stations that have not advanced in it advance with no outcome. -/
def State.resetRound (s : State) : State := if s.poller.roundOpen then s.advanceRest else s

/-- R166: the software reset, one step. -/
def State.softReset (s : State) : State :=
  let t := s.resetRound
  State.postRunState s.run.state
    { t with
      run := { t.run with state := .idle, error := .none, runBit := false, muteBit := false, intBit := false }
      ram := t.ram.refuseInFlight t.scanner.inFlight
      acc := t.acc.softReset
      gain := { stages := Vector.replicate 4 .reset, cfg := none }
      poller := t.poller.softReset
      links := { lines := Vector.ofFn fun k : Fin 4 => t.links.lines[k].softReset, cfg := none }
      walker := .reset
      book := { t.book with working := none, area := 0 }
      scanner := .reset
      notices := .reset
      log := t.log.softReset }

/-! ### The RESET input (R159) -/

/-- R159: the RESET input asserted: every block takes its hardware-reset values. The RAM keeps its content until the release
clears it; the data last on the host bus is no state of a block (log entry 28). -/
def State.assertReset (s : State) : State :=
  { State.reset with ram := s.ram, regs := { State.reset.regs with bus := s.regs.bus }, pending := s.pending }

/-- R159: the RESET input released: the RAM is cleared (log entry 7). -/
def State.releaseReset (s : State) : State :=
  if s.run.state = .resetBusy ∧ s.run.resetAsserted = true then
    { s with run := { s.run with resetAsserted := false }, ram := .cleared }
  else s

/-- R159: the clearing has ended, and the part enters IDLE. -/
def State.endClearing (s : State) : State :=
  if s.run.state = .resetBusy ∧ s.run.resetAsserted = false then
    State.postRunState .resetBusy { s with run := { s.run with state := .idle } }
  else s

/-- START_CHECKS_COMPLETE (R161 to R164): the start checks end. -/
def State.completeStart (s : State) : State :=
  if s.run.state = .starting then
    match startCheck s.ram with
    | .ok d => s.succeedStart d
    | .error e => s.failStart e
  else s

end Sys2Proof.Machine
end

