-- ==== Sys2Proof/Machine/Bus.lean ====
section
/-! DEFINITION. What reaches the part from the host bus and from the timebase: register reads and writes (R160, R191,
R192), accesses to shared RAM (R190), and the second event (R107, R108, Table 5-1). -/

namespace Sys2Proof.Machine

/-! ### Register writes -/

/-- R160: CONTROL.IMMEDIATE_MUTE written. -/
def State.writeMute (v : Bool) (s : State) : State :=
  if v = s.run.muteBit then s else State.setImmediateMute v { s with run := { s.run with muteBit := v } }

/-- R160, R179: CONTROL.INT_ENABLE written. -/
def State.writeIntEnable (v : Bool) (s : State) : State :=
  if v = s.run.intBit then s else State.driveIrq { s with run := { s.run with intBit := v } }

/-- R160: CONTROL.RUN written. -/
def State.writeRun (v : Bool) (s : State) : State :=
  if v = s.run.runBit then s
  else
    match v, s.run.state with
    | true, .idle => s.beginStart
    | false, .running => s.stopShow
    | false, .starting => s.failStart .stopped
    | _, _ => { s with run := { s.run with runBit := v } }

/-- R160: a write to CONTROL outside RESET_BUSY, of the 32-bit value `v`. -/
def State.writeControl (v : Nat) (s : State) : State :=
  if bit v 1 then s.softReset else ((s.writeMute (bit v 2)).writeIntEnable (bit v 3)).writeRun (bit v 0)

/-- R178, R192: a write to STATUS. -/
def State.writeStatus (v : Nat) (s : State) : State :=
  if bit v 16 then { s with notices := { s.notices with overrun := false } } else s

/-- R169, R192: a write to ATTENTION, whatever its value. In STARTING the scan is held (R161). -/
def State.writeAttention (s : State) : State :=
  match s.run.state with
  | .resetBusy => s
  | .idle => { s with scanner := s.scanner.beginScan }
  | .starting => { s with scanner := { s.scanner with again := true } }
  | .running => { s with scanner := s.scanner.beginScan }

/-- R179, R192: a write to NOTICE_TAIL. -/
def State.writeNoticeTail (v : Nat) (s : State) : State :=
  if v ≤ 255 then State.driveIrq { s with notices := { s.notices with tail := BitVec.ofNat 8 v } } else s

/-- R191, R192: the write of a high half takes the register write, with the half in the write latch as its low half. In
RESET_BUSY every register write is ignored. The half is written whole (log entry 45). -/
def State.writeRegister (reg : Reg) (high : Half) (s : State) : State :=
  let v := s.regs.writeLatch.toNat + 65536 * high.toNat
  if s.run.state = .resetBusy then s
  else
    match reg with
    | .control => s.writeControl v
    | .status => s.writeStatus v
    | .attention => s.writeAttention
    | .noticeTail => s.writeNoticeTail v
    | .ident => s
    | .noticeHead => s
    | .showClock => s
    | .reserved => s

/-- R191: the write of a low half places its value in the write latch. Offset 0x1C ignores writes (log entry 27). Halves of
registers are written and read whole, whatever the bus's byte enables (log entry 45). -/
def State.writeLowHalf (reg : Reg) (value : Half) (s : State) : State :=
  if s.run.state = .resetBusy ∨ reg = .reserved then s else { s with regs := { s.regs with writeLatch := value } }

/-! ### Register reads (Table 9-10) -/

/-- R167: the immediate-mute term or the ambient-mute term is present. -/
def State.muteActive (s : State) : Bool :=
  allStages.any fun k => s.gain.stages[k].immediate.isSome || s.gain.stages[k].ambient.isSome

/-- Table 9-10: CONTROL. -/
def State.controlValue (s : State) : Nat :=
  boolCode s.run.runBit + 4 * boolCode s.run.muteBit + 8 * boolCode s.run.intBit

/-- Table 9-10: STATUS. -/
def State.statusValue (s : State) : Nat :=
  s.run.state.code + 16 * s.walker.state.code + 256 * s.run.error.code + 65536 * boolCode s.notices.overrun
    + 131072 * boolCode s.log.full + 262144 * boolCode s.muteActive

/-- R192: the 32-bit value that a register reads. -/
def State.registerValue (s : State) (reg : Reg) : Nat :=
  if s.run.state = .resetBusy then 0
  else
    match reg with
    | .ident => 0x00014C43
    | .control => s.controlValue
    | .status => s.statusValue
    | .attention => 0
    | .noticeHead => s.notices.head.toNat
    | .noticeTail => s.notices.tail.toNat
    | .showClock => s.clock
    | .reserved => 0

/-- R191: the read of a low half puts it on the bus and the high half in the read latch. -/
def State.readLowHalf (reg : Reg) (s : State) : State :=
  let v := s.registerValue reg
  { s with regs := { s.regs with bus := BitVec.ofNat 16 v, readLatch := BitVec.ofNat 16 (v / 65536) } }

/-- R191: what the read of a high half returns: the read latch. The command table has no row for it, and it changes nothing
(log entry 37). The high half of offset 0x1C answers so as well, though the latch may hold another register's high half, where
section 9.2 has the offset read 0 (log entry 49). -/
def State.highHalfRead (s : State) : Half := s.regs.readLatch

/-! ### Shared RAM (R190) -/

/-- R190: the two bytes of a host write, each under its byte enable. -/
def Memory.hostWrite (m : Memory) (a : Nat) (data : Half) (low high : Bool) : Memory :=
  let m := if low then m.write a (data.setWidth 8) else m
  if high then m.write (a + 1) ((data >>> 8).setWidth 8) else m

/-- R159, R190: one host access to the word at byte offset 2 × `word`. A read gives both bytes of the word (log entry 44). -/
def State.hostAccess (word : BitVec 15) (access : RamAccess) (s : State) : State :=
  let a := 2 * word.toNat
  match access with
  | .read =>
    let v := if s.run.state = .resetBusy then 0 else s.ram.readLe a 2
    { s with regs := { s.regs with bus := BitVec.ofNat 16 v } }
  | .write data low high => if s.run.state = .resetBusy then s else s.setRam (s.ram.hostWrite a data low high)

/-! ### The second event -/

/-- R107, R108: the show clock after a second. -/
def clockAfter (clock : Nat) : Nat := if Config.clockMax ≤ clock then 0 else clock + 1

/-- R5: every station advances with ABSENT. -/
def State.advanceAll (s : State) : State := forStations State.advanceSilent s

/-- Table 5-1: one block's work of a second event whose value the clock now holds; `wrapped` says that the value followed the
largest (R108). -/
def State.secondWork (wrapped : Bool) (s : State) : SecondWork → State
  | .accumulator => if s.run.state = .idle ∨ s.run.state = .starting then s.advanceAll else s
  | .poller => if s.run.state = .running then s.pollerSecond else s
  | .linkSecond => s.clearCharged
  | .linkOffer => if s.run.state = .idle then s.offerStopCeiling else s
  | .scanner => if s.run.state = .idle ∨ s.run.state = .running then { s with scanner := s.scanner.beginScan } else s
  | .walker => if wrapped then s.walkerSecond.walkerMoved else s.walkerSecond
  | .minute =>
    if s.run.state = .running ∧ s.clock % 60 = 0 then s.closeMinute (s.clock / 60) { clockSet := false, stopped := false }
    else s
  | .occupancy => s.readOccupancy

/-- The order of Table 5-1 (log entry 3). -/
def secondOrder : List SecondWork :=
  [.accumulator, .poller, .linkSecond, .linkOffer, .scanner, .walker, .minute, .occupancy]

/-- The work of a second event in the order that the command gives; what it does not name follows, and what it names twice is
done once. -/
def fullOrder (order : List SecondWork) : List SecondWork :=
  secondOrder.foldl (fun done w => if done.contains w then done else done ++ [w])
    (order.foldl (fun done w => if done.contains w then done else done ++ [w]) [])

/-- R107: a second event: the clock first, then the blocks. In RESET_BUSY the clock is held at 0 (R106). -/
def State.secondEvent (order : List SecondWork) (s : State) : State :=
  if s.run.state = .resetBusy then s
  else
    (fullOrder order).foldl (State.secondWork (decide (Config.clockMax ≤ s.clock))) { s with clock := clockAfter s.clock }

/-! ### Timers of the Station Poller -/

/-- R70: the round deadline. -/
def State.roundDeadline (s : State) : State :=
  if s.run.state = .running ∧ s.poller.roundOpen = true then s.closeByDeadline else s

/-- R81: the TEST frame in flight times out. -/
def State.testExpiry (s : State) : State :=
  match s.poller.test with
  | some t => if t.inFlight then s.endTestFrame t false else s
  | none => s

/-- R58: the loop falls silent before the frame being collected is whole: the frame is incomplete. -/
def State.loopSilence (l : Loop) (s : State) : State := s.loopFrame l []

end Sys2Proof.Machine
end

