-- ==== Sys2Proof/Machine/Commands.lean ====
section
/-! DEFINITION. The meaning of each command, one definition per row of spec/opcode_table.json. A command whose event has no
occasion in the state it finds leaves the state as it was (log entry 2). No command faults or is refused. -/

namespace Sys2Proof.Machine

/-- A taking with nothing that the manual leaves open. -/
def Open.none : Open := { logFirst := false, unstated := 0 }

/-- A slot holds a request of the kind. -/
def SlotKind.is (k : RequestKind) (found : SlotKind) : Bool := found == .kind k

/-- A slot holds what REQUEST_BAD_KIND refuses (R170). -/
def SlotKind.isBad : SlotKind → Bool
  | .kind _ => false
  | .bad _ => true

/-- HARDWARE_RESET (R159): the RESET input is asserted. -/
def execHardwareReset (s : State) : Host.Outcome State Fault Refusal := .next (s.assertReset)

/-- RESET_RELEASE (R159): the RESET input is released and the RAM is cleared. -/
def execResetRelease (s : State) : Host.Outcome State Fault Refusal := .next (s.releaseReset)

/-- RAM_CLEAR_COMPLETE (R159): the clearing ends and the part enters IDLE, with RUN_STATE as its first notice. -/
def execRamClearComplete (s : State) : Host.Outcome State Fault Refusal := .next (s.endClearing)

/-- SECOND_EVENT (R107, R108): the show clock counts, and every block takes the second event (Table 5-1). -/
def execSecondEvent (order : List SecondWork) (s : State) : Host.Outcome State Fault Refusal :=
  .next (s.secondEvent order)

/-- START (R160, R161): a CONTROL write; RUN from 0 to 1 in IDLE begins a start. -/
def execStart (high : Half) (s : State) : Host.Outcome State Fault Refusal := .next (s.writeRegister .control high)

/-- START_CHECKS_COMPLETE (R162 to R164): the start checks end in a successful start or in a start error. -/
def execStartChecksComplete (s : State) : Host.Outcome State Fault Refusal := .next (s.completeStart)

/-- STOP (R160, R163, R165): a CONTROL write; RUN from 1 to 0 is a stop in RUNNING and ends the start in STARTING. -/
def execStop (high : Half) (s : State) : Host.Outcome State Fault Refusal := .next (s.writeRegister .control high)

/-- SOFT_RESET (R160, R166): a CONTROL write; SOFT_RESET written as 1 is a software reset. -/
def execSoftReset (high : Half) (s : State) : Host.Outcome State Fault Refusal :=
  .next (s.writeRegister .control high)

/-- IMMEDIATE_MUTE (R47, R160, R167): a CONTROL write; a change of IMMEDIATE_MUTE makes its term appear or disappear. -/
def execImmediateMute (high : Half) (s : State) : Host.Outcome State Fault Refusal :=
  .next (s.writeRegister .control high)

/-- INT_ENABLE (R160, R179): a CONTROL write; a change of INT_ENABLE re-evaluates the interrupt line. -/
def execIntEnable (high : Half) (s : State) : Host.Outcome State Fault Refusal :=
  .next (s.writeRegister .control high)

/-- NOTICE_OVERRUN_CLEAR (R178, R192): a STATUS write; a 1 in bit 16 clears the overrun flag. -/
def execNoticeOverrunClear (high : Half) (s : State) : Host.Outcome State Fault Refusal :=
  .next (s.writeRegister .status high)

/-- ATTENTION (R161, R169, R192): an ATTENTION write; a scan begins, is pending, or is held in STARTING. -/
def execAttention (high : Half) (s : State) : Host.Outcome State Fault Refusal :=
  .next (s.writeRegister .attention high)

/-- NOTICE_TAIL_WRITE (R179, R192): a NOTICE_TAIL write. -/
def execNoticeTailWrite (high : Half) (s : State) : Host.Outcome State Fault Refusal :=
  .next (s.writeRegister .noticeTail high)

/-- REGISTER_LOW_HALF_WRITE (R191): a low half is written into the write latch. -/
def execRegisterLowHalfWrite (reg : Reg) (value : Half) (s : State) : Host.Outcome State Fault Refusal :=
  .next (s.writeLowHalf reg value)

/-- REGISTER_WRITE_IGNORED (R192): a high half of a register is written; IDENT, NOTICE_HEAD and SHOW_CLOCK, offset 0x1C, and every register in
RESET_BUSY ignore it. -/
def execRegisterWriteIgnored (reg : Reg) (high : Half) (s : State) : Host.Outcome State Fault Refusal :=
  .next (s.writeRegister reg high)

/-- HOST_RAM_ACCESS (R159, R190): one host access to shared RAM. -/
def execHostRamAccess (word : BitVec 15) (access : RamAccess) (s : State) : Host.Outcome State Fault Refusal :=
  .next (s.hostAccess word access)

/-- REQUEST_SCAN (R169): the scan in progress runs to its end. -/
def execRequestScan (unstated : Half) (s : State) : Host.Outcome State Fault Refusal :=
  .next (s.scanToEnd { logFirst := false, unstated := unstated })

/-- SET_CLOCK (R109): the scan takes a SET_CLOCK. -/
def execSetClock (slot : Slot) (logFirst : Bool) (s : State) : Host.Outcome State Fault Refusal :=
  .next (s.takeKind { logFirst := logFirst, unstated := 0 } (SlotKind.is .setClock) slot)

/-- RESTART_SCHEDULE (R137): the scan takes a RESTART_SCHEDULE. -/
def execRestartSchedule (slot : Slot) (s : State) : Host.Outcome State Fault Refusal :=
  .next (s.takeKind Open.none (SlotKind.is .restartSchedule) slot)

/-- RESUME_SCHEDULE (R132): the scan takes a RESUME_SCHEDULE. -/
def execResumeSchedule (slot : Slot) (unstated : Half) (s : State) : Host.Outcome State Fault Refusal :=
  .next (s.takeKind { logFirst := false, unstated := unstated } (SlotKind.is .resumeSchedule) slot)

/-- SET_WATCH (R133): the scan takes a SET_WATCH. -/
def execSetWatch (slot : Slot) (s : State) : Host.Outcome State Fault Refusal :=
  .next (s.takeKind Open.none (SlotKind.is .setWatch) slot)

/-- SWAP_BOOK (R143, R144): the scan takes a SWAP_BOOK. -/
def execSwapBook (slot : Slot) (s : State) : Host.Outcome State Fault Refusal :=
  .next (s.takeKind Open.none (SlotKind.is .swapBook) slot)

/-- SET_FLAGS (R116): the scan takes a SET_FLAGS. -/
def execSetFlags (slot : Slot) (s : State) : Host.Outcome State Fault Refusal :=
  .next (s.takeKind Open.none (SlotKind.is .setFlags) slot)

/-- HOLD_STAGE (R172): the scan takes a HOLD_STAGE. -/
def execHoldStage (slot : Slot) (unstated : Half) (s : State) : Host.Outcome State Fault Refusal :=
  .next (s.takeKind { logFirst := false, unstated := unstated } (SlotKind.is .holdStage) slot)

/-- RELEASE_STAGE (R173): the scan takes a RELEASE_STAGE. -/
def execReleaseStage (slot : Slot) (unstated : Half) (s : State) : Host.Outcome State Fault Refusal :=
  .next (s.takeKind { logFirst := false, unstated := unstated } (SlotKind.is .releaseStage) slot)

/-- MEASURE_AMBIENT (R149): the scan takes a MEASURE_AMBIENT. -/
def execMeasureAmbient (slot : Slot) (s : State) : Host.Outcome State Fault Refusal :=
  .next (s.takeKind Open.none (SlotKind.is .measureAmbient) slot)

/-- ABORT_AMBIENT (R153): the scan takes an ABORT_AMBIENT. -/
def execAbortAmbient (slot : Slot) (s : State) : Host.Outcome State Fault Refusal :=
  .next (s.takeKind Open.none (SlotKind.is .abortAmbient) slot)

/-- SET_AMBIENT (R147): the scan takes a SET_AMBIENT. -/
def execSetAmbient (slot : Slot) (s : State) : Host.Outcome State Fault Refusal :=
  .next (s.takeKind Open.none (SlotKind.is .setAmbient) slot)

/-- LOOP_TEST (R80): the scan takes a LOOP_TEST. -/
def execLoopTest (slot : Slot) (s : State) : Host.Outcome State Fault Refusal :=
  .next (s.takeKind Open.none (SlotKind.is .loopTest) slot)

/-- SET_STATION (R61, R174): the scan takes a SET_STATION. -/
def execSetStation (slot : Slot) (s : State) : Host.Outcome State Fault Refusal :=
  .next (s.takeKind Open.none (SlotKind.is .setStation) slot)

/-- READ_WINDOW (R27, R175): the scan takes a READ_WINDOW. -/
def execReadWindow (slot : Slot) (s : State) : Host.Outcome State Fault Refusal :=
  .next (s.takeKind Open.none (SlotKind.is .readWindow) slot)

/-- REQUEST_BAD_KIND (R170, checks 1 and 2): the scan takes a slot that it refuses with PARITY or BAD_KIND. -/
def execRequestBadKind (slot : Slot) (s : State) : Host.Outcome State Fault Refusal :=
  .next (s.takeKind Open.none SlotKind.isBad slot)

/-- POLL_SENT (R65): the last byte of the frame on the loop has been sent. -/
def execPollSent (loop : Loop) (s : State) : Host.Outcome State Fault Refusal := .next (s.pollSent loop)

/-- REPLY_TIMEOUT (R65, R66, R78): the reply timer on the loop expires. -/
def execReplyTimeout (loop : Loop) (receiving : Bool) (s : State) : Host.Outcome State Fault Refusal :=
  .next (s.replyExpiry loop receiving)

/-- LOOP_FRAME_RECEIVED (R58, R59, R67, R81): a frame completes on the loop. -/
def execLoopFrameReceived (loop : Loop) (bytes : List Byte) (s : State) : Host.Outcome State Fault Refusal :=
  .next (s.loopFrame loop bytes)

/-- LOOP_FRAME_SILENCE (R58): silence on the loop ends the frame being collected as incomplete. -/
def execLoopFrameSilence (loop : Loop) (s : State) : Host.Outcome State Fault Refusal := .next (s.loopSilence loop)

/-- ROUND_DEADLINE (R70): the round deadline expires. -/
def execRoundDeadline (s : State) : Host.Outcome State Fault Refusal := .next (s.roundDeadline)

/-- CEILING_SENT (R85, R89): the last byte of the frame on the link has been sent. -/
def execCeilingSent (stage : Stage) (s : State) : Host.Outcome State Fault Refusal :=
  .next (s.modLink stage (Link.sent stage))

/-- ACK_TIMEOUT (R89): the timer of an attempt on the link expires. -/
def execAckTimeout (stage : Stage) (receiving : Bool) (s : State) : Host.Outcome State Fault Refusal :=
  .next (s.ackExpiry stage receiving)

/-- LINK_FRAME_RECEIVED (R87): a frame completes on the link. -/
def execLinkFrameReceived (stage : Stage) (bytes : List Byte) (s : State) : Host.Outcome State Fault Refusal :=
  .next (s.judgeAck stage (parseAck stage bytes))

/-- LINK_FRAME_SILENCE (R87): silence on the link ends the frame being collected as incomplete. -/
def execLinkFrameSilence (stage : Stage) (s : State) : Host.Outcome State Fault Refusal :=
  .next (s.judgeAck stage none)

/-- TEST_FRAME_TIMEOUT (R81, R82): the TEST frame in flight times out. -/
def execTestFrameTimeout (s : State) : Host.Outcome State Fault Refusal := .next (s.testExpiry)

/-- REGISTER_LOW_HALF_READ (R191, R192): a low half is read, and the high half goes into the read latch. -/
def execRegisterLowHalfRead (reg : Reg) (s : State) : Host.Outcome State Fault Refusal := .next (s.readLowHalf reg)

/-- RAM_CONTENT_DISTURBED (R190): a byte's content is disturbed; it holds bad parity. -/
def execRamContentDisturbed (addr : Half) (content : Byte) (s : State) : Host.Outcome State Fault Refusal :=
  .next (s.setRam (s.ram.disturb addr.toNat content))

end Sys2Proof.Machine
end

