-- ==== Sys2Proof/Machine/Dispatch.lean ====
section
/-! DEFINITION. The meaning of a command: one arm per constructor of Instr, each a direct call of its meaning. -/

namespace Sys2Proof.Machine

/-- The effect of a command on everything but the queue. -/
def exec (i : Instr) (s : State) : Host.Outcome State Fault Refusal :=
  match i with
  | .hardwareReset => Sys2Proof.Machine.execHardwareReset s
  | .resetRelease => Sys2Proof.Machine.execResetRelease s
  | .ramClearComplete => Sys2Proof.Machine.execRamClearComplete s
  | .secondEvent order => Sys2Proof.Machine.execSecondEvent order s
  | .start high => Sys2Proof.Machine.execStart high s
  | .startChecksComplete => Sys2Proof.Machine.execStartChecksComplete s
  | .stop high => Sys2Proof.Machine.execStop high s
  | .softReset high => Sys2Proof.Machine.execSoftReset high s
  | .immediateMute high => Sys2Proof.Machine.execImmediateMute high s
  | .intEnable high => Sys2Proof.Machine.execIntEnable high s
  | .noticeOverrunClear high => Sys2Proof.Machine.execNoticeOverrunClear high s
  | .attention high => Sys2Proof.Machine.execAttention high s
  | .noticeTailWrite high => Sys2Proof.Machine.execNoticeTailWrite high s
  | .registerLowHalfWrite reg value => Sys2Proof.Machine.execRegisterLowHalfWrite reg value s
  | .registerWriteIgnored reg high => Sys2Proof.Machine.execRegisterWriteIgnored reg high s
  | .hostRamAccess word access => Sys2Proof.Machine.execHostRamAccess word access s
  | .requestScan unstated => Sys2Proof.Machine.execRequestScan unstated s
  | .setClock slot logFirst => Sys2Proof.Machine.execSetClock slot logFirst s
  | .restartSchedule slot => Sys2Proof.Machine.execRestartSchedule slot s
  | .resumeSchedule slot unstated => Sys2Proof.Machine.execResumeSchedule slot unstated s
  | .setWatch slot => Sys2Proof.Machine.execSetWatch slot s
  | .swapBook slot => Sys2Proof.Machine.execSwapBook slot s
  | .setFlags slot => Sys2Proof.Machine.execSetFlags slot s
  | .holdStage slot unstated => Sys2Proof.Machine.execHoldStage slot unstated s
  | .releaseStage slot unstated => Sys2Proof.Machine.execReleaseStage slot unstated s
  | .measureAmbient slot => Sys2Proof.Machine.execMeasureAmbient slot s
  | .abortAmbient slot => Sys2Proof.Machine.execAbortAmbient slot s
  | .setAmbient slot => Sys2Proof.Machine.execSetAmbient slot s
  | .loopTest slot => Sys2Proof.Machine.execLoopTest slot s
  | .setStation slot => Sys2Proof.Machine.execSetStation slot s
  | .readWindow slot => Sys2Proof.Machine.execReadWindow slot s
  | .requestBadKind slot => Sys2Proof.Machine.execRequestBadKind slot s
  | .pollSent loop => Sys2Proof.Machine.execPollSent loop s
  | .replyTimeout loop receiving => Sys2Proof.Machine.execReplyTimeout loop receiving s
  | .loopFrameReceived loop bytes => Sys2Proof.Machine.execLoopFrameReceived loop bytes s
  | .loopFrameSilence loop => Sys2Proof.Machine.execLoopFrameSilence loop s
  | .roundDeadline => Sys2Proof.Machine.execRoundDeadline s
  | .ceilingSent stage => Sys2Proof.Machine.execCeilingSent stage s
  | .ackTimeout stage receiving => Sys2Proof.Machine.execAckTimeout stage receiving s
  | .linkFrameReceived stage bytes => Sys2Proof.Machine.execLinkFrameReceived stage bytes s
  | .linkFrameSilence stage => Sys2Proof.Machine.execLinkFrameSilence stage s
  | .testFrameTimeout => Sys2Proof.Machine.execTestFrameTimeout s
  | .registerLowHalfRead reg => Sys2Proof.Machine.execRegisterLowHalfRead reg s
  | .ramContentDisturbed addr content => Sys2Proof.Machine.execRamContentDisturbed addr content s

end Sys2Proof.Machine
end

