-- ==== Sys2Proof/Safety.lean ====
section
/-! DEFINITION. What a sound state of the part is: the properties that the manual states of the machine as a whole, each as
a predicate that a step keeps. -/

namespace Sys2Proof.Machine

/-- R179: the interrupt line is asserted exactly while the head differs from the tail and INT_ENABLE is 1. -/
def lineTrue (n : NoticeWriter) (intEnable : Bool) : Prop := n.irq = irqLevel n.head n.tail intEnable

/-- The RAM is in its canonical form, and the interrupt line is as R179 gives it. -/
def State.Quiet (s : State) : Prop := s.ram.wf = true ∧ lineTrue s.notices s.run.intBit

/-- R41, R48: every stage's applied ceiling lies at or below its hard bound. -/
def ceilingsBounded (stages : Vector GainStage 4) : Prop := ∀ k : Stage, stages[k].applied ≤ stages[k].bound

/-- R1, R2: a sample's energies are counts. -/
def Sample.inRange (x : Sample) : Prop := x.eA ≤ Config.energyMax ∧ x.eC ≤ Config.energyMax

/-- R2, R16: a station's rings hold 900 samples, and N and S of each band are the count and the sums of the counted samples
at ages 0 to `w` − 1. -/
def Account.exact (w : Nat) (a : Account) : Prop :=
  a.ring.length = Config.ringLength ∧ (∀ x ∈ a.ring, x.inRange) ∧ a.n = countedIn (ages a.ring 0 w) ∧
    a.a.s = sumAIn (ages a.ring 0 w) ∧ a.c.s = sumCIn (ages a.ring 0 w)

/-- R16, R18: the window length in force is 60 to 900, and every account is exact over it. -/
def Accumulator.exact (c : Accumulator) : Prop := (60 ≤ c.w ∧ c.w ≤ 900) ∧ ∀ st : Station, c.accts[st].exact c.w

/-- R139, R140: a book of 8 sets of 16 records whose shares sum to at most 256 each. -/
def bookValid (b : List BookRecord) : Prop := b.length = 128 ∧ ∀ r ∈ b, r.shareSum ≤ 256

/-- R140: the working book, when it is present, is valid. -/
def BookStore.Valid (b : BookStore) : Prop := ∀ w, b.working = some w → bookValid w

/-- R52, R60, R71, R96, R142: in RUNNING the blocks hold their configuration values and the working book is present. -/
def State.Loaded (s : State) : Prop :=
  s.run.state = .running →
    s.book.working.isSome = true ∧ s.gain.cfg.isSome = true ∧ s.links.cfg.isSome = true ∧ s.poller.copy.isSome = true ∧
      s.poller.timing.isSome = true

/-- R63, R75, R84: outside RUNNING no round is open, no exchange is in progress and no station is LOST. -/
def State.ShowOver (s : State) : Prop :=
  s.run.state ≠ .running →
    s.poller.roundOpen = false ∧ s.poller.exch = none ∧ ∀ st : Station, s.poller.states[st] ≠ StationState.lost

/-- R118: the walker has left UNSTARTED exactly in RUNNING; exactly one LIMIT entry is active from then on; and the pause
index is present in PAUSED and only there. -/
def State.WalkerSound (s : State) : Prop :=
  (s.run.state = .running ↔ s.walker.state ≠ .unstarted) ∧ (s.walker.active = none ↔ s.walker.state = .unstarted) ∧
    (s.walker.pause.isSome = true ↔ s.walker.state = .paused)

/-- R45: some enabled station in LOST hears the stage. -/
def State.lostHeard (s : State) (k : Stage) : Bool :=
  allStations.any fun st => s.enabledStation st && decide (s.poller.states[st] = StationState.lost) && s.hears st k

/-- Table 2-3 (R42, R44 to R47): of the terms of a stage's hard bound, the schedule ceiling is the active entry's, the fault
ceiling is the configuration's while the walker is FAULTED, the lost-station ceiling is the configuration's while an enabled
station in LOST hears the stage, the ambient mute is present while a measurement is in flight, and the immediate mute while
CONTROL.IMMEDIATE_MUTE is 1. -/
def State.TermsSound (s : State) : Prop :=
  ∀ k : Stage,
    s.gain.stages[k].sched = s.walker.active.map (fun e => e.ceil[k]) ∧
    s.gain.stages[k].fault = (if s.walker.state = .faulted then s.gain.cfg.map GainConfig.fault else none) ∧
    s.gain.stages[k].lost = (if s.lostHeard k then s.gain.cfg.map (fun c => c.lost[k]) else none) ∧
    s.gain.stages[k].ambient = (if s.acc.ambient.phase = .none then none else some 0) ∧
    s.gain.stages[k].immediate = (if s.run.muteBit then some 0 else none)

/-- R86, R91: no ceiling that a link carries or will carry lies above 4096. -/
def Link.ceilingsInRange (l : Link) : Prop :=
  (∀ c, l.out = some c → c.ceiling ≤ Config.fullScale) ∧ (∀ v, l.pend = some v → v ≤ Config.fullScale)

/-- R86, R96: so for every link, and the stop ceiling held is none above 4096 either. -/
def LinkController.ceilingsInRange (c : LinkController) : Prop :=
  (∀ k : Stage, c.lines[k].ceilingsInRange) ∧ ∀ g, c.cfg = some g → g.stopCeiling ≤ Config.fullScale

/-- The ranges that the manual gives the counters: consecutive-failure counts (R76), probe interval counts (R78),
failed-second counts (R95), consecutive-missing counts (R13), the link count of a pass (R118) and the watch index (R118). -/
def State.CountersInRange (s : State) : Prop :=
  (∀ i : Fin 2, s.poller.loops[i].fails ≤ 255 ∧ s.poller.loops[i].probe ≤ 10) ∧ (∀ k : Stage, s.links.lines[k].failed ≤ 3) ∧
    (∀ st : Station, s.acc.accts[st].missing ≤ Config.missingMax) ∧ s.walker.links ≤ Config.linkMax ∧ s.walker.watch ≤ 255

/-- R33, R34, R36: the demands of a station are scales in Q12, 0 to 4096. -/
def Account.demandsInRange (a : Account) : Prop :=
  a.a.q ≤ Config.fullScale ∧ a.c.q ≤ Config.fullScale ∧ a.qs ≤ Config.fullScale ∧ a.gs ≤ Config.fullScale

/-- The counters, the demands and the show clock (R106) are in their ranges. -/
def State.NumbersInRange (s : State) : Prop :=
  s.CountersInRange ∧ (∀ st : Station, s.acc.accts[st].demandsInRange) ∧ s.clock ≤ Config.clockMax

/-! ### Vocabulary of statements about commands -/

/-- The 32-bit value of a register write whose high half is `high` (R191). -/
def State.written (s : State) (high : Half) : Nat := s.regs.writeLatch.toNat + 65536 * high.toNat

/-- A CONTROL write of these bits: SOFT_RESET 0, RUN, IMMEDIATE_MUTE and INT_ENABLE as given (Table 9-10). -/
def State.WritesControl (s : State) (high : Half) (run mute int : Bool) : Prop :=
  bit (s.written high) 1 = false ∧ bit (s.written high) 0 = run ∧ bit (s.written high) 2 = mute ∧ bit (s.written high) 3 = int

/-- From `l` to `m` a link carries a new command of the value `v`, with the next sequence number and no value waiting (R88,
R93). -/
def Link.Carries (l m : Link) (v : Nat) : Prop :=
  (∃ c, m.out = some c ∧ c.seq = l.seq ∧ c.ceiling = v ∧ c.attempt = 1) ∧ m.pend = none ∧ m.seq = l.seq + 1

/-- R72: the state of a station after a missing outcome that makes its consecutive-missing count `missing`. -/
def stateMissed (missing : Nat) (old : StationState) : StationState :=
  if missing = 4 ∧ (old = .live ∨ old = .unknown) then .stale
  else if missing = 30 ∧ old = .stale then .lost
  else old

/-- R45, R74: from `s` to `t` the state of station `st` has become `v`, with its two conditions, and the lost-station terms have
been evaluated afresh, with a clip of what falls, when LOST was entered or left. -/
def State.BecomesState (s t : State) (st : Station) (v : StationState) : Prop :=
  t.poller.states[st] = v ∧ t.notices.conds[CondClass.ix .stationStale][st] = decide (v = .stale) ∧
    t.notices.conds[CondClass.ix .stationLost][st] = decide (v = .lost) ∧
    if decide (s.poller.states[st] = .lost) = decide (v = .lost) then t.gain = s.gain
    else
      ∀ k : Stage,
        let g : GainStage :=
          { s.gain.stages[k] with lost := if t.lostHeard k then t.gain.cfg.map (fun c => c.lost[k]) else none }
        t.gain.stages[k] = { g with applied := min g.applied g.bound }

/-- R69, R70: `t` is `s` after a closure with nothing left to resolve: the closure by last outcome, or the round deadline in
RUNNING with no exchange in progress and no station listed. -/
def State.Closes (s t : State) : Prop :=
  t = s.closeByLastOutcome ∨
    (s.run.state = .running ∧ s.poller.roundOpen = true ∧ s.poller.exch = none ∧ s.poller.todo = [] ∧
      exec .roundDeadline s = .next t)

/-- R59: the bytes are a stray reply to a wait for the station at `addr`: a SECOND frame that passes its check, with the echo of
the round, from another address at which an exchange of the round has ended (log entry 13). -/
def Poller.strayFor (p : Poller) (addr : Nat) (bytes : List Byte) : Prop :=
  ∃ f, parseSecond bytes = some f ∧ f.echo = p.roundNo % 256 ∧ f.addr ≠ addr ∧ ∃ d ∈ p.settled, d.2 = f.addr

/-- R58, R59: the bytes are an invalid reply to a wait for the station at `addr`: an incomplete or corrupt frame, or a
mismatched reply. -/
def Poller.invalidFor (p : Poller) (addr : Nat) (bytes : List Byte) : Prop :=
  parseSecond bytes = none ∨
    ∃ f, parseSecond bytes = some f ∧
      (f.echo ≠ p.roundNo % 256 ∨ (f.addr ≠ addr ∧ ∀ d ∈ p.settled, d.2 ≠ f.addr))

/-- R65: the command fails an attempt or a probe in the phase `phase` that waits on loop `l` for the station at `addr`: the timer's
expiry with no frame being received, the end of an incomplete frame, an invalid reply, and, once the timer has expired, a stray
reply. -/
def Poller.failsWait (p : Poller) (l : Loop) (addr : Nat) (phase : AttemptPhase) (cmd : Instr) : Prop :=
  (phase = .waiting ∧ cmd = .replyTimeout l false) ∨ cmd = .loopFrameSilence l ∨
    ∃ bytes, cmd = .loopFrameReceived l bytes ∧
      (p.invalidFor addr bytes ∨ (phase = .expired ∧ p.strayFor addr bytes))

/-- R57, Table 3-1: the SECOND frame of a station with these flags and energies, in the round `roundNo`. -/
def secondFrame (addr roundNo flags eA eC : Nat) : List Byte :=
  sealFrame [0xA53C, addr + 256 * (roundNo % 256), flags, eA % 65536, eA / 65536, eC % 65536, eC / 65536]

/-- R63, R64: in `t` the exchange of the listed station `st` has begun, with `rest` still listed: at its address in the copy, on the
loop that the choice of a first attempt gives. -/
def State.BeginsExchange (t : State) (copy : Vector StationEntry 16) (st : Station) (rest : List Station) : Prop :=
  t.poller.todo = rest ∧
    ∃ e, t.poller.exch = some e ∧ e.station = st ∧ e.addr = copy[st].addr ∧ e.pref = copy[st].loop ∧ e.made = 1 ∧
      e.earlier = [] ∧ e.loop = t.firstLoop e.pref

/-- R78: from `s` to `t` the probe in progress has ended, and that of the loop due next, if any, has begun. -/
def State.ProbeGoesOn (s t : State) : Prop :=
  (s.poller.probeDue = [] → t.poller.probe = none) ∧
    ∀ (m : Loop) (copy : Vector StationEntry 16) (st : Station), s.poller.probeDue = [m] → (t.loopLine m).state = .down →
      s.poller.copy = some copy → copy[st].enabled = true → (∀ o : Station, o < st → copy[o].enabled = false) →
      ∃ b, t.poller.probe = some b ∧ b.station = st ∧ b.addr = copy[st].addr ∧ b.loop = m ∧ t.poller.probeDue = []

/-- R49: one closure's move of an applied ceiling `c` towards the target `target`, before the hard bound. -/
def rampStep (target c dn up : Nat) : Nat := if target < c then max target (c - dn) else min target (c + up)

/-- A byte of the notice queue (Table 9-1). -/
def inNoticeQueue (a : Nat) : Prop := 0x2400 ≤ a ∧ a < 0x3400

/-- A byte of the compliance log or of its header (Table 9-1). -/
def inLog (a : Nat) : Prop := (0x0240 ≤ a ∧ a < 0x0280) ∨ (0x5400 ≤ a ∧ a < 0xD400)

/-- A byte of the fault record (Table 9-1). -/
def inFaultRecord (a : Nat) : Prop := 0x0200 ≤ a ∧ a < 0x0240

/-- A byte of a region that Table 9-1 names the part as a writer of. -/
def partWrites (a : Nat) : Prop :=
  (0x0100 ≤ a ∧ a < 0x0200) ∨ inFaultRecord a ∨ (0x1C00 ≤ a ∧ a < 0x2400) ∨ inNoticeQueue a ∨ inLog a

/-- The byte of the notice entry at the head, where the next notice is written. -/
def inNextNotice (n : NoticeWriter) (a : Nat) : Prop := 0x2400 + 16 * n.head.toNat ≤ a ∧ a < 0x2400 + 16 * n.head.toNat + 16

/-- Every byte for which `p` does not hold is as it was, with its parity. -/
def keepsOutside (p : Nat → Prop) (m k : Memory) : Prop := ∀ a, ¬ p a → k.byte a = m.byte a ∧ k.badAt a = m.badAt a

/-- The scan takes slot `i` next, its progress then `p`, and finds a request of kind `k` there (R169, R170). -/
def State.TakesNext (s : State) (i : Slot) (p : Scan) (k : RequestKind) : Prop :=
  s.nextTaken = some (i, p) ∧ s.ram.slotKind i = .kind k

/-- A parameter of the request in slot `i`: `n` bytes at offset `off` of the slot (Table 9-8). -/
def State.param (s : State) (i : Slot) (off n : Nat) : Nat := s.ram.readLe (slotAddr i + off) n

/-- The notify flag of the request in slot `i` (Table 9-7). -/
def State.notifies (s : State) (i : Slot) : Bool := bit (s.param i 0x02 1) 0

/-- Slot `i` holds a final state, a result code and results, each as wide as Table 9-8 gives it (Tables 9-7 and 9-8). -/
def slotHolds (m : Memory) (i : Slot) (state code : Nat) (results : List Result) : Prop :=
  m.readLe (slotAddr i) 1 = state ∧ m.readLe (slotAddr i + 3) 1 = code ∧
    ∀ r ∈ results, m.readLe (slotAddr i + r.off) r.size = r.value % 256 ^ r.size

/-- The bytes of slot `i` that a final state, a result code and results are written to. -/
def inResults (i : Slot) (results : List Result) (a : Nat) : Prop :=
  a = slotAddr i ∨ a = slotAddr i + 3 ∨ ∃ r ∈ results, slotAddr i + r.off ≤ a ∧ a < slotAddr i + r.off + r.size

/-- R170, R171: from `s` to `t` the request in slot `i` gets its final state, and nothing else is written but, with its
notify flag set, one REQUEST_DONE notice (kind 16) at the head. -/
def State.Answered (s t : State) (i : Slot) (state code : Nat) (results : List Result) : Prop :=
  slotHolds t.ram i state code results ∧
    keepsOutside (fun a => inResults i results a ∨ (s.notifies i = true ∧ inNextNotice s.notices a)) s.ram t.ram ∧
    t.notices =
      if s.notifies i then (s.post 16 i.val (s.param i 0x01 1 + 256 * code)).notices else s.notices

/-- The state after a request that changes nothing but its slot, the notices and the scan's progress. -/
def State.afterScanOnly (s t : State) (p : Scan) : State :=
  { s with ram := t.ram, notices := t.notices, scanner := { s.scanner with scan := some p } }

/-- From `s` to `t`, apart from the slot, the notices and the scan's progress, the blocks named here hold what they held. -/
def State.restKept (s t : State) (p : Scan) : Prop :=
  t.run = s.run ∧ t.clock = s.clock ∧ t.regs = s.regs ∧ t.scanner = { s.scanner with scan := some p } ∧
    t.log.writeIdx = s.log.writeIdx ∧ t.pending = s.pending

/-! ### The schedule in RAM (Table 9-5) -/

/-- The byte offset of entry `n`; 0 is the header's. -/
def entryAddr (n : Nat) : Nat := 0x3400 + 32 * n

/-- R111: a byte of the header's fields holds bad parity. -/
def headerParity (m : Memory) : Prop := ∃ a, 0x3404 ≤ a ∧ a < 0x3408 ∧ m.badAt a = true

/-- R120: a byte of entry `n`'s fields holds bad parity (log entry 17). -/
def entryParity (m : Memory) (n : Nat) : Prop := ∃ a, entryAddr n ≤ a ∧ a < entryAddr n + 22 ∧ m.badAt a = true

/-- Table 9-5: entry `n` as a LIMIT entry. -/
def limitAt (m : Memory) (n : Nat) : LimitEntry :=
  let a := entryAddr n
  { index := n, start := m.readLe (a + 4) 4, next := m.readLe (a + 1) 1, final := decide (m.readLe (a + 2) 1 = 1)
    set := Fin.ofNat 8 (m.readLe (a + 3) 1), w := m.readLe (a + 8) 2, h := m.readLe (a + 10) 2, k := m.readLe (a + 12) 2
    ceil := Vector.ofFn fun k : Fin 4 => m.readLe (a + 14 + 2 * k.val) 2 }

/-- R121: the fields of entry `n`, as a LIMIT entry, are in range. -/
def limitValid (m : Memory) (n : Nat) : Prop :=
  let a := entryAddr n
  let e := limitAt m n
  m.readLe (a + 2) 1 ≤ 1 ∧ m.readLe (a + 3) 1 ≤ 7 ∧ 60 ≤ e.w ∧ e.w ≤ 900 ∧ 10 ≤ e.h ∧ e.h ≤ 600 ∧ 1 ≤ e.k ∧ e.k ≤ 4 ∧
    ∀ k : Stage, e.ceil[k] ≤ 4096

/-- Table 5-3, R117, R121: the condition and operand of a TEST are in range. -/
def testValid (cond operand : Nat) : Prop :=
  1 ≤ cond ∧ cond ≤ 8 ∧ (cond ≤ 2 → operand ≤ 7) ∧ (cond = 5 ∨ cond = 6 → operand ≤ 3) ∧ (7 ≤ cond → operand ≤ 15)

/-- Table 5-3: what each condition in range reads. -/
def State.conditionsHold (s : State) : Prop :=
  let exceed := ∃ st : Station, s.enabledStation st = true ∧
    (s.acc.accts[st].a.overdrawn = true ∨ s.acc.accts[st].c.overdrawn = true)
  (∀ n : Fin 8, (s.holds 1 n.val = true ↔ s.scanner.flags.getLsbD n.val = true) ∧
    (s.holds 2 n.val = true ↔ s.scanner.flags.getLsbD n.val = false)) ∧
    (∀ n, (s.holds 3 n = true ↔ exceed) ∧ (s.holds 4 n = true ↔ ¬ exceed)) ∧
    (∀ k : Stage, (s.holds 5 k.val = true ↔ s.gain.stages[k].hold.isSome = true) ∧
      (s.holds 6 k.val = true ↔ s.gain.stages[k].hold = none)) ∧
    ∀ st : Station, (s.holds 7 st.val = true ↔ s.poller.states[st] = .live) ∧
      (s.holds 8 st.val = true ↔ s.poller.states[st] ≠ .live)

/-- R120, R121: what the processing of entry `n` makes of a pass, `left` links being still allowed and `last` the last LIMIT
reached: a fault of Table 5-7, the end at a final entry, or the following of the link that the entry chooses. -/
def State.processesTo (s : State) (count left : Nat) (last : Option LimitEntry) (n : Nat) (atHead : Bool) (p : Pass) : Prop :=
  let a := entryAddr n
  let kind := s.ram.readLe a 1
  let next := s.ram.readLe (a + 1) 1
  let taken := s.ram.readLe (a + 3) 1
  let start := s.ram.readLe (a + 4) 4
  let cond := s.ram.readLe (a + 2) 1
  let operand := s.ram.readLe (a + 8) 2
  let fault := fun (r : FaultReason) => p = { last := last, links := 64 - left, ending := .fault r n n }
  (kind ≠ 1 → kind ≠ 2 → fault .kind) ∧
    (kind = 1 → ¬ limitValid s.ram n → fault .field) ∧
    (kind = 1 → limitValid s.ram n → cond = 1 →
      p = { last := some (limitAt s.ram n), links := 64 - left, ending := .final }) ∧
    (kind = 1 → limitValid s.ram n → cond = 0 → p = s.follow count left (some (limitAt s.ram n)) n start next) ∧
    (kind = 2 → atHead = true → fault .kind) ∧
    (kind = 2 → atHead = false → ¬ testValid cond operand → fault .field) ∧
    (kind = 2 → atHead = false → testValid cond operand →
      p = s.follow count left last n start (if s.holds cond operand then taken else next))

/-- R120: what the following of one link gives, step by step: the fault, the end of the pass, or the processing of the entry that
it names. -/
def State.followsTo (s : State) (count left : Nat) (last : Option LimitEntry) (linker linkerStart link : Nat) (p : Pass) :
    Prop :=
  let start := s.ram.readLe (entryAddr link + 4) 4
  let ends := fun (left : Nat) (e : PassEnd) => p = { last := last, links := 64 - left, ending := e }
  (link = 0 → ends left (.fault .linkHeader linker 0)) ∧
    (link ≠ 0 → count < link → ends left (.fault .linkRange linker link)) ∧
    (link ≠ 0 → link ≤ count → entryParity s.ram link → ends left (.fault .parity link link)) ∧
    (link ≠ 0 → link ≤ count → ¬ entryParity s.ram link →
      (s.clock < start → ends left .notDue) ∧
      (start ≤ s.clock → start < linkerStart → ends left (.fault .order link link)) ∧
      (start ≤ s.clock → linkerStart ≤ start →
        (left = 0 → ends 0 (.fault .chain linker link)) ∧
        ∀ n, left = n + 1 →
          (link = s.walker.watch → ends n (.watch { index := link, linkerStart := linkerStart })) ∧
          (link ≠ s.walker.watch → s.processesTo count n last link false p)))

/-- R111: the header, of entry count `count` and head index `head`, is read without a fault. -/
def headerGood (m : Memory) (count head : Nat) : Prop :=
  ¬ headerParity m ∧ m.readLe 0x3404 2 = count ∧ m.readLe 0x3406 2 = head ∧ 1 ≤ count ∧ count ≤ 255

/-- The LIMIT entry that the end of a pass after the start's activates: the last one reached, unless a fault ended it (R122,
R123, R130, R134). -/
def Pass.activates (p : Pass) : Option LimitEntry :=
  match p.ending with
  | .fault _ _ _ => none
  | .notDue => p.last
  | .final => p.last
  | .watch _ => p.last

/-- From `s` to `t` the walker has taken a pass that began no show: its state and pause index (R122, R123, R130, R134), the
link count (R124), and what an activated entry puts in force (R125) or a fault leaves in force. -/
def State.PassTaken (s t : State) (p : Pass) : Prop :=
  t.walker.links = p.links ∧ t.walker.watch = s.walker.watch ∧
    (match p.ending with
      | .notDue => t.walker.state = .waiting ∧ t.walker.pause = none
      | .final => t.walker.state = .final ∧ t.walker.pause = none
      | .watch q => t.walker.state = .paused ∧ t.walker.pause = some q
      | .fault _ _ _ =>
        t.walker.state = .faulted ∧ t.walker.pause = none ∧
          ∀ k : Stage, t.gain.stages[k].fault = s.gain.cfg.map GainConfig.fault) ∧
    match p.activates with
    | some e =>
      t.walker.active = some e ∧ t.acc.w = e.w ∧ t.acc.set = e.set ∧ t.acc.h = e.h ∧ t.acc.k = e.k ∧
        ∀ k : Stage, t.gain.stages[k].sched = some e.ceil[k]
    | none =>
      t.walker.active = s.walker.active ∧ t.acc.w = s.acc.w ∧ t.acc.set = s.acc.set ∧ t.acc.h = s.acc.h ∧
        t.acc.k = s.acc.k ∧ ∀ k : Stage, t.gain.stages[k].sched = s.gain.stages[k].sched

end Sys2Proof.Machine
end

