-- ==== Sys2Proof/Certificates/Slice0/Obligations.lean ====
section
/-! DEFINITION. The statements for the provers. Each docstring names the rules of spec/ that the statement rests on; a
statement that rests on a choice of the model says so and names the log entry. -/

section

open Sys2Proof Sys2Proof.Machine

/-! ### The queue -/

/-- The command at the front of the queue is taken, with the rest of the queue left waiting. -/
def Obligations.StepTakesTheFront : Prop :=
  ∀ (s : State) (c : Instr) (rest : List Instr), s.pending = c :: rest → step s = exec c { s with pending := rest }

/-- Every command answers a next state and leaves the queue alone: no rule stops the part. -/
def Obligations.EveryCommandCompletes : Prop :=
  ∀ (c : Instr) (s : State), ∃ t, exec c s = .next t ∧ t.pending = s.pending

/-- Table 9-1: no command but a host access, the clearing of a reset and a disturbance changes a byte, or its parity, of the
configuration block, the book areas, the schedule or the unassigned regions. -/
def Obligations.PartWritesOnlyItsRegions : Prop :=
  ∀ (c : Instr) (s t : State), s.ram.wf = true → (∀ word access, c ≠ .hostRamAccess word access) → c ≠ .resetRelease →
    (∀ addr content, c ≠ .ramContentDisturbed addr content) → exec c s = .next t → keepsOutside partWrites s.ram t.ram

/-! ### Invariants that every step keeps -/

/-- Every step keeps the RAM's canonical form (the model's form of R190's RAM), and the interrupt line asserted exactly while the
head differs from the tail and INT_ENABLE is 1 (R179). -/
def Obligations.StepKeepsRamAndLine : Prop := ∀ s t : State, s.Quiet → step s = .next t → t.Quiet

/-- R48: after every step each applied ceiling is at or below its hard bound, and between 0 and 4096. -/
def Obligations.StepKeepsCeilingsBounded : Prop :=
  ∀ s t : State, ceilingsBounded s.gain.stages → step s = .next t →
    ceilingsBounded t.gain.stages ∧ ∀ k : Stage, t.gain.stages[k].applied ≤ 4096

/-- R2, R16, R18: every step keeps the window length within 60 to 900, the rings at 900 samples, and N and S of every station
and band equal to the count and the sum of the counted samples at ages 0 to W − 1. -/
def Obligations.StepKeepsWindowSums : Prop := ∀ s t : State, s.acc.exact → step s = .next t → t.acc.exact

/-- R140: every step keeps the working book, when present, at 8 sets whose shares sum to at most 256 for each station. -/
def Obligations.StepKeepsBookValid : Prop := ∀ s t : State, s.book.Valid → step s = .next t → t.book.Valid

/-- R52, R60, R71, R96, R142: every step keeps the working book, the configuration values, the Poller's timing values and the
station table copy present in RUNNING; and every step keeps, outside RUNNING, no round open, no exchange in progress and no station
in LOST (R63, R75, R84). -/
def Obligations.StepKeepsRunningLoaded : Prop :=
  ∀ s t : State, step s = .next t → (s.Loaded → t.Loaded) ∧ (s.ShowOver → t.ShowOver)

/-- R118: every step keeps exactly one LIMIT entry active from the walker's leaving of UNSTARTED, which it has left exactly in
RUNNING, and the pause index present exactly in PAUSED. -/
def Obligations.StepKeepsOneActiveEntry : Prop := ∀ s t : State, s.WalkerSound → step s = .next t → t.WalkerSound

/-- Table 2-3 (R42, R44 to R47): every step keeps the schedule, fault, lost-station, ambient-mute and immediate-mute terms present,
with their values, exactly while their causes are. The operator hold (R43) is a request's own and no other state is its cause. -/
def Obligations.StepKeepsHardBoundTerms : Prop :=
  ∀ s t : State, s.WalkerSound → s.Loaded → s.ShowOver → s.TermsSound → step s = .next t → t.TermsSound

/-- R86, R88: every step keeps each outstanding command's ceiling and each pending value between 0 and 4096. -/
def Obligations.StepKeepsCommandCeilings : Prop :=
  ∀ s t : State, ceilingsBounded s.gain.stages → s.links.ceilingsInRange → step s = .next t → t.links.ceilingsInRange

/-- R13, R33, R34, R36, R76, R78, R95, R106, R118: every step keeps the counters, the demands and the show clock in their
ranges. -/
def Obligations.StepKeepsNumbersInRange : Prop :=
  ∀ s t : State, s.NumbersInRange → step s = .next t → t.NumbersInRange

/-- The invariants hold right after the RESET input is asserted. -/
def Obligations.ResetIsSound : Prop :=
  State.reset.Quiet ∧ ceilingsBounded State.reset.gain.stages ∧ State.reset.acc.exact ∧ State.reset.book.Valid ∧
    State.reset.Loaded ∧ State.reset.ShowOver ∧ State.reset.WalkerSound ∧ State.reset.TermsSound ∧ State.reset.links.ceilingsInRange ∧
    State.reset.NumbersInRange

/-! ### The RESET input -/

/-- HARDWARE_RESET: the values that the manual gives after a hardware reset, whatever the state before (R7, R18, R22, R26,
R29, R54, R79, R105, R118, R146, R158, R177). The RAM is cleared at the release (R159); that its content stands until the clearing
has ended is the model's choice (log entry 7). -/
def Obligations.HardwareResetValues : Prop :=
  ∀ s : State, ∃ t, exec .hardwareReset s = .next t ∧
    (t.run.state = .resetBusy ∧ t.run.error = .none ∧ t.run.runBit = false ∧ t.run.muteBit = false ∧ t.run.intBit = false) ∧
    t.clock = 0 ∧ t.regs.readLatch = 0 ∧ t.regs.writeLatch = 0 ∧ t.ram = s.ram ∧ t.pending = s.pending ∧
    (t.acc.w = 900 ∧ t.acc.set = 0 ∧ t.acc.h = 600 ∧ t.acc.k = 1 ∧ t.acc.primePending = true ∧ t.acc.ambient.phase = .none) ∧
    (∀ k : Stage, t.acc.ctrl[k] = false) ∧
    (∀ st : Station, t.acc.accts[st].ring = List.replicate 900 { mark := .absent, eA := 0, eC := 0 } ∧
      t.acc.accts[st].n = 0 ∧ t.acc.accts[st].a = { s := 0, pLim := 0, pAmb := 0, allow := 0, q := 4096, overdrawn := false } ∧
      t.acc.accts[st].c = t.acc.accts[st].a ∧ t.acc.accts[st].qs = 4096 ∧ t.acc.accts[st].gs = 4096 ∧
      t.acc.accts[st].missing = 0 ∧ t.acc.accts[st].unctl = false ∧ t.poller.states[st] = .unknown) ∧
    t.gain.cfg = none ∧
    (∀ k : Stage, t.gain.stages[k] =
      { target := 4096, applied := 4096, sched := none, hold := none, fault := none, lost := none, ambient := none,
        immediate := none }) ∧
    (∀ l : Loop, (t.loopLine l).state = .good ∧ (t.loopLine l).fails = 0 ∧ (t.loopLine l).probe = 10) ∧
    t.poller.copy = none ∧ t.poller.timing = none ∧ t.links.cfg = none ∧
    (∀ k : Stage, t.links.lines[k].state = .unknown ∧ t.links.lines[k].limiter = .unknown ∧ t.links.lines[k].failed = 0 ∧
      t.links.lines[k].charged = false ∧ t.links.lines[k].seq = 0 ∧ t.links.lines[k].out = none ∧
      t.links.lines[k].pend = none ∧ t.links.lines[k].hold = false) ∧
    t.walker = { state := .unstarted, active := none, watch := 0, pause := none, links := 0 } ∧
    t.book.working = none ∧ t.book.area = 0 ∧ (∀ st : Station, t.book.ambA[st] = 0 ∧ t.book.ambC[st] = 0) ∧
    t.scanner.pointer = 0 ∧ t.scanner.again = false ∧ t.scanner.inFlight = [] ∧ t.scanner.flags = 0 ∧
    (t.notices.head = 0 ∧ t.notices.tail = 0 ∧ t.notices.seq = 0 ∧ t.notices.overrun = false ∧ t.notices.irq = false) ∧
    (∀ i : Fin 9, t.notices.edges[i] = .none ∧ ∀ sub : Fin 16, t.notices.conds[i][sub] = false) ∧
    t.log.writeIdx = 0 ∧ t.log.mode = .keepOldest ∧ t.log.full = false ∧ t.log.half = false ∧ t.log.minuteOpen = false

/-- RESET_RELEASE: the release in RESET_BUSY clears all of the RAM to zero with good parity and changes nothing else (R159).
That the clearing is one step is the model's choice (log entry 7). RAM_CLEAR_COMPLETE: the end of the clearing enters IDLE, and
RUN_STATE (kind 23; before RESET_BUSY 0, after IDLE 1) is the first notice, at index 0 with sequence number 0; INT_ENABLE being
0, the line is not asserted (R159, R177). -/
def Obligations.ResetReleaseEndsInIdle : Prop :=
  ∀ s : State, s.run.state = .resetBusy →
    (s.run.resetAsserted = true →
      ∃ t, exec .resetRelease s = .next t ∧ (∀ a, t.ram.byte a = 0 ∧ t.ram.badAt a = false) ∧
        t = { s with ram := t.ram, run := { s.run with resetAsserted := false } }) ∧
    (s.run.resetAsserted = false → s.run.intBit = false → s.run.error = .none → s.walker.state = .unstarted →
      s.notices.head = 0 → s.notices.tail = 0 → s.notices.seq = 0 → s.ram.wf = true →
      ∃ t, exec .ramClearComplete s = .next t ∧ t.run = { s.run with state := .idle } ∧
        t.ram.readLe 0x2400 2 = 0 ∧ t.ram.readLe 0x2402 1 = 23 ∧ t.ram.readLe 0x2403 1 = 0 ∧
        t.ram.readLe 0x2408 4 = 0x00000100 ∧ t.notices = { s.notices with head := 1, seq := 1, irq := false } ∧
        keepsOutside (fun a => 0x2400 ≤ a ∧ a < 0x2410) s.ram t.ram ∧
        t = { s with run := t.run, ram := t.ram, notices := t.notices })

/-! ### Time -/

/-- SECOND_EVENT in IDLE and in STARTING: the clock counts (or wraps), every ring advances with ABSENT, and the charged flags are
cleared; in IDLE the stop ceiling is offered when the controller holds configuration values, and a scan begins or is pending; in
STARTING no value is offered and no scan begins (R5, R95, R102, R106 to R108, R161, R169). The order in which the blocks take it
makes no difference to these. In RESET_BUSY the clock is held, and nothing happens (R106). -/
def Obligations.SecondEventInIdle : Prop :=
  ∀ (s : State) (order : List SecondWork),
    (s.run.state = .resetBusy → exec (.secondEvent order) s = .next s) ∧
    (s.run.state = .idle ∨ s.run.state = .starting → s.walker.state = .unstarted →
      ∃ t, exec (.secondEvent order) s = .next t ∧
        t.clock = (if s.clock < 2147483647 then s.clock + 1 else 0) ∧
        (∀ st : Station, t.acc.accts[st] = s.acc.accts[st].advance s.acc.w { mark := .absent, eA := 0, eC := 0 }) ∧
        (∀ k : Stage,
          let l := { s.links.lines[k] with charged := false }
          t.links.lines[k] =
            if s.run.state = .starting then l
            else
              match s.links.cfg with
              | some c => Link.offer k c.stopCeiling l
              | none => l) ∧
        t.scanner = (if s.run.state = .starting then s.scanner else s.scanner.beginScan) ∧
        t.run = s.run ∧ t.regs = s.regs ∧ t.gain = s.gain ∧ t.poller = s.poller ∧ t.walker = s.walker ∧ t.book = s.book ∧
        t.links.cfg = s.links.cfg ∧ t.acc.w = s.acc.w ∧ t.acc.set = s.acc.set ∧ t.acc.h = s.acc.h ∧ t.acc.k = s.acc.k ∧
        t.acc.ambient = s.acc.ambient ∧ t.log.writeIdx = s.log.writeIdx)

/-- SECOND_EVENT in RUNNING. With an enabled station a round opens, numbered with the new clock value; it lists the enabled
stations in ascending index, and the exchange of the first begins. With none it closes at once by last outcome: every station
advances with ABSENT and the targets are taken. A round still open is first closed as its deadline would close it (R4, R40, R50,
R63, R69, R70). At a minute event the Log Writer closes its minute, numbered with the clock value divided by 60; at no other second
does the log or its write index change (R107, R185). That the blocks take the event in the order the command gives is log
entry 3. -/
def Obligations.SecondEventOpensRound : Prop :=
  ∀ (s : State) (order : List SecondWork), s.run.state = .running →
    let c := if s.clock < 2147483647 then s.clock + 1 else 0
    let now := { s with clock := c }
    (∀ (copy : Vector StationEntry 16) (first : Station) (rest : List Station),
      s.poller.roundOpen = false → s.poller.copy = some copy →
      (allStations.filter fun st => copy[st].enabled) = first :: rest →
      ∃ t, exec (.secondEvent order) s = .next t ∧ t.clock = c ∧ t.poller.roundOpen = true ∧ t.poller.roundNo = c ∧
        t.poller.settled = [] ∧ t.BeginsExchange copy first rest ∧ t.poller.probe = none ∧
        ∀ st : Station, t.acc.advanced[st] = false ∧ t.acc.accts[st].ring = s.acc.accts[st].ring) ∧
    (s.poller.roundOpen = false → (∀ st : Station, s.enabledStation st = false) →
      ∃ t, exec (.secondEvent order) s = .next t ∧ t.clock = c ∧ t.poller.roundOpen = false ∧ t.poller.roundNo = c ∧
        t.poller.exch = none ∧ t.poller.todo = [] ∧
        (∀ st : Station, t.acc.advanced[st] = true ∧
          t.acc.accts[st].ring = ({ mark := .absent, eA := 0, eC := 0 } :: s.acc.accts[st].ring).take 900) ∧
        (s.gain.cfg.isSome = true → s.walker.state ≠ .waiting → s.clock < 2147483647 →
          ∀ k : Stage, t.gain.stages[k].target = t.softTarget k)) ∧
    (s.poller.roundOpen = true → ∀ u, exec .roundDeadline now = .next u →
      exec (.secondEvent (.poller :: order)) s = exec (.secondEvent (.poller :: order)) { u with clock := s.clock }) ∧
    (s.ram.wf = true →
      (c % 60 ≠ 0 → ∀ t, exec (.secondEvent order) s = .next t →
        t.log.writeIdx = s.log.writeIdx ∧ ∀ a, inLog a → t.ram.byte a = s.ram.byte a ∧ t.ram.badAt a = s.ram.badAt a) ∧
      (c % 60 = 0 → ∀ t, exec (.secondEvent (.minute :: order)) s = .next t →
        let v := now.closeMinute (c / 60) { clockSet := false, stopped := false }
        t.log.writeIdx = v.log.writeIdx ∧ ∀ a, inLog a → t.ram.byte a = v.ram.byte a ∧ t.ram.badAt a = v.ram.badAt a))

/-! ### Run Control -/

/-- START: a CONTROL write that changes RUN from 0 to 1 in IDLE, and no other bit, sets STARTING; the start error code keeps its
value (R160, R161). One RUN_STATE notice is handed (kind 23): that it is handed at this change too is log entry 9. -/
def Obligations.StartBegins : Prop :=
  ∀ (s : State) (high : Half), s.ram.wf = true → s.run.state = .idle → s.run.runBit = false →
    s.WritesControl high true s.run.muteBit s.run.intBit →
    ∃ t, exec (.start high) s = .next t ∧ t.run = { s.run with state := .starting, runBit := true } ∧
      t.notices =
        (s.post 23 0 (1 + 256 * 2 + 65536 * s.run.error.code + 16777216 * s.walker.state.code)).notices ∧
      keepsOutside (inNextNotice s.notices) s.ram t.ram ∧
      t = { s with run := t.run, ram := t.ram, notices := t.notices }

/-- R162, Table 7-3: the eight start checks in their order: a parity error in the configuration block; one in the station table; two
enabled stations with one address; a ceiling above 4096; an area index other than 0 or 1; a parity error in the area named; a record
there that fails; a schedule header or head entry that cannot be used. The first that fails decides; with none, the start holds what
was read, each value clamped as R162 has it (R60, R71, R111, R121, R128, R139, R141, R180, R183, Tables 9-2, 9-3 and 9-5). That two
addresses are compared as loaded, with an address of 0 or above 62 loaded as disabled, is log entry 18; which bytes the parity checks
read is log entry 17. -/
def Obligations.StartChecksInOrder : Prop :=
  ∀ m : Memory,
    let f := m.readLe
    let parityA := ∃ a, (a < 0x1B ∨ (0x1C ≤ a ∧ a < 0x25)) ∧ m.badAt a = true
    let parityB := ∃ (st : Station) (a : Nat), 0x0100 + 16 * st.val ≤ a ∧ a < 0x0100 + 16 * st.val + 3 ∧ m.badAt a = true
    let loads := fun (st : Station) =>
      bit (f (0x0100 + 16 * st.val) 1) 0 = true ∧ 1 ≤ f (0x0101 + 16 * st.val) 1 ∧ f (0x0101 + 16 * st.val) 1 ≤ 62
    let same := ∃ i j : Station, i ≠ j ∧ loads i ∧ loads j ∧ f (0x0101 + 16 * i.val) 1 = f (0x0101 + 16 * j.val) 1
    let above := 4096 < f 0x0C 2 ∨ 4096 < f 0x0A 2 ∨ ∃ k : Stage, 4096 < f (0x10 + 2 * k.val) 2
    let count := f 0x3404 2
    let head := f 0x3406 2
    let usable := headerGood m count head ∧ 1 ≤ head ∧ head ≤ count ∧ ¬ entryParity m head ∧ f (entryAddr head) 1 = 1 ∧
      limitValid m head
    (parityA → startCheck m = .error .parity) ∧
    (¬ parityA → parityB → startCheck m = .error .parity) ∧
    (¬ parityA → ¬ parityB → same → startCheck m = .error .duplicateAddress) ∧
    (¬ parityA → ¬ parityB → ¬ same → above → startCheck m = .error .ceiling) ∧
    (¬ parityA → ¬ parityB → ¬ same → ¬ above →
      (1 < f 0x0F 1 → startCheck m = .error .bookArea) ∧
      ∀ area : Fin 2, f 0x0F 1 = area.val →
        (∀ e, validateArea m area = .error e → startCheck m = .error (if e.cause = .parity then .parity else .book)) ∧
        ∀ book, validateArea m area = .ok book →
          (¬ usable → startCheck m = .error .schedule) ∧
          (usable →
            ∃ d, startCheck m = .ok d ∧ d.area = area ∧ d.book = book ∧ d.count = count ∧ d.head = limitAt m head ∧
              (∀ st : Station, (d.copy[st].enabled = true ↔ loads st) ∧ d.copy[st].addr = f (0x0101 + 16 * st.val) 1 ∧
                d.copy[st].loop = if f (0x0102 + 16 * st.val) 1 = 1 then .b else .a) ∧
              d.config.timing =
                { timeout := max 1 (min 20 (f 0x00 2)), retries := min 2 (f 0x02 1), alternate := bit (f 0x03 1) 0 } ∧
              d.config.gain.dn = max 1 (min 4096 (f 0x04 2)) ∧ d.config.gain.up = max 1 (min 4096 (f 0x06 2)) ∧
              d.config.gain.cMin = max 1 (min 256 (f 0x08 2)) ∧ d.config.gain.fault = f 0x0A 2 ∧
              d.config.link.stopCeiling = f 0x0C 2 ∧
              (∀ k : Stage, d.config.gain.lost[k] = f (0x10 + 2 * k.val) 2 ∧
                d.config.link.enabled[k] = bit (f 0x0E 1) k.val) ∧
              d.config.watch = (if 255 < f 0x18 2 then 0 else f 0x18 2) ∧
              d.config.mode = (if f 0x1A 1 = 1 then .keepNewest else .keepOldest) ∧
              ∀ i : Fin 9, d.config.edges[i] =
                match f (0x1C + i.val) 1 with
                | 0 => .none
                | 1 => .enter
                | 2 => .leave
                | _ => .both))

/-- START_CHECKS_COMPLETE with a failing check, and STOP (RUN written 0) in STARTING: the part returns to IDLE with the code,
RUN is cleared, RUN_STATE is handed, and every block keeps its state; a pending scan begins (R161, R163). That a scan in progress
stood still in STARTING and goes on, the pending one waiting for it, is log entry 5. -/
def Obligations.StartErrorReturnsToIdle : Prop :=
  ∀ (s : State) (high : Half), s.ram.wf = true → s.run.state = .starting →
    let ends := fun (c : Instr) (e : StartError) =>
      ∃ t, exec c s = .next t ∧ t.run = { s.run with state := .idle, error := e, runBit := false } ∧
        t.notices = (s.post 23 0 (2 + 256 * 1 + 65536 * e.code + 16777216 * s.walker.state.code)).notices ∧
        keepsOutside (inNextNotice s.notices) s.ram t.ram ∧
        t.scanner = (if s.scanner.again = true ∧ s.scanner.scan = none then
          { s.scanner with again := false, scan := some { next := s.scanner.pointer, left := 32, last := none } } else s.scanner) ∧
        t = { s with run := t.run, ram := t.ram, notices := t.notices, scanner := t.scanner }
    (∀ e, startCheck s.ram = .error e → ends .startChecksComplete e) ∧
      (s.run.runBit = true → s.WritesControl high false s.run.muteBit s.run.intBit → ends (.stop high) .stopped)

/-- START_CHECKS_COMPLETE with every check passed: the blocks take what was read, RUNNING is entered with error NONE, each
station is UNKNOWN or DISABLED, an entry is active, the prime-pending flag is cleared, and every enabled stage is in the start
hold with no command and its applied ceiling pending (R22, R52, R53, R60, R71, R96, R100, R101, R128, R129, R141, R164). -/
def Obligations.StartSucceeds : Prop :=
  ∀ (s : State) (d : StartData), s.run.state = .starting → startCheck s.ram = .ok d →
    ∃ t, exec .startChecksComplete s = .next t ∧
      t.run = { s.run with state := .running, error := .none } ∧
      t.poller.copy = some d.copy ∧ t.poller.timing = some d.config.timing ∧ t.gain.cfg = some d.config.gain ∧
      t.links.cfg = some d.config.link ∧ t.book.working = some d.book ∧ t.book.area = d.area ∧
      t.walker.watch = d.config.watch ∧ t.notices.edges = d.config.edges ∧ t.log.mode = d.config.mode ∧
      t.log.minuteOpen = true ∧ t.log.writeIdx = s.log.writeIdx ∧ t.acc.primePending = false ∧
      t.walker.state ≠ .unstarted ∧ t.walker.active.isSome = true ∧
      (∀ st : Station, t.poller.states[st] = if d.copy[st].enabled then .unknown else .disabled) ∧
      (∀ st : Station, d.copy[st].enabled = true → (s.acc.primePending = true ∨ t.acc.accts[st].n = 0) →
        t.acc.accts[st].n = t.acc.w) ∧
      (∀ k : Stage, t.gain.stages[k].target = 4096 ∧ t.gain.stages[k].applied ≤ t.gain.stages[k].bound ∧
        t.gain.stages[k].hold = s.gain.stages[k].hold) ∧
      (∀ k : Stage, if d.config.link.enabled[k] then
          t.links.lines[k].hold = true ∧ t.links.lines[k].out = none ∧
            t.links.lines[k].pend = some t.gain.stages[k].applied ∧ t.links.lines[k].limiter = s.links.lines[k].limiter ∧
            t.links.lines[k].state = (if s.links.lines[k].state = .lost then .lost else .unknown)
        else t.links.lines[k].state = .disabled ∧ t.links.lines[k].limiter = .unknown ∧ t.links.lines[k].out = none) ∧
      t.clock = s.clock ∧ t.regs = s.regs ∧ t.book.ambA = s.book.ambA ∧ t.book.ambC = s.book.ambC ∧
      t.scanner.flags = s.scanner.flags

/-- STOP in RUNNING: IDLE, with the start error code, IMMEDIATE_MUTE and INT_ENABLE kept; the round closed, probe and test
ended, station states UNKNOWN and missing counts 0; the schedule, fault, lost-station and ambient terms removed with C_k, T_k and
the holds kept; each stage that is not DISABLED sent the stop ceiling as a new command; the walker UNSTARTED with the watch index
kept; the minute closed; the configuration values, book, flags and ambient table kept (R13, R54, R75, R84, R103, R118, R140, R146,
R165, R186). -/
def Obligations.StopReturnsToIdle : Prop :=
  ∀ (s : State) (high : Half) (g : LinkConfig), s.run.state = .running → s.run.runBit = true →
    s.WritesControl high false s.run.muteBit s.run.intBit → ceilingsBounded s.gain.stages → s.links.cfg = some g →
    ∃ t, exec (.stop high) s = .next t ∧ t.run = { s.run with state := .idle, runBit := false } ∧
      t.poller.roundOpen = false ∧ t.poller.exch = none ∧ t.poller.probe = none ∧ t.poller.test = none ∧
      t.poller.copy = s.poller.copy ∧ t.poller.timing = s.poller.timing ∧ t.acc.ambient.phase = .none ∧
      (∀ st : Station, t.poller.states[st] = .unknown ∧ t.acc.accts[st].missing = 0) ∧
      (∀ k : Stage, t.gain.stages[k] =
        { s.gain.stages[k] with sched := none, fault := none, lost := none, ambient := none }) ∧
      t.gain.cfg = s.gain.cfg ∧ t.links.cfg = s.links.cfg ∧
      (∀ k : Stage, s.links.lines[k].state ≠ .disabled →
        (∃ c, t.links.lines[k].out = some c ∧ c.seq = s.links.lines[k].seq ∧ c.ceiling = g.stopCeiling ∧ c.attempt = 1) ∧
          t.links.lines[k].pend = none ∧ t.links.lines[k].hold = false ∧
          t.links.lines[k].state = s.links.lines[k].state ∧ t.links.lines[k].limiter = s.links.lines[k].limiter ∧
          t.links.lines[k].failed = s.links.lines[k].failed) ∧
      t.walker = { s.walker with state := .unstarted, active := none, pause := none } ∧
      t.log.minuteOpen = false ∧ t.log.mode = s.log.mode ∧ t.clock = s.clock ∧ t.regs = s.regs ∧ t.book = s.book ∧
      t.scanner.flags = s.scanner.flags ∧ t.scanner.pointer = s.scanner.pointer ∧
      t.acc.w = s.acc.w ∧ t.acc.set = s.acc.set ∧ t.acc.h = s.acc.h ∧ t.acc.k = s.acc.k ∧
      t.acc.primePending = s.acc.primePending

/-- SOFT_RESET: a CONTROL write with SOFT_RESET 1 outside RESET_BUSY returns the part to IDLE, forgets the working book and every
configuration value, abandons all work (the round, the exchange, the probe, the test, the measurement, the scan, the commands), puts
every condition out, and keeps the clock, W, the limit set, H, K, the prime-pending flag, the ambient table, the log write index, the
latches and, with no round open, the rings, N and S; with one open, the stations that have not advanced advance with ABSENT (R6, R26,
R43, R54, R75, R79, R83, R84, R104, R115, R118, R140, R158, R166, R180). RUN_STATE (kind 23; before the state found, after IDLE 1)
is the first notice, at index 0 with sequence number 0; every slot in flight that reads TAKEN becomes REFUSED with RESET and no
result; every other byte of shared RAM is kept, the fault record among them (R176, R177). -/
def Obligations.SoftResetForgetsAndKeeps : Prop :=
  ∀ (s : State) (high : Half), s.run.state ≠ .resetBusy → bit (s.written high) 1 = true →
    ∃ t, exec (.softReset high) s = .next t ∧
      (t.run.state = .idle ∧ t.run.error = .none ∧ t.run.runBit = false ∧ t.run.muteBit = false ∧ t.run.intBit = false) ∧
      (t.notices.head = 1 ∧ t.notices.tail = 0 ∧ t.notices.seq = 1 ∧ t.notices.overrun = false ∧ t.notices.irq = false) ∧
      (∀ i : Fin 9, t.notices.edges[i] = .none ∧ ∀ sub : Fin 16, t.notices.conds[i][sub] = false) ∧
      t.clock = s.clock ∧ t.regs = s.regs ∧ t.acc.w = s.acc.w ∧ t.acc.set = s.acc.set ∧ t.acc.h = s.acc.h ∧
      t.acc.k = s.acc.k ∧ t.acc.primePending = s.acc.primePending ∧ t.book.ambA = s.book.ambA ∧ t.book.ambC = s.book.ambC ∧
      t.log.writeIdx = s.log.writeIdx ∧ t.log.full = false ∧ t.log.half = false ∧ t.log.minuteOpen = false ∧
      (s.poller.roundOpen = false → ∀ st : Station, t.acc.accts[st].ring = s.acc.accts[st].ring ∧
        t.acc.accts[st].n = s.acc.accts[st].n ∧ t.acc.accts[st].a.s = s.acc.accts[st].a.s ∧
        t.acc.accts[st].c.s = s.acc.accts[st].c.s) ∧
      (s.poller.roundOpen = true → ∀ st : Station, t.acc.accts[st].ring =
        if s.acc.advanced[st] then s.acc.accts[st].ring
        else ({ mark := .absent, eA := 0, eC := 0 } :: s.acc.accts[st].ring).take 900) ∧
      (∀ st : Station, t.acc.accts[st].a.pLim = 0 ∧ t.acc.accts[st].a.allow = 0 ∧ t.acc.accts[st].a.q = 4096 ∧
        t.acc.accts[st].a.overdrawn = false ∧ t.acc.accts[st].a.pAmb = s.acc.accts[st].a.pAmb ∧
        t.acc.accts[st].c.pLim = 0 ∧ t.acc.accts[st].c.allow = 0 ∧ t.acc.accts[st].c.q = 4096 ∧
        t.acc.accts[st].c.overdrawn = false ∧ t.acc.accts[st].c.pAmb = s.acc.accts[st].c.pAmb ∧
        t.acc.accts[st].qs = 4096 ∧ t.acc.accts[st].gs = 4096 ∧ t.acc.accts[st].missing = 0 ∧
        t.acc.accts[st].unctl = false ∧ t.poller.states[st] = .unknown) ∧
      (∀ k : Stage, t.gain.stages[k] = State.reset.gain.stages[k] ∧ t.acc.ctrl[k] = false) ∧
      (∀ l : Loop, (t.loopLine l).state = .good ∧ (t.loopLine l).fails = 0 ∧ (t.loopLine l).probe = 10) ∧
      (∀ k : Stage, t.links.lines[k].state = .unknown ∧ t.links.lines[k].limiter = .unknown ∧ t.links.lines[k].failed = 0 ∧
        t.links.lines[k].seq = 0 ∧ t.links.lines[k].out = none ∧ t.links.lines[k].pend = none ∧
        t.links.lines[k].hold = false) ∧
      t.gain.cfg = none ∧ t.links.cfg = none ∧ t.poller.copy = none ∧ t.poller.timing = none ∧ t.book.working = none ∧
      t.book.area = 0 ∧ t.poller.roundOpen = false ∧ t.poller.todo = [] ∧ t.poller.exch = none ∧ t.poller.probe = none ∧
      t.poller.probeDue = [] ∧ t.poller.test = none ∧ t.acc.ambient.phase = .none ∧ t.walker = State.reset.walker ∧
      t.scanner.pointer = 0 ∧ t.scanner.scan = none ∧ t.scanner.again = false ∧ t.scanner.inFlight = [] ∧
      t.scanner.flags = 0 ∧
      (s.ram.wf = true →
        let taken := fun (i : Slot) =>
          (∃ f ∈ s.scanner.inFlight, f.slot = i) ∧ s.ram.badAt (slotAddr i) = false ∧ s.ram.readLe (slotAddr i) 1 = 2
        t.ram.readLe 0x2400 2 = 0 ∧ t.ram.readLe 0x2402 1 = 23 ∧ t.ram.readLe 0x2403 1 = 0 ∧
          t.ram.readLe 0x2404 4 = s.clock % 4294967296 ∧ t.ram.readLe 0x2408 4 = s.run.state.code + 256 * 1 ∧
          (∀ i : Slot, taken i → slotHolds t.ram i 4 7 []) ∧
          keepsOutside
            (fun a => (0x2400 ≤ a ∧ a < 0x2410) ∨ ∃ i : Slot, taken i ∧ (a = slotAddr i ∨ a = slotAddr i + 3)) s.ram t.ram)

/-- IMMEDIATE_MUTE. Set: a CONTROL write that changes the bit from 0 to 1, and no other, puts the term 0 on all four stages and
clips every applied ceiling to 0 at once; in RUNNING a stage that is not DISABLED and not in the start hold, with a ceiling above
0, carries a new command of 0 with its next sequence number. Cleared: the term goes from all four stages, and no applied ceiling
and no link changes (R47, R48, R93, R160, R167). -/
def Obligations.ImmediateMuteClips : Prop :=
  ∀ (s : State) (high : Half), s.run.state ≠ .resetBusy →
    (s.run.muteBit = false → s.WritesControl high s.run.runBit true s.run.intBit →
      ∃ t, exec (.immediateMute high) s = .next t ∧ t.run = { s.run with muteBit := true } ∧
        (∀ k : Stage, t.gain.stages[k] = { s.gain.stages[k] with immediate := some 0, applied := 0 }) ∧
        (∀ k : Stage, 0 < s.gain.stages[k].applied → s.run.state = .running → s.links.lines[k].state ≠ .disabled →
          s.links.lines[k].hold = false → s.links.lines[k].Carries t.links.lines[k] 0) ∧
        t.clock = s.clock ∧ t.regs = s.regs ∧ t.acc = s.acc ∧ t.poller = s.poller ∧ t.walker = s.walker ∧
        t.book = s.book ∧ t.scanner = s.scanner) ∧
    (s.run.muteBit = true → ceilingsBounded s.gain.stages → s.WritesControl high s.run.runBit false s.run.intBit →
      ∃ t, exec (.immediateMute high) s = .next t ∧
        (∀ k : Stage, t.gain.stages[k] = { s.gain.stages[k] with immediate := none }) ∧
        t = { s with run := { s.run with muteBit := false }, gain := t.gain })

/-- INT_ENABLE: a CONTROL write that changes the bit, and no other, re-evaluates the interrupt line and does nothing else
(R158, R160, R179). -/
def Obligations.IntEnableDrivesTheLine : Prop :=
  ∀ (s : State) (high : Half) (v : Bool), s.run.state ≠ .resetBusy → v ≠ s.run.intBit →
    s.WritesControl high s.run.runBit s.run.muteBit v →
    exec (.intEnable high) s =
      .next { s with
        run := { s.run with intBit := v }
        notices := { s.notices with irq := v && decide (s.notices.head ≠ s.notices.tail) } }

/-! ### The register window and the host's bus -/

/-- REGISTER_LOW_HALF_WRITE: outside RESET_BUSY a low half written to a register places its value in the write latch and has no
other effect (R191). REGISTER_LOW_HALF_READ: the low 16 bits of the register's value go to the host, and the high 16 bits into
the read latch; the values are those of Table 9-10, and 0 for every register in RESET_BUSY (R191, R192). That offset 0x1C, which is no
register, reads so as well, with 0 into the read latch, is log entry 27; that a half is taken whole is log entry 45. -/
def Obligations.LowHalvesUseTheLatches : Prop :=
  ∀ (s : State) (reg : Reg) (value : Half),
    let mute := ∃ k : Stage, s.gain.stages[k].immediate.isSome = true ∨ s.gain.stages[k].ambient.isSome = true
    let v := match reg with
      | .ident => 0x00014C43
      | .control => boolCode s.run.runBit + 4 * boolCode s.run.muteBit + 8 * boolCode s.run.intBit
      | .status => s.run.state.code + 16 * s.walker.state.code + 256 * s.run.error.code + 65536 * boolCode s.notices.overrun
          + 131072 * boolCode s.log.full
      | .attention => 0
      | .noticeHead => s.notices.head.toNat
      | .noticeTail => s.notices.tail.toNat
      | .showClock => s.clock
      | .reserved => 0
    let answers := fun (v : Nat) =>
      exec (.registerLowHalfRead reg) s =
        .next { s with regs := { s.regs with bus := BitVec.ofNat 16 v, readLatch := BitVec.ofNat 16 (v / 65536) } }
    (s.run.state = .resetBusy → answers 0) ∧
      (s.run.state ≠ .resetBusy →
        (reg ≠ .reserved →
          exec (.registerLowHalfWrite reg value) s = .next { s with regs := { s.regs with writeLatch := value } }) ∧
        (¬ (reg = .status ∧ mute) → answers v) ∧ (reg = .status → mute → answers (v + 262144)))

/-- REGISTER_WRITE_IGNORED: a write of IDENT, NOTICE_HEAD, SHOW_CLOCK or offset 0x1C changes nothing; in RESET_BUSY no write of
any register does (R159, R192). -/
def Obligations.WritesThatAreIgnored : Prop :=
  ∀ (s : State) (reg : Reg) (high value : Half),
    (reg = .ident ∨ reg = .noticeHead ∨ reg = .showClock ∨ reg = .reserved → exec (.registerWriteIgnored reg high) s = .next s) ∧
    (s.run.state = .resetBusy →
      exec (.registerWriteIgnored reg high) s = .next s ∧ exec (.registerLowHalfWrite reg value) s = .next s ∧
      exec (.start high) s = .next s ∧ exec (.stop high) s = .next s ∧ exec (.softReset high) s = .next s ∧
      exec (.immediateMute high) s = .next s ∧ exec (.intEnable high) s = .next s ∧
      exec (.noticeOverrunClear high) s = .next s ∧ exec (.attention high) s = .next s ∧
      exec (.noticeTailWrite high) s = .next s)

/-- NOTICE_OVERRUN_CLEAR: a STATUS write outside RESET_BUSY clears the overrun flag when bit 16 is 1, leaves it when it is 0, and
ignores every other bit (R178, R192). -/
def Obligations.OverrunClearedByOne : Prop :=
  ∀ (s : State) (high : Half), s.run.state ≠ .resetBusy →
    exec (.noticeOverrunClear high) s =
      .next { s with notices := { s.notices with overrun := s.notices.overrun && !high.getLsbD 0 } }

/-- ATTENTION: a write begins a scan in IDLE and RUNNING, or sets the pending-scan flag while one is in progress; in STARTING it
sets the flag; the value written is ignored (R161, R169). -/
def Obligations.AttentionAsksForAScan : Prop :=
  ∀ (s : State) (high : Half), s.run.state ≠ .resetBusy →
    exec (.attention high) s =
      .next { s with
        scanner :=
          if s.run.state = .starting ∨ s.scanner.scan.isSome = true then { s.scanner with again := true }
          else { s.scanner with scan := some { next := s.scanner.pointer, left := 32, last := none } } }

/-- NOTICE_TAIL_WRITE: a value of 0 to 255 replaces the tail and the line is re-evaluated; a value above 255 is ignored (R179). -/
def Obligations.TailWriteReplacesTheTail : Prop :=
  ∀ (s : State) (high : Half), s.run.state ≠ .resetBusy →
    (s.written high ≤ 255 →
      exec (.noticeTailWrite high) s =
        .next { s with
          notices := { s.notices with
            tail := BitVec.ofNat 8 (s.written high)
            irq := s.run.intBit && decide (s.notices.head ≠ BitVec.ofNat 8 (s.written high)) } }) ∧
    (255 < s.written high → exec (.noticeTailWrite high) s = .next s)

/-- HOST_RAM_ACCESS: a write outside RESET_BUSY stores the enabled halves with good parity and changes nothing else; in RESET_BUSY
it is ignored; a read returns the stored word without checking parity, or 0 in RESET_BUSY (R159, R190). That a read gives both bytes of
the word is log entry 44. -/
def Obligations.HostAccessToRam : Prop :=
  ∀ (s : State) (word : BitVec 15) (data : Half) (low high : Bool), s.ram.wf = true →
    (s.run.state = .resetBusy → exec (.hostRamAccess word (.write data low high)) s = .next s) ∧
    (s.run.state ≠ .resetBusy →
      ∃ t, exec (.hostRamAccess word (.write data low high)) s = .next t ∧ t = { s with ram := t.ram } ∧
        (low = true → (t.ram.byte (2 * word.toNat)).toNat = data.toNat % 256 ∧ t.ram.badAt (2 * word.toNat) = false) ∧
        (high = true → (t.ram.byte (2 * word.toNat + 1)).toNat = data.toNat / 256 ∧ t.ram.badAt (2 * word.toNat + 1) = false) ∧
        keepsOutside (fun a => (low = true ∧ a = 2 * word.toNat) ∨ (high = true ∧ a = 2 * word.toNat + 1)) s.ram t.ram) ∧
    ∃ t, exec (.hostRamAccess word .read) s = .next t ∧ t = { s with regs := { s.regs with bus := t.regs.bus } } ∧
      t.regs.bus.toNat = if s.run.state = .resetBusy then 0
        else (s.ram.byte (2 * word.toNat)).toNat + 256 * (s.ram.byte (2 * word.toNat + 1)).toNat

/-- RAM_CONTENT_DISTURBED: the byte holds the new content with bad parity until it is written again; every other byte keeps its
content and its parity, and nothing else changes (R190). -/
def Obligations.DisturbedByteHasBadParity : Prop :=
  ∀ (s : State) (addr : Half) (content : Byte), s.ram.wf = true →
    ∃ t, exec (.ramContentDisturbed addr content) s = .next t ∧ t = { s with ram := t.ram } ∧
      t.ram.byte addr.toNat = content ∧ t.ram.badAt addr.toNat = true ∧
      keepsOutside (fun a => a = addr.toNat) s.ram t.ram ∧
      ∀ b : Byte, (t.ram.write addr.toNat b).byte addr.toNat = b ∧ (t.ram.write addr.toNat b).badAt addr.toNat = false

/-! ### Requests and scans -/

/-- A slot read with a parity error is refused with PARITY, one of an unknown kind with BAD_KIND, and in IDLE a
RESTART_SCHEDULE, RESUME_SCHEDULE, SWAP_BOOK, MEASURE_AMBIENT or LOOP_TEST with NOT_RUNNING; nothing else changes (R80, R132,
R137, R143, R149, R170). -/
def Obligations.RequestsRefusedBeforeTheirWork : Prop :=
  ∀ (s : State) (i : Slot) (p : Scan), s.ram.wf = true → s.nextTaken = some (i, p) →
    let refuses := fun (c : Instr) (code : Nat) =>
      ∃ t, exec c s = .next t ∧ s.Answered t i 4 code [] ∧ t = s.afterScanOnly t p
    let parity := ∃ a, slotAddr i ≤ a ∧ a < slotAddr i + 64 ∧ s.ram.badAt a = true
    (parity → refuses (.requestBadKind i) 6) ∧
    (¬ parity → s.param i 0x01 1 = 0 ∨ 14 < s.param i 0x01 1 → refuses (.requestBadKind i) 1) ∧
    (s.run.state = .idle →
      (s.ram.slotKind i = .kind .restartSchedule → refuses (.restartSchedule i) 4) ∧
      (s.ram.slotKind i = .kind .resumeSchedule → ∀ u, refuses (.resumeSchedule i u) 4) ∧
      (s.ram.slotKind i = .kind .swapBook → refuses (.swapBook i) 4) ∧
      (s.ram.slotKind i = .kind .measureAmbient → refuses (.measureAmbient i) 4) ∧
      (s.ram.slotKind i = .kind .loopTest → refuses (.loopTest i) 4))

/-- REQUEST_SCAN: a scan takes, of the slots it has still to read in circular order, the first that reads POSTED with no request
in flight, and goes on from it; with none left it ends, with the pointer one past the last slot taken, and a pending scan
begins (R169). That nothing comes between its requests is the model's choice (log entry 4), and so is that a SET_CLOCK which it
takes has the walker before the Log Writer (log entry 33). -/
def Obligations.RequestScanRunsToItsEnd : Prop :=
  ∀ (s : State) (u : Half) (q : Scan), s.run.state = .idle ∨ s.run.state = .running → s.scanner.scan = some q →
    let pointer := match q.last with
      | some i => slotAfter i 1
      | none => s.scanner.pointer
    (∀ i p, s.nextTaken = some (i, p) →
      s.takes i = true ∧ exec (.requestScan u) s = exec (.requestScan u) (s.takeSlot { logFirst := false, unstated := u } i p) ∧
      ∃ n, n < q.left ∧ i = slotAfter q.next n ∧ (∀ m, m < n → s.takes (slotAfter q.next m) = false) ∧
        p = { next := slotAfter i 1, left := q.left - (n + 1), last := some i }) ∧
    (s.nextTaken = none →
      (∀ m, m < q.left → s.takes (slotAfter q.next m) = false) ∧
      exec (.requestScan u) s =
        .next { s with
          scanner :=
            { s.scanner with
              again := false
              pointer := pointer
              scan := if s.scanner.again then some { next := pointer, left := 32, last := none } else none } }) ∧
    ∃ t, exec (.requestScan u) s = .next t ∧ t.run = s.run ∧ t.scanner.again = false ∧
      t.scanner.scan =
        if s.scanner.again then some { next := t.scanner.pointer, left := 32, last := none } else none

/-- SET_CLOCK: a value above 2,147,483,647 is refused with BAD_FIELD; otherwise the clock takes the value, and the result gives
the clock before and after and the walker state. A set that does not move the clock, or one in UNSTARTED outside RUNNING, does
nothing more; in FAULTED no pass begins; in WAITING, PAUSED and FINAL a movement begins a pass from the head (R109, R119,
R126). -/
def Obligations.SetClockMovesTheClock : Prop :=
  ∀ (s : State) (i : Slot) (p : Scan) (logFirst : Bool), s.ram.wf = true → s.TakesNext i p .setClock →
    let v := s.param i 0x04 4
    ∃ t, exec (.setClock i logFirst) s = .next t ∧
      (2147483647 < v → s.Answered t i 4 2 [] ∧ t = s.afterScanOnly t p) ∧
      (v ≤ 2147483647 →
        t.clock = v ∧
        slotHolds t.ram i 3 0 [⟨0x20, 4, s.clock⟩, ⟨0x24, 4, v⟩, ⟨0x28, 1, t.walker.state.code⟩] ∧
        t.run = s.run ∧ t.regs = s.regs ∧ t.poller = s.poller ∧ t.book = s.book ∧
        t.scanner = { s.scanner with scan := some p } ∧ (∀ st : Station, t.acc.accts[st].ring = s.acc.accts[st].ring) ∧
        (v = s.clock ∨ (s.run.state ≠ .running ∧ s.walker.state = .unstarted) →
          t = { s.afterScanOnly t p with clock := v }) ∧
        (s.walker.state = .faulted → t.walker = s.walker ∧ t.gain = s.gain ∧ t.acc = s.acc ∧ t.links = s.links) ∧
        (v ≠ s.clock → s.walker.state = .waiting ∨ s.walker.state = .paused ∨ s.walker.state = .final →
          s.PassTaken t (State.passFromHead { s with clock := v })))

/-- RESTART_SCHEDULE and RESUME_SCHEDULE in RUNNING: a restart leaves FAULTED and takes a pass from the head, a resume in PAUSED
takes one from the pause index, and the result gives the walker state, the active entry, the link count and the fault reason; a
resume outside PAUSED is refused with CONFLICT (R119, R125, R132, R134, R136, R137). -/
def Obligations.RestartAndResumeTakeAPass : Prop :=
  ∀ (s : State) (i : Slot) (p : Scan) (u : Half), s.ram.wf = true → s.run.state = .running →
    ceilingsBounded s.gain.stages →
    let takes := fun (c : Instr) (P : Pass) =>
      ∃ t, exec c s = .next t ∧ s.PassTaken t P ∧
        (let results : List Result :=
          [⟨0x20, 1, t.walker.state.code⟩, ⟨0x21, 1, (t.walker.active.map LimitEntry.index).getD 0⟩, ⟨0x22, 1, P.links⟩,
            ⟨0x23, 1, P.reasonCode⟩]
        slotHolds t.ram i 3 0 results ∧
          keepsOutside (fun a => inResults i results a ∨ inNoticeQueue a ∨ inFaultRecord a) s.ram t.ram) ∧
        (∀ k : Stage, P.reasonCode = 0 →
          t.gain.stages[k].fault = if s.walker.state = .faulted then none else s.gain.stages[k].fault) ∧
        s.restKept t p ∧ t.poller = s.poller ∧ t.book = s.book ∧
        ∀ st : Station, t.acc.accts[st].ring = s.acc.accts[st].ring
    (s.TakesNext i p .restartSchedule → takes (.restartSchedule i) s.passFromHead) ∧
    (s.TakesNext i p .resumeSchedule →
      (∀ q, s.walker.state = .paused → s.walker.pause = some q →
        takes (.resumeSchedule i u) (s.passFromPause q (u.setWidth 8))) ∧
      (s.walker.state ≠ .paused →
        ∃ t, exec (.resumeSchedule i u) s = .next t ∧ s.Answered t i 4 5 [] ∧ t = s.afterScanOnly t p))

/-- SET_WATCH: refused with NOT_RUNNING outside RUNNING, and with BAD_FIELD above 255; otherwise the index replaces the watch
index, the result gives the one before, and no pass begins and no pause ends; a later pass pauses at the new index, and an index
of 0 or above the entry count pauses nothing (R133). -/
def Obligations.SetWatchReplacesTheWatch : Prop :=
  ∀ (s : State) (i : Slot) (p : Scan), s.ram.wf = true → s.TakesNext i p .setWatch →
    let v := s.param i 0x04 2
    ∃ t, exec (.setWatch i) s = .next t ∧
      if s.run.state ≠ .running then s.Answered t i 4 4 [] ∧ t = s.afterScanOnly t p
      else if 255 < v then s.Answered t i 4 2 [] ∧ t = s.afterScanOnly t p
      else
        s.Answered t i 3 0 [⟨0x20, 1, s.walker.watch⟩] ∧
          t = { s.afterScanOnly t p with walker := { s.walker with watch := v } } ∧
          ∀ e q, (t.passFromSuccessor e).ending = .watch q → q.index = v ∧ v ≠ 0 ∧ v ≤ t.ram.readLe 0x3404 2

/-- SWAP_BOOK in RUNNING: a valid inactive area becomes the working book, the indicator flips, and the lost-station terms are
evaluated afresh with a clip of what falls; an invalid one is refused with PARITY or BAD_FIELD and the first failing record, and
copies nothing (R41, R45, R48, R143, R144, R145). -/
def Obligations.SwapBookExchangesTheBook : Prop :=
  ∀ (s : State) (i : Slot) (p : Scan), s.ram.wf = true → s.run.state = .running → s.TakesNext i p .swapBook →
    let other : Fin 2 := if s.book.area = 0 then 1 else 0
    (∀ b, validateArea s.ram other = .ok b →
      ∃ t, exec (.swapBook i) s = .next t ∧ t.book = { s.book with working := some b, area := other } ∧
        (∀ k : Stage,
          let g := { s.gain.stages[k] with lost := State.lostTerm { s with book := t.book } k }
          t.gain.stages[k] = { g with applied := min g.applied g.bound }) ∧
        (let results : List Result := [⟨0x20, 1, s.book.area.val⟩, ⟨0x21, 1, other.val⟩]
        slotHolds t.ram i 3 0 results ∧
          keepsOutside (fun a => inResults i results a ∨ inNoticeQueue a) s.ram t.ram) ∧
        s.restKept t p ∧ t.acc = s.acc ∧ t.poller = s.poller ∧ t.walker = s.walker) ∧
    (∀ f, validateArea s.ram other = .error f →
      ∃ t, exec (.swapBook i) s = .next t ∧ t = s.afterScanOnly t p ∧
        s.Answered t i 4 (if f.cause = .parity then 6 else 2)
          [⟨0x22, 1, other.val⟩, ⟨0x23, 1, f.set⟩, ⟨0x24, 1, f.station⟩, ⟨0x25, 1, f.cause.code⟩])

/-- SET_FLAGS: a mask or a value above 255 is refused with BAD_FIELD and the flags are unchanged; otherwise each flag whose mask
bit is 1 takes its value bit, the others are unchanged, the result gives the eight flags after the change, and no pass begins;
the conditions of Table 5-3 on a flag then read the new flags (R116). -/
def Obligations.SetFlagsFollowsTheMask : Prop :=
  ∀ (s : State) (i : Slot) (p : Scan), s.ram.wf = true → s.TakesNext i p .setFlags →
    let mask := s.param i 0x04 2
    let values := s.param i 0x06 2
    ∃ t, exec (.setFlags i) s = .next t ∧
      if 255 < mask ∨ 255 < values then s.Answered t i 4 2 [] ∧ t = s.afterScanOnly t p
      else
        s.Answered t i 3 0 [⟨0x20, 1, t.scanner.flags.toNat⟩] ∧
          (∀ n : Fin 8, t.scanner.flags.getLsbD n.val =
            if bit mask n.val then bit values n.val else s.scanner.flags.getLsbD n.val) ∧
          t = { s.afterScanOnly t p with
            scanner := { s.scanner with scan := some p, flags := t.scanner.flags } } ∧
          ∀ n : Fin 8, t.holds 1 n.val = t.scanner.flags.getLsbD n.val ∧ t.holds 2 n.val = !t.scanner.flags.getLsbD n.val

/-- HOLD_STAGE and RELEASE_STAGE: a stage above 3 is refused with BAD_FIELD; otherwise the hold, clamped to 4096, is put on the
stage or its hold is removed, the applied ceiling is clipped to the bound, a fall reaches a link in RUNNING as a hard drop, and
the result gives the stage, the hold before, the ceiling in force, and H and C after (R41, R43, R48, R93, R172, R173). What
stands at 0x22 with no hold before is the command's operand (log entry 11). -/
def Obligations.HoldAndReleaseBoundTheStage : Prop :=
  ∀ (s : State) (i : Slot) (p : Scan) (u : Half), s.ram.wf = true → ceilingsBounded s.gain.stages →
    let refuses := fun (c : Instr) => ∃ t, exec c s = .next t ∧ s.Answered t i 4 2 [] ∧ t = s.afterScanOnly t p
    let takes := fun (c : Instr) (k : Stage) (v : Option Nat) (inForce : List Result) =>
      let g := { s.gain.stages[k] with hold := v }
      let results : List Result :=
        [⟨0x20, 1, k.val⟩, ⟨0x21, 1, boolCode s.gain.stages[k].hold.isSome⟩,
          ⟨0x22, 2, s.gain.stages[k].hold.getD u.toNat⟩] ++ inForce ++
          [⟨0x26, 2, g.bound⟩, ⟨0x28, 2, min g.applied g.bound⟩]
      ∃ t, exec c s = .next t ∧ slotHolds t.ram i 3 0 results ∧
        t.gain = { s.gain with stages := upd s.gain.stages k { g with applied := min g.applied g.bound } } ∧
        (∀ j : Stage, j ≠ k ∨ g.applied ≤ g.bound → t.links.lines[j] = s.links.lines[j]) ∧
        (g.bound < g.applied → s.run.state = .running → s.links.lines[k].state ≠ .disabled →
          s.links.lines[k].hold = false → s.links.lines[k].Carries t.links.lines[k] g.bound) ∧
        keepsOutside (fun a => inResults i results a ∨ inNoticeQueue a) s.ram t.ram ∧
        s.restKept t p ∧ t.acc = s.acc ∧ t.poller = s.poller ∧ t.walker = s.walker ∧ t.book = s.book
    (s.TakesNext i p .holdStage →
      (3 < s.param i 0x04 1 → refuses (.holdStage i u)) ∧
      ∀ k : Stage, s.param i 0x04 1 = k.val →
        takes (.holdStage i u) k (some (min 4096 (s.param i 0x06 2))) [⟨0x24, 2, min 4096 (s.param i 0x06 2)⟩]) ∧
    (s.TakesNext i p .releaseStage →
      (3 < s.param i 0x04 1 → refuses (.releaseStage i u)) ∧
      ∀ k : Stage, s.param i 0x04 1 = k.val → takes (.releaseStage i u) k none [])

/-- MEASURE_AMBIENT in RUNNING: refused with BAD_FIELD for a duration outside 10 to 300 or a mask of 0 or above 65,535, and with
BUSY during a measurement; otherwise the slot is TAKEN and in flight, SETTLING begins with settle count 5 and empty counts, and
every stage is muted and clipped to 0, a hard drop at its link (R41, R46, R48, R93, R149, R170). -/
def Obligations.MeasureAmbientMutesTheStages : Prop :=
  ∀ (s : State) (i : Slot) (p : Scan), s.ram.wf = true → s.run.state = .running → s.TakesNext i p .measureAmbient →
    let dur := s.param i 0x04 2
    let mask := s.param i 0x08 4
    ∃ t, exec (.measureAmbient i) s = .next t ∧
      if dur < 10 ∨ 300 < dur ∨ mask = 0 ∨ 65535 < mask then s.Answered t i 4 2 [] ∧ t = s.afterScanOnly t p
      else if s.acc.ambient.phase ≠ .none then s.Answered t i 4 3 [] ∧ t = s.afterScanOnly t p
      else
        t.acc = { s.acc with ambient := t.acc.ambient } ∧ t.acc.ambient.phase = .settling ∧ t.acc.ambient.slot = i ∧
          t.acc.ambient.mask.toNat = mask ∧ t.acc.ambient.dur = dur ∧ t.acc.ambient.settle = 5 ∧
          (∀ st : Station, t.acc.ambient.got[st] = { count := 0, sumA := 0, sumC := 0 }) ∧
          (∀ k : Stage, t.gain.stages[k] = { s.gain.stages[k] with ambient := some 0, applied := 0 }) ∧
          (∀ k : Stage, 0 < s.gain.stages[k].applied → s.links.lines[k].state ≠ .disabled →
            s.links.lines[k].hold = false → s.links.lines[k].Carries t.links.lines[k] 0) ∧
          t.ram.readLe (slotAddr i) 1 = 2 ∧
          keepsOutside (fun a => a = slotAddr i ∨ inNoticeQueue a) s.ram t.ram ∧
          t.scanner =
            { s.scanner with
              scan := some p
              inFlight := { slot := i, copy := s.ram.read (slotAddr i) 64 } :: s.scanner.inFlight } ∧
          t.run = s.run ∧ t.clock = s.clock ∧ t.regs = s.regs ∧ t.poller = s.poller ∧ t.walker = s.walker ∧
          t.book = s.book ∧ t.log.writeIdx = s.log.writeIdx

/-- ABORT_AMBIENT: refused with CONFLICT when no measurement is in flight; otherwise the phase becomes NONE with the ambient
table unchanged, the ambient-mute term goes and no ceiling rises, the measurement's slot completes ABORTED with the rounds
counted when it still reads TAKEN, and the request's slot completes with the measurement's slot index (R46, R48, R153, R171). At each
driving closure a measurement counts a settling round, the last of which begins MEASURING with measure count D, or a measuring round,
at the last of which it completes: each masked station with a count c, 2c at least D, takes floor(sum / c) of each band as its ambient
power and the others keep theirs, the ambient-mute term goes, the slot completes COMPLETED with the updated mask, and the phase becomes
NONE (R150, R152). -/
def Obligations.AbortAmbientEndsTheMeasurement : Prop :=
  (∀ (s t : State), s.ram.wf = true → ceilingsBounded s.gain.stages → s.Closes t →
    let m := s.acc.ambient
    let updates := fun (st : Station) => m.mask.getLsbD st.val = true ∧ m.dur ≤ 2 * m.got[st].count
    (m.phase = .none → t.acc.ambient = m ∧ t.book = s.book) ∧
    (m.phase = .settling → 1 < m.settle → t.acc.ambient = { m with settle := m.settle - 1 } ∧ t.book = s.book) ∧
    (m.phase = .settling → m.settle = 1 →
      t.acc.ambient = { m with settle := 0, phase := .measuring, measure := m.dur } ∧ t.book = s.book) ∧
    (m.phase = .measuring → 1 < m.measure → t.acc.ambient = { m with measure := m.measure - 1 } ∧ t.book = s.book) ∧
    (m.phase = .measuring → m.measure = 1 →
      t.acc.ambient.phase = .none ∧ (∀ k : Stage, t.gain.stages[k].ambient = none) ∧
        t.book.working = s.book.working ∧ t.book.area = s.book.area ∧
        (∀ st : Station,
          (updates st → t.book.ambA[st] = m.got[st].sumA / m.got[st].count ∧
            t.book.ambC[st] = m.got[st].sumC / m.got[st].count) ∧
          (¬ updates st → t.book.ambA[st] = s.book.ambA[st] ∧ t.book.ambC[st] = s.book.ambC[st])) ∧
        (s.scanner.hasInFlight m.slot = true →
          s.ram.badAt (slotAddr m.slot) = false → s.ram.readLe (slotAddr m.slot) 1 = 2 →
          ∃ mask, slotHolds t.ram m.slot 3 0 [⟨0x20, 1, 1⟩, ⟨0x21, 1, 5 - m.settle⟩, ⟨0x22, 2, m.dur⟩, ⟨0x24, 2, mask⟩] ∧
            mask < 65536 ∧ ∀ st : Station, bit mask st.val = true ↔ updates st) ∧
        t.scanner =
          { s.scanner with inFlight := s.scanner.inFlight.filter fun f => decide (f.slot ≠ m.slot) })) ∧
  ∀ (s : State) (i : Slot) (p : Scan), s.ram.wf = true → ceilingsBounded s.gain.stages → s.TakesNext i p .abortAmbient →
    let m := s.acc.ambient
    (m.phase = .none →
      ∃ t, exec (.abortAmbient i) s = .next t ∧ s.Answered t i 4 5 [] ∧ t = s.afterScanOnly t p) ∧
    (m.phase ≠ .none → s.scanner.hasInFlight m.slot = true →
      let done : List Result := [⟨0x20, 1, m.slot.val⟩]
      let aborted : List Result :=
        [⟨0x20, 1, 2⟩, ⟨0x21, 1, 5 - m.settle⟩, ⟨0x22, 2, if m.phase = .measuring then m.dur - m.measure else 0⟩,
          ⟨0x24, 2, 0⟩]
      let taken := s.ram.badAt (slotAddr m.slot) = false ∧ s.ram.readLe (slotAddr m.slot) 1 = 2
      ∃ t, exec (.abortAmbient i) s = .next t ∧ t.acc = { s.acc with ambient := { m with phase := .none } } ∧
        (∀ k : Stage, t.gain.stages[k] = { s.gain.stages[k] with ambient := none }) ∧ t.links = s.links ∧
        slotHolds t.ram i 3 0 done ∧ (taken → slotHolds t.ram m.slot 3 0 aborted) ∧
        keepsOutside
          (fun a => inResults i done a ∨ (taken ∧ inResults m.slot aborted a) ∨ inNoticeQueue a) s.ram t.ram ∧
        t.scanner =
          { s.scanner with
            scan := some p
            inFlight := s.scanner.inFlight.filter fun f => decide (f.slot ≠ m.slot) } ∧
        t.run = s.run ∧ t.clock = s.clock ∧ t.regs = s.regs ∧ t.poller = s.poller ∧ t.walker = s.walker ∧
        t.book = s.book ∧ t.log = s.log)

/-- SET_AMBIENT: refused with BAD_FIELD for a station above 15, and with BUSY for a station in the mask of a measurement in
flight; otherwise the two values replace the station's entries and the result gives those before (R147). -/
def Obligations.SetAmbientReplacesTheEntries : Prop :=
  ∀ (s : State) (i : Slot) (p : Scan), s.ram.wf = true → s.TakesNext i p .setAmbient →
    let answers := fun (t : State) (state code : Nat) (results : List Result) =>
      exec (.setAmbient i) s = .next t ∧ s.Answered t i state code results
    (15 < s.param i 0x04 1 → ∃ t, answers t 4 2 [] ∧ t = s.afterScanOnly t p) ∧
    ∀ st : Station, s.param i 0x04 1 = st.val →
      if s.acc.ambient.phase ≠ .none ∧ s.acc.ambient.mask.getLsbD st.val = true then
        ∃ t, answers t 4 3 [] ∧ t = s.afterScanOnly t p
      else
        ∃ t, answers t 3 0 [⟨0x20, 1, st.val⟩, ⟨0x24, 4, s.book.ambA[st]⟩, ⟨0x28, 4, s.book.ambC[st]⟩] ∧
          t = { s.afterScanOnly t p with
            book := { s.book with
              ambA := upd s.book.ambA st (s.param i 0x08 4)
              ambC := upd s.book.ambC st (s.param i 0x0C 4) } }

/-- LOOP_TEST in RUNNING: refused with BAD_FIELD for neither loop, with BUSY during a test, and with CONFLICT when the other loop
is not GOOD; otherwise the slot is TAKEN and in flight, the loop becomes TESTING with its counts held, and it is out of LOOP_DOWN
(R77, R80, R170). -/
def Obligations.LoopTestTakesTheLoop : Prop :=
  ∀ (s : State) (i : Slot) (p : Scan), s.ram.wf = true → s.run.state = .running → s.TakesNext i p .loopTest →
    let refuses := fun (code : Nat) =>
      ∃ t, exec (.loopTest i) s = .next t ∧ s.Answered t i 4 code [] ∧ t = s.afterScanOnly t p
    let number := fun (l : Loop) => if l = .a then 0 else 1
    (1 < s.param i 0x04 1 → refuses 2) ∧
    ∀ l : Loop, s.param i 0x04 1 = number l →
      if s.poller.test.isSome = true then refuses 3
      else if (s.loopLine (otherLoop l)).state ≠ .good then refuses 5
      else
        ∃ t, exec (.loopTest i) s = .next t ∧
          t.poller =
            { s.poller with
              loops := upd s.poller.loops (loopIx l) { s.loopLine l with state := .testing }
              test := some { loop := l, slot := i, rounds := 0, frame := 0, inFlight := false, intact := 0 } } ∧
          t.notices.conds[CondClass.ix .loopDown][loopSubject l] = false ∧ t.ram.readLe (slotAddr i) 1 = 2 ∧
          keepsOutside (fun a => a = slotAddr i ∨ inNextNotice s.notices a) s.ram t.ram ∧
          t = { s with
            ram := t.ram
            poller := t.poller
            notices := t.notices
            scanner :=
              { s.scanner with
                scan := some p
                inFlight := { slot := i, copy := s.ram.read (slotAddr i) 64 } :: s.scanner.inFlight } }

/-- SET_STATION: the checks in their order, and what a change does: the entry in the copy and in shared RAM, the station state,
the accounts and the open round. A disable of the station whose exchange is in progress abandons it, and the next listed station's
begins; when none is listed the round closes by last outcome (R13, R24, R31, R38, R40, R50, R61, R62, R69, R73, R174). That the
bytes 0x00 to 0x02 of the entry are written as 0 or 1, the address, and 0 or 1 is log entry 34; that with no copy held the parity of
the whole table is judged before the conflict, for an entry left disabled too, is log entry 47. -/
def Obligations.SetStationChangesTheEntry : Prop :=
  ∀ (s : State) (i : Slot) (p : Scan), s.ram.wf = true → s.TakesNext i p .setStation →
    let mask := s.param i 0x05 1
    let enable := s.param i 0x06 1
    let addr := s.param i 0x07 1
    let loop := s.param i 0x08 1
    let refuses := fun (code : Nat) =>
      ∃ t, exec (.setStation i) s = .next t ∧ s.Answered t i 4 code [] ∧ t = s.afterScanOnly t p
    let bad := 15 < s.param i 0x04 1 ∨ 7 < mask ∨ (bit mask 0 = true ∧ 1 < enable) ∨
      (bit mask 1 = true ∧ (addr = 0 ∨ 62 < addr)) ∨ (bit mask 2 = true ∧ 1 < loop)
    (bad → refuses 2) ∧
    ∀ st : Station, s.param i 0x04 1 = st.val → ¬ bad →
      let before := s.entries[st]
      let after : StationEntry :=
        { enabled := if bit mask 0 then decide (enable = 1) else before.enabled
          addr := if bit mask 1 then addr else before.addr
          loop := if bit mask 2 then (if loop = 1 then .b else .a) else before.loop }
      let badAfter := after.enabled = true ∧ (after.addr = 0 ∨ 62 < after.addr)
      let parity := s.poller.copy = none ∧
        ∃ (o : Station) (a : Nat), 0x0100 + 16 * o.val ≤ a ∧ a < 0x0100 + 16 * o.val + 3 ∧ s.ram.badAt a = true
      let clash := after.enabled = true ∧ ∃ o : Station, o ≠ st ∧ s.entries[o].enabled = true ∧ s.entries[o].addr = after.addr
      let results := fun (e : StationEntry) (v : StationState) (primed : Nat) =>
        ([⟨0x20, 1, boolCode before.enabled⟩, ⟨0x21, 1, before.addr⟩, ⟨0x22, 1, loopCode before.loop⟩,
          ⟨0x24, 1, boolCode e.enabled⟩, ⟨0x25, 1, e.addr⟩, ⟨0x26, 1, loopCode e.loop⟩, ⟨0x28, 1, v.code⟩,
          ⟨0x29, 1, primed⟩] : List Result)
      (mask = 0 →
        ∃ t, exec (.setStation i) s = .next t ∧ s.Answered t i 3 0 (results before s.poller.states[st] 0) ∧
          t = s.afterScanOnly t p) ∧
      (mask ≠ 0 → badAfter → refuses 2) ∧ (mask ≠ 0 → ¬ badAfter → parity → refuses 6) ∧
      (mask ≠ 0 → ¬ badAfter → ¬ parity → clash → refuses 5) ∧
      (mask ≠ 0 → ¬ badAfter → ¬ parity → ¬ clash →
        let primes := before.enabled = false ∧ after.enabled = true ∧ s.acc.accts[st].n = 0 ∧ s.book.working.isSome = true
        ∃ t, exec (.setStation i) s = .next t ∧
          t.poller.copy = s.poller.copy.map (fun copy => upd copy st after) ∧
          t.ram.readLe (0x0100 + 16 * st.val) 1 = boolCode after.enabled ∧
          t.ram.readLe (0x0101 + 16 * st.val) 1 = after.addr % 256 ∧
          t.ram.readLe (0x0102 + 16 * st.val) 1 = loopCode after.loop ∧
          (∃ primed, slotHolds t.ram i 3 0 (results after t.poller.states[st] primed) ∧ (primed = 1 ↔ primes)) ∧
          t.run = s.run ∧ t.clock = s.clock ∧ t.regs = s.regs ∧ t.walker = s.walker ∧ t.book.working = s.book.working ∧
          t.scanner.scan = some p ∧ t.scanner.flags = s.scanner.flags ∧
          (before.enabled = after.enabled →
            t = { s.afterScanOnly t p with poller := { s.poller with copy := t.poller.copy } }) ∧
          (before.enabled = false → after.enabled = true →
            t.poller.states[st] = .unknown ∧ t.poller.todo = s.poller.todo ∧ t.poller.exch = s.poller.exch ∧
              (primes → t.acc.accts[st].n = s.acc.w) ∧ (¬ primes → t.acc = s.acc)) ∧
          (before.enabled = true → after.enabled = false →
            t.poller.states[st] = .disabled ∧
              ((∀ e, s.poller.exch = some e → e.station ≠ st) →
                t.poller.exch = s.poller.exch ∧
                  (∀ o : Station, o ≠ st → t.acc.accts[o] = s.acc.accts[o] ∧ t.poller.states[o] = s.poller.states[o]) ∧
                  t.acc.accts[st].ring = s.acc.accts[st].ring ∧ t.acc.accts[st].n = s.acc.accts[st].n ∧
                  t.acc.accts[st].missing = 0 ∧ t.acc.accts[st].a.overdrawn = false ∧ t.acc.accts[st].c.overdrawn = false ∧
                  t.acc.accts[st].unctl = false ∧
                  (s.poller.roundOpen = true → s.poller.exch.isSome = true → st ∉ t.poller.todo)) ∧
              (∀ e nx rest copy, s.poller.roundOpen = true → s.poller.exch = some e → e.station = st →
                s.poller.todo = nx :: rest → t.poller.copy = some copy →
                t.BeginsExchange copy nx rest ∧ t.poller.roundOpen = true ∧
                  ∀ l : Loop, (t.loopLine l).fails = (s.loopLine l).fails ∧ (t.loopLine l).state = (s.loopLine l).state) ∧
              (∀ e, s.poller.roundOpen = true → s.poller.exch = some e → e.station = st → s.poller.todo = [] →
                t.poller.roundOpen = false ∧ t.poller.exch = none ∧ t.poller.todo = [] ∧
                  (∀ o : Station, t.acc.advanced[o] = true ∧
                    t.acc.accts[o].ring =
                      if s.acc.advanced[o] then s.acc.accts[o].ring
                      else ({ mark := .absent, eA := 0, eC := 0 } :: s.acc.accts[o].ring).take 900) ∧
                  (s.gain.cfg.isSome = true → ∀ k : Stage, t.gain.stages[k].target = t.softTarget k) ∧
                  ∀ l : Loop, (t.loopLine l).fails = (s.loopLine l).fails ∧ (t.loopLine l).state = (s.loopLine l).state)))

/-- READ_WINDOW: a station above 15 is refused with BAD_FIELD; otherwise the slot holds the station's account record and state,
and nothing else changes (R27, R175). -/
def Obligations.ReadWindowReportsTheAccount : Prop :=
  ∀ (s : State) (i : Slot) (p : Scan), s.ram.wf = true → s.TakesNext i p .readWindow →
    (15 < s.param i 0x04 1 →
      ∃ t, exec (.readWindow i) s = .next t ∧ s.Answered t i 4 2 [] ∧ t = s.afterScanOnly t p) ∧
    ∀ st : Station, s.param i 0x04 1 = st.val →
      let r := s.acc.accts[st]
      ∃ t, exec (.readWindow i) s = .next t ∧ t = s.afterScanOnly t p ∧
        s.Answered t i 3 0
          [⟨0x04, 1, st.val⟩, ⟨0x05, 1, s.poller.states[st].code⟩, ⟨0x06, 2, r.qs⟩, ⟨0x08, 8, r.a.s⟩, ⟨0x10, 8, r.a.allow⟩,
            ⟨0x18, 8, r.c.s⟩, ⟨0x20, 8, r.c.allow⟩, ⟨0x28, 4, r.a.pLim⟩, ⟨0x2C, 4, r.a.pAmb⟩, ⟨0x30, 4, r.c.pLim⟩,
            ⟨0x34, 4, r.c.pAmb⟩, ⟨0x38, 2, r.n⟩, ⟨0x3A, 2, r.a.q⟩, ⟨0x3C, 2, r.c.q⟩, ⟨0x3E, 2, r.gs⟩]

/-! ### Polling loops -/

/-- POLL_SENT and CEILING_SENT: the last byte sent starts the timer of the attempt whose frame it was (R65, R85, R89). An attempt
that waited for a line takes, at that moment, the loop that the loop states then give, and begins there or waits for the line of that
loop; a first attempt takes the preferred loop while it is usable, else the other while that is, else the preferred loop when it is
DOWN, else the other; a retry takes the loop other than its last one with alternate-on-retry set and that loop usable, else as a
first attempt (R64). A probe that waited is sent while its loop is DOWN, and is dropped otherwise. Model's choices: with no frame being
transmitted nothing happens (log entry 2); an attempt on a line that carries a frame waits for it (log entry 15); when a waiting attempt
and a waiting probe choose (log entry 46). -/
def Obligations.SentFrameStartsTheTimer : Prop :=
  (∀ (s : State) (l : Loop) (k : Stage),
    let line := s.loopLine l
    let poll := fun (addr : Nat) => some (sealFrame [0x5AC3, addr % 256 + 256 * (s.poller.roundNo % 256)])
    let free := upd s.poller.loops (loopIx l) { line with tx := none }
    let link := s.links.lines[k]
    let frame := fun (c : Command) => some (sealFrame [0x3CA5, k.val + 256 * c.seq.toNat, c.ceiling])
    (line.tx = none → exec (.pollSent l) s = .next s) ∧
    (line.tx.isSome = true →
      (∀ e, s.poller.exch = some e → e.loop = l →
        (e.phase = .sending →
          exec (.pollSent l) s =
            .next { s with poller := { s.poller with loops := free, exch := some { e with phase := .waiting } } }) ∧
        (e.phase = .queued →
          let m := match e.earlier with
            | [] => s.firstLoop e.pref
            | prev :: _ => s.retryLoop e.pref prev
          (m = l ∨ (s.loopLine m).tx = none →
            exec (.pollSent l) s =
              .next { s with
                poller := { s.poller with
                  loops := upd free (loopIx m) { s.loopLine m with tx := poll e.addr }
                  exch := some { e with loop := m, phase := .sending } } }) ∧
          (m ≠ l → (s.loopLine m).tx.isSome = true →
            exec (.pollSent l) s =
              .next { s with poller := { s.poller with loops := free, exch := some { e with loop := m } } }))) ∧
      (∀ b, s.poller.exch = none → s.poller.probe = some b → b.loop = l →
        (b.phase = .sending →
          exec (.pollSent l) s =
            .next { s with poller := { s.poller with loops := free, probe := some { b with phase := .waiting } } }) ∧
        (b.phase = .queued →
          (line.state = .down →
            exec (.pollSent l) s =
              .next { s with
                poller := { s.poller with
                  loops := upd s.poller.loops (loopIx l) { line with tx := poll b.addr }
                  probe := some { b with phase := .sending } } }) ∧
          (line.state ≠ .down → s.poller.probeDue = [] →
            exec (.pollSent l) s = .next { s with poller := { s.poller with loops := free, probe := none } })))) ∧
    (link.tx = none → exec (.ceilingSent k) s = .next s) ∧
    (link.tx.isSome = true →
      (link.out = none → exec (.ceilingSent k) s = .next (s.setLink k { link with tx := none })) ∧
      ∀ c, link.out = some c →
        (c.phase = .sending →
          exec (.ceilingSent k) s =
            .next (s.setLink k { link with tx := none, out := some { c with phase := .waiting } })) ∧
        (c.phase = .queued →
          exec (.ceilingSent k) s =
            .next (s.setLink k { link with tx := frame c, out := some { c with phase := .sending } })))) ∧
  ∀ (s : State) (pref prev : Loop),
    let usable := fun (l : Loop) => (s.loopLine l).state = .good ∨ (s.loopLine l).state = .suspect
    let other := otherLoop pref
    let alternate := (∃ t, s.poller.timing = some t ∧ t.alternate = true) ∧ usable (otherLoop prev)
    (usable pref → s.firstLoop pref = pref) ∧ (¬ usable pref → usable other → s.firstLoop pref = other) ∧
      (¬ usable pref → ¬ usable other → (s.loopLine pref).state = .down → s.firstLoop pref = pref) ∧
      (¬ usable pref → ¬ usable other → (s.loopLine pref).state ≠ .down → s.firstLoop pref = other) ∧
      (alternate → s.retryLoop pref prev = otherLoop prev) ∧ (¬ alternate → s.retryLoop pref prev = s.firstLoop pref)

/-- REPLY_TIMEOUT, LOOP_FRAME_SILENCE, and LOOP_FRAME_RECEIVED of an invalid or a stray reply, at the attempt or the probe that waits
on a loop, before or after the expiry of its timer: an expiry waits for a frame being received; a stray reply before expiry is
discarded; a timeout, an incomplete frame, an invalid reply, and a stray reply after expiry each fail the attempt, which adds 1 to
the loop's count, and is followed by a retry, or, when the last permitted attempt fails, by the outcome missing, with the station STALE
at count 4 and LOST at 30 and the lost-station terms then evaluated; then the next listed station's exchange begins, or the round
closes by last outcome. A failed probe adds 1 to the count and leaves the loop DOWN with probe count 10, and the probe due next begins
(R12, R13, R45, R58, R59, R64 to R66, R68, R69, R72, R74, R76, R78). Model's choices: a stray reply is known by the addresses as polled,
abandoned exchanges included (log entry 13); an attempt that ends on a loop under test changes neither its count nor its state (log
entry 16). -/
def Obligations.FailedAttemptIsRetried : Prop :=
  ∀ (s : State) (l : Loop), s.poller.loopedBack l = none → (s.loopLine l).tx = none →
    let line := s.loopLine l
    let fails := min 255 (line.fails + 1)
    let counted := fun (t : State) =>
      if line.state = .testing then (t.loopLine l).fails = line.fails ∧ (t.loopLine l).state = .testing
      else
        (t.loopLine l).fails = fails ∧
          (t.loopLine l).state =
            if fails = 3 ∧ line.state = .good then .suspect else if fails = 8 ∧ line.state = .suspect then .down else line.state
    (∀ e, s.poller.exch = some e → e.loop = l → e.phase = .waiting ∨ e.phase = .expired →
      (e.phase = .waiting →
        exec (.replyTimeout l true) s =
          .next { s with poller := { s.poller with exch := some { e with phase := .expired } } } ∧
        ∀ bytes, s.poller.strayFor e.addr bytes → exec (.loopFrameReceived l bytes) s = .next s) ∧
      ∀ cmd, s.poller.failsWait l e.addr e.phase cmd →
        (e.made < s.timing.retries + 1 →
          ∃ t e2, exec cmd s = .next t ∧ counted t ∧ t.poller.exch = some e2 ∧ e2.station = e.station ∧
            e2.addr = e.addr ∧ e2.pref = e.pref ∧ e2.made = e.made + 1 ∧ e2.earlier = l :: e.earlier ∧
            e2.loop = t.retryLoop e.pref l ∧ t.poller.todo = s.poller.todo ∧ t.poller.states = s.poller.states ∧
            t.acc = s.acc ∧ t.gain = s.gain ∧ t.links = s.links ∧ t.walker = s.walker ∧ t.clock = s.clock) ∧
        (¬ e.made < s.timing.retries + 1 → s.run.state = .running → s.acc.advanced[e.station] = false →
          let a := s.acc.accts[e.station]
          let missing := min 65535 (a.missing + 1)
          let last := sampleAt a.ring 0
          let held := missing ≤ 3 ∧ (last.mark = .present ∨ last.mark = .held ∨ last.mark = .primed)
          let stored := fun (u : State) =>
            counted u ∧ u.poller.settled = (e.station, e.addr) :: s.poller.settled ∧ u.acc.advanced[e.station] = true ∧
              u.acc.accts[e.station].missing = missing ∧
              (∃ x, u.acc.accts[e.station].ring = (x :: a.ring).take 900 ∧ (held → x = { last with mark := .held }) ∧
                (¬ held → x = { mark := .absent, eA := 0, eC := 0 })) ∧
              s.BecomesState u e.station (stateMissed missing s.poller.states[e.station]) ∧
              (∀ o : Station, o ≠ e.station →
                u.acc.accts[o] = s.acc.accts[o] ∧ u.poller.states[o] = s.poller.states[o]) ∧
              u.acc.ambient = s.acc.ambient ∧ u.poller.roundOpen = s.poller.roundOpen ∧ u.poller.copy = s.poller.copy ∧
              u.run = s.run ∧ u.clock = s.clock ∧ u.walker = s.walker ∧ u.book = s.book ∧ u.scanner = s.scanner
          (∀ nx rest copy, s.poller.todo = nx :: rest → s.poller.copy = some copy →
            ∃ t, exec cmd s = .next t ∧ stored t ∧ t.BeginsExchange copy nx rest) ∧
          (s.poller.todo = [] →
            ∃ u, exec cmd s = .next u.closeByLastOutcome ∧ stored u ∧ u.poller.exch = none ∧ u.poller.todo = []))) ∧
    ∀ b, s.poller.exch = none → s.poller.probe = some b → b.loop = l → b.phase = .waiting ∨ b.phase = .expired →
      (b.phase = .waiting →
        exec (.replyTimeout l true) s =
          .next { s with poller := { s.poller with probe := some { b with phase := .expired } } } ∧
        ∀ bytes, s.poller.strayFor b.addr bytes → exec (.loopFrameReceived l bytes) s = .next s) ∧
      ∀ cmd, s.poller.failsWait l b.addr b.phase cmd → line.state = .down →
        ∃ t, exec cmd s = .next t ∧ (t.loopLine l).fails = fails ∧ (t.loopLine l).state = .down ∧ (t.loopLine l).probe = 10 ∧
          s.ProbeGoesOn t ∧ t.poller.states = s.poller.states ∧ t.acc = s.acc ∧ t.gain = s.gain ∧ t.links = s.links ∧
          t.walker = s.walker ∧ t.clock = s.clock

/-- LOOP_FRAME_RECEIVED of a valid reply, on the loop where the attempt waits or on one to which the exchange still listens: the
loop's count is 0 and the loop GOOD; the record is stored by its class, with the computation of stages 1 to 5 for a counted sample and
its collection by an ambient measurement; a record without SFAULT makes the station LIVE, and one with it counts as missing; and the
next listed station's exchange begins, or the round closes by last outcome. A valid reply to a probe makes its loop GOOD with count 0
and probe count 10, its record is discarded, and the probe due next begins (R9 to R13, R28, R45, R57 to R59, R65, R67 to R69,
R72, R74, R76, R78, R151). -/
def Obligations.ValidReplyEndsTheExchange : Prop :=
  ∀ (s : State) (l : Loop) (flags eA eC : Nat), s.poller.loopedBack l = none → (s.loopLine l).tx = none → flags < 65536 →
    eA < 4294967296 → eC < 4294967296 →
    let good := fun (t : State) =>
      (s.loopLine l).state ≠ .testing → (t.loopLine l).fails = 0 ∧ (t.loopLine l).state = .good
    (∀ e : Exchange, s.poller.exch = some e →
      (e.loop = l ∧ (e.phase = .waiting ∨ e.phase = .expired)) ∨ (e.loop ≠ l ∧ l ∈ e.earlier) →
      s.run.state = .running → s.acc.advanced[e.station] = false → e.addr < 256 →
      let a := s.acc.accts[e.station]
      let bytes := secondFrame e.addr s.poller.roundNo flags eA eC
      let missing := min 65535 (a.missing + 1)
      let stored := fun (u : State) =>
        good u ∧ u.poller.settled = (e.station, e.addr) :: s.poller.settled ∧ u.acc.advanced[e.station] = true ∧
          (∃ x, u.acc.accts[e.station].ring = (x :: a.ring).take 900 ∧
            (if bit flags 3 then
              u.acc.accts[e.station].missing = missing ∧
                s.BecomesState u e.station (stateMissed missing s.poller.states[e.station])
            else
              u.acc.accts[e.station].missing = 0 ∧ s.BecomesState u e.station .live ∧
                x = if bit flags 0 ∨ bit flags 1 then { mark := .excluded, eA := 0, eC := 0 }
                  else if bit flags 2 then { mark := .present, eA := 4294967295, eC := 4294967295 }
                  else { mark := .present, eA := eA, eC := eC }) ∧
            (∀ r, s.bookRecord e.station = some r → x.mark = .present →
              let b := a.advance s.acc.w x
              let v := u.acc.accts[e.station]
              v.a = b.a.compute b.n x.eA r.pLimA s.book.ambA[e.station] s.acc.h s.acc.k ∧
                v.c = b.c.compute b.n x.eC r.pLimC s.book.ambC[e.station] s.acc.h s.acc.k ∧
                v.qs = min v.a.q v.c.q ∧ v.gs = stageDemand v.qs (s.reducibleShare e.station)) ∧
            u.acc.ambient =
              if s.acc.ambient.phase = .measuring ∧ s.acc.ambient.mask.getLsbD e.station.val = true ∧ x.mark = .present then
                let g := s.acc.ambient.got[e.station]
                { s.acc.ambient with
                  got := upd s.acc.ambient.got e.station
                    { count := g.count + 1, sumA := g.sumA + x.eA, sumC := g.sumC + x.eC } }
              else s.acc.ambient) ∧
          (∀ o : Station, o ≠ e.station →
            u.acc.accts[o] = s.acc.accts[o] ∧ u.poller.states[o] = s.poller.states[o]) ∧
          u.poller.roundOpen = s.poller.roundOpen ∧ u.poller.copy = s.poller.copy ∧ u.run = s.run ∧ u.clock = s.clock ∧
          u.walker = s.walker ∧ u.book = s.book ∧ u.scanner = s.scanner
      bytes.length = 16 ∧
        (∀ nx rest copy, s.poller.todo = nx :: rest → s.poller.copy = some copy →
          ∃ t, exec (.loopFrameReceived l bytes) s = .next t ∧ stored t ∧ t.BeginsExchange copy nx rest) ∧
        (s.poller.todo = [] →
          ∃ u, exec (.loopFrameReceived l bytes) s = .next u.closeByLastOutcome ∧ stored u ∧ u.poller.exch = none ∧
            u.poller.todo = [])) ∧
    ∀ b : Probe, s.poller.exch = none → s.poller.probe = some b → b.loop = l → b.phase = .waiting ∨ b.phase = .expired →
      b.addr < 256 →
      ∃ t, exec (.loopFrameReceived l (secondFrame b.addr s.poller.roundNo flags eA eC)) s = .next t ∧ good t ∧
        ((s.loopLine l).state ≠ .testing → (t.loopLine l).probe = 10) ∧ s.ProbeGoesOn t ∧
        t.poller.states = s.poller.states ∧ t.acc = s.acc ∧ t.gain = s.gain ∧ t.links = s.links ∧ t.walker = s.walker ∧
        t.clock = s.clock

/-- ROUND_DEADLINE: with a round open in RUNNING the exchange in progress is abandoned, its station and every listed station is
missing, with its state STALE at count 4 and LOST at 30, every station advances once, the closure drives the soft targets, the probe
counts of DOWN loops go down, no loop's failure count changes, and ROUND_OVERRUN tells the first station made missing and their
number; otherwise nothing happens (R4, R13, R40, R50, R69, R70, R72, R78). That ROUND_OVERRUN follows the closure is log entry 31. -/
def Obligations.DeadlineClosesTheRound : Prop :=
  ∀ s : State,
    (s.run.state ≠ .running ∨ s.poller.roundOpen = false → exec .roundDeadline s = .next s) ∧
    (s.run.state = .running → s.poller.roundOpen = true →
      let missed := match s.poller.exch with
        | some e => e.station :: s.poller.todo
        | none => s.poller.todo
      ∃ t, exec .roundDeadline s = .next t ∧ t.poller.roundOpen = false ∧ t.poller.exch = none ∧ t.poller.todo = [] ∧
        (∀ st : Station, t.acc.advanced[st] = true ∧
          (s.acc.advanced[st] = true → t.acc.accts[st].ring = s.acc.accts[st].ring) ∧
          (s.acc.advanced[st] = false → ∃ x, t.acc.accts[st].ring = (x :: s.acc.accts[st].ring).take 900) ∧
          t.acc.accts[st].missing =
            if s.acc.advanced[st] = false ∧ st ∈ missed then min 65535 (s.acc.accts[st].missing + 1)
            else s.acc.accts[st].missing) ∧
        (∀ st : Station, t.poller.states[st] =
          if s.acc.advanced[st] = false ∧ st ∈ missed then
            stateMissed (min 65535 (s.acc.accts[st].missing + 1)) s.poller.states[st]
          else s.poller.states[st]) ∧
        (∀ l : Loop, (t.loopLine l).fails = (s.loopLine l).fails ∧ (t.loopLine l).state = (s.loopLine l).state ∧
          (t.loopLine l).probe = if (s.loopLine l).state = .down then (s.loopLine l).probe - 1 else (s.loopLine l).probe) ∧
        (s.gain.cfg.isSome = true → ∀ k : Stage, t.gain.stages[k].target = t.softTarget k) ∧
        (∀ first more, missed = first :: more →
          ∃ u v : State, u.Closes v ∧ u.poller.states = t.poller.states ∧ u.gain.cfg = s.gain.cfg ∧
            t = v.post 20 first.val ((more.length + 1) % 256)) ∧
        t.run = s.run ∧ t.clock = s.clock ∧ t.regs = s.regs ∧ t.walker = s.walker ∧ t.book.working = s.book.working ∧
        t.poller.copy = s.poller.copy ∧ t.poller.probe = s.poller.probe)

/-- TEST_FRAME_TIMEOUT, and a frame that ends on the loop under test: the TEST frame in flight ends, intact only when the bytes
equal those sent; the next is sent while the rounds begun allow it; the end of frame 16 completes the slot and leaves the loop
GOOD with count 0 when all 16 were intact, and DOWN with count 8 and probe count 10 when not. With no test in flight a
TEST_FRAME_TIMEOUT does nothing, which is the model's choice (log entry 2) (R81, R82, R171). -/
def Obligations.TestFramesJudgeTheLoop : Prop :=
  ∀ s : State,
    (s.poller.test = none → exec .testFrameTimeout s = .next s) ∧
    ∀ q : LoopTest, s.poller.test = some q → q.inFlight = true → 0 < q.rounds →
      let ends := fun (c : Instr) (one : Nat) =>
        let n := q.intact + one
        (q.frame ≠ 16 →
          exec c s =
            .next { s with
              poller := { s.poller with
                test := some (
                  if q.frame < 8 * q.rounds then { q with frame := q.frame + 1, inFlight := true, intact := n }
                  else { q with inFlight := false, intact := n }) } }) ∧
        (q.frame = 16 →
          let results : List Result := [⟨0x20, 1, loopCode q.loop⟩, ⟨0x21, 1, if n = 16 then 1 else 2⟩, ⟨0x22, 1, n⟩]
          let taken := s.ram.badAt (slotAddr q.slot) = false ∧ s.ram.readLe (slotAddr q.slot) 1 = 2
          ∃ t, exec c s = .next t ∧
            t.poller =
              { s.poller with
                test := none
                loops :=
                  upd s.poller.loops (loopIx q.loop)
                    (if n = 16 then { s.loopLine q.loop with state := .good, fails := 0 }
                    else { s.loopLine q.loop with state := .down, fails := 8, probe := 10 }) } ∧
            t.scanner =
              { s.scanner with inFlight := s.scanner.inFlight.filter fun f => decide (f.slot ≠ q.slot) } ∧
            (s.scanner.hasInFlight q.slot = true → taken → slotHolds t.ram q.slot 3 0 results) ∧
            t = { s with ram := t.ram, notices := t.notices, poller := t.poller, scanner := t.scanner })
      s.ram.wf = true →
        ends .testFrameTimeout 0 ∧ ends (.loopFrameSilence q.loop) 0 ∧
          ∀ bytes, ends (.loopFrameReceived q.loop bytes)
            (if bytes = sealFrame [0x96E1, q.frame % 256, 0x55AA, 0xAA55] then 1 else 0)

/-! ### Stage links -/

/-- LINK_FRAME_RECEIVED of a valid ACK: one with the sequence number of the waiting command, before or after the expiry of its
attempt's timer, ends it, gives the limiter state, makes the link UP with failed-second count 0, re-evaluates controllability and
STAGE_UNCONTROLLED, and sends the pending value; one with another number before expiry, and any frame with no command outstanding,
is discarded (R57, R85 to R87, R89, R90, R92, R98 to R100). That a frame which ends while the part transmits on the link is discarded
whole is log entry 14. -/
def Obligations.AcknowledgementEndsTheCommand : Prop :=
  ∀ (s : State) (k : Stage) (w : Nat) (bytes : List Byte), w < 65536 →
    let l := s.links.lines[k]
    (l.out = none ∨ l.tx.isSome = true → exec (.linkFrameReceived k bytes) s = .next s) ∧
    ∀ c, l.tx = none → l.out = some c → c.phase = .waiting ∨ c.phase = .expired →
      (∀ n : Byte, n ≠ c.seq → c.phase = .waiting →
        exec (.linkFrameReceived k (sealFrame [0xC35A, k.val + 256 * n.toNat, w])) s = .next s) ∧
      ∃ t m, exec (.linkFrameReceived k (sealFrame [0xC35A, k.val + 256 * c.seq.toNat, w])) s = .next t ∧
        t.links = { s.links with lines := upd s.links.lines k m } ∧ m.state = .up ∧ m.failed = 0 ∧
        m.limiter = (if w = 0 then .normal else if w = 1 then .bypass else .fault) ∧ m.hold = l.hold ∧
        m.charged = l.charged ∧ m.pend = none ∧
        (match l.pend with
          | some v =>
            if s.run.state = .starting then m.out = none ∧ m.seq = l.seq
            else l.Carries m v ∧ m.tx = some (sealFrame [0x3CA5, k.val + 256 * l.seq.toNat, v])
          | none => m.out = none ∧ m.seq = l.seq ∧ m.tx = none) ∧
        t.acc.ctrl[k] = decide (w = 0) ∧
        t.notices.conds[CondClass.ix .stageUncontrolled][stageSubject k] = decide (w ≠ 0) ∧
        (∀ j : Stage, j ≠ k → t.acc.ctrl[j] = s.acc.ctrl[j]) ∧
        (∀ st : Station, t.acc.accts[st].ring = s.acc.accts[st].ring ∧ t.acc.accts[st].n = s.acc.accts[st].n) ∧
        t.gain = s.gain ∧ t.poller = s.poller ∧ t.walker = s.walker ∧ t.book = s.book ∧ t.run = s.run ∧
        t.clock = s.clock ∧ t.regs = s.regs ∧ t.scanner = s.scanner ∧ t.log = s.log

/-- ACK_TIMEOUT, LINK_FRAME_SILENCE, and LINK_FRAME_RECEIVED of an invalid frame, at a waiting attempt: an expiry waits for a frame
being received, which then fails the attempt when it is invalid, incomplete or an ACK of another number; otherwise the attempt fails, and the same frame is sent again up to three attempts; the third failure ends the
command, charges at most one failed second, moves the link to RETRYING or LOST, and sends the pending value (R87, R89, R92, R95,
R100). -/
def Obligations.CommandIsResentThenCharged : Prop :=
  ∀ (s : State) (k : Stage) (c : Command),
    let l := s.links.lines[k]
    l.tx = none → l.out = some c → c.phase = .waiting ∨ c.phase = .expired →
    (c.phase = .waiting →
      exec (.ackTimeout k true) s = .next (s.setLink k { l with out := some { c with phase := .expired } })) ∧
    ∀ cmd, ((c.phase = .waiting ∧ cmd = .ackTimeout k false) ∨ cmd = .linkFrameSilence k ∨
        ∃ bytes, cmd = .linkFrameReceived k bytes ∧
          (parseAck k bytes = none ∨ (c.phase = .expired ∧ ∃ f, parseAck k bytes = some f ∧ f.echo ≠ c.seq))) →
    (c.attempt < 3 →
      exec cmd s =
        .next (s.setLink k
          { l with
            out := some { c with attempt := c.attempt + 1, phase := .sending }
            tx := some (sealFrame [0x3CA5, k.val + 256 * c.seq.toNat, c.ceiling]) })) ∧
    (3 ≤ c.attempt →
      let failed := if l.charged then l.failed else min 3 (l.failed + 1)
      let moved := if l.state = .unknown ∨ l.state = .up then LinkState.retrying else l.state
      ∃ t m, exec cmd s = .next t ∧ t.links = { s.links with lines := upd s.links.lines k m } ∧
        m.charged = true ∧ m.failed = failed ∧ m.limiter = l.limiter ∧ m.pend = none ∧
        m.state = (if l.failed < 3 ∧ failed = 3 ∧ moved = .retrying then .lost else moved) ∧
        (match l.pend with
          | some v => if s.run.state = .starting then m.out = none ∧ m.seq = l.seq else l.Carries m v
          | none => m.out = none ∧ m.seq = l.seq) ∧
        t.gain = s.gain ∧ t.poller = s.poller ∧ t.walker = s.walker ∧ t.book = s.book ∧ t.run = s.run ∧
        t.clock = s.clock ∧ t.regs = s.regs ∧ t.scanner = s.scanner ∧ t.log = s.log)

/-! ### The blocks' own rules -/

/-- R17, R19, R21: an advance, a re-sum and a priming keep N and S of both bands exact over the window; an advance places the new
sample at age 0 and drops the oldest; a re-sum changes nothing but N and S; a priming fills ages 0 to W − 1 with PRIMED samples of
energy min(4,294,967,295, P_lim + P_amb), leaves the older ages, and sets N = W and S = W × e. -/
def Obligations.WindowSumsFollowTheRing : Prop :=
  ∀ (a : Account) (w : Nat), 60 ≤ w → w ≤ 900 → a.exact w →
    (∀ x : Sample, x.inRange → (a.advance w x).exact w ∧ (a.advance w x).ring = x :: a.ring.take 899) ∧
    (∀ w2, 60 ≤ w2 → w2 ≤ 900 →
      (a.resum w w2).exact w2 ∧
        ∃ n sA sC, a.resum w w2 = { a with n := n, a := { a.a with s := sA }, c := { a.c with s := sC } }) ∧
    ∀ pLimA pAmbA pLimC pAmbC : Nat,
      let eA := min 4294967295 (pLimA + pAmbA)
      let eC := min 4294967295 (pLimC + pAmbC)
      (a.prime w pLimA pAmbA pLimC pAmbC).exact w ∧
        a.prime w pLimA pAmbA pLimC pAmbC =
          { a with
            ring := List.replicate w { mark := .primed, eA := eA, eC := eC } ++ a.ring.drop w
            n := w
            a := { a.a with s := w * eA, pLim := pLimA, pAmb := pAmbA }
            c := { a.c with s := w * eC, pLim := pLimC, pAmb := pAmbC } }

/-- R30, R31, R32, R33: stages 1 to 3 of a band. The allowance is P_lim + ⌊D / H⌋ clamped to 0 to K·P_lim, D being N·P_lim −
max(0, S − N·P_amb); overdrawn is D < 0; the demand is 4096 when no music is heard, and otherwise min(4096, ⌊4096·A / m⌋). R36: the
stage demand is 4096 for C_r = 0, and otherwise ⌊(256·q_s − (256 − C_r)·4096) / C_r⌋ clamped to 0 to 4096. -/
def Obligations.AllowanceAndDemands : Prop :=
  (∀ (b : BandAccount) (n eNew pLim pAmb h k : Nat), 10 ≤ h → 1 ≤ k →
    let d : Int := (n : Int) * pLim - max 0 ((b.s : Int) - n * pAmb)
    let m : Int := max 0 ((eNew : Int) - pAmb)
    let r := b.compute n eNew pLim pAmb h k
    (r.allow : Int) = max 0 (min ((k : Int) * pLim) (pLim + d / (h : Int))) ∧
      (d = 0 → r.allow = pLim) ∧ (r.overdrawn = true ↔ d < 0) ∧ r.pLim = pLim ∧ r.pAmb = pAmb ∧ r.s = b.s ∧
      (m = 0 → r.q = 4096) ∧ (0 < m → (r.q : Int) = min 4096 (4096 * (r.allow : Int) / m))) ∧
  ∀ qs cr : Nat, qs ≤ 4096 → cr ≤ 256 →
    (cr = 0 → stageDemand qs cr = 4096) ∧
      (0 < cr →
        (stageDemand qs cr : Int) = max 0 (min 4096 ((256 * (qs : Int) - (256 - (cr : Int)) * 4096) / (cr : Int)))) ∧
      stageDemand 4096 cr = 4096

/-- R49: a driving closure moves the applied ceiling towards its target, down by at most Dn and up by at most Up, never past the
target and never above the hard bound. R40: the soft target is at most the g_s of each station in LIVE or STALE that hears the
stage, and is one of them, or 4096 when there is none. A closure, by last outcome or by deadline, advances with ABSENT every station
that has not advanced, moves every stage so, offers each applied ceiling to its link (which in the start hold begins a new command, as
it does with no command outstanding, and otherwise is kept pending), folds the log, hands STAGE_LIMITING and STAGE_MUTED, and counts the
probe intervals of DOWN loops down (R4, R50, R55, R69, R78, R91, R101, R184). After a closure by last outcome the first DOWN loop whose
count is then 0 is probed, A before B, through the lowest-indexed enabled station, with the number of the round; with none enabled
none is (R78). That a probe on a line which carries a frame waits for it is log entry 15. -/
def Obligations.ClosureMovesTheCeiling : Prop :=
  (∀ (g : GainStage) (target dn up : Nat), g.applied ≤ g.bound →
    let g2 := g.close target dn up
    g2 = { g with target := target, applied := g2.applied } ∧ g2.applied ≤ g.bound ∧
      (target < g.applied → g2.applied = max target (g.applied - dn)) ∧
      (g.applied ≤ target → g2.applied = min (min target (g.applied + up)) g.bound ∧ g.applied ≤ g2.applied)) ∧
  (∀ (s : State) (k : Stage),
    let pulls := fun (st : Station) =>
      (s.poller.states[st] = .live ∨ s.poller.states[st] = .stale) ∧ s.hears st k = true
    s.softTarget k ≤ 4096 ∧ (∀ st : Station, pulls st → s.softTarget k ≤ s.acc.accts[st].gs) ∧
      (s.softTarget k = 4096 ∨ ∃ st : Station, pulls st ∧ s.softTarget k = s.acc.accts[st].gs)) ∧
  (∀ (s t : State) (c : GainConfig), s.gain.cfg = some c → ceilingsBounded s.gain.stages → s.Closes t →
    t.poller.roundOpen = false ∧ t.poller.exch = none ∧ t.poller.todo = [] ∧ t.poller.states = s.poller.states ∧
      (∀ st : Station, t.acc.advanced[st] = true ∧
        t.acc.accts[st] =
          if s.acc.advanced[st] then s.acc.accts[st]
          else s.acc.accts[st].advance s.acc.w { mark := .absent, eA := 0, eC := 0 }) ∧
      (∀ k : Stage,
        let g := t.gain.stages[k]
        let l := s.links.lines[k]
        let m := t.links.lines[k]
        g = { s.gain.stages[k] with target := t.softTarget k, applied := g.applied, ambient := g.ambient } ∧
          g.applied = min (rampStep (t.softTarget k) s.gain.stages[k].applied c.dn c.up) g.bound ∧
          (l.state = .disabled → m = l) ∧
          (l.state ≠ .disabled → l.hold = true → l.Carries m g.applied ∧ m.hold = false) ∧
          (l.state ≠ .disabled → l.hold = false →
            (l.out = none → l.pend = none → l.Carries m g.applied) ∧
            (l.out.isSome = true → m = { l with pend := some g.applied })) ∧
          t.notices.conds[CondClass.ix .stageLimiting][stageSubject k] = decide (g.applied < 4096) ∧
          t.notices.conds[CondClass.ix .stageMuted][stageSubject k] = decide (g.applied = 0)) ∧
      t.log.folded = (if s.log.minuteOpen then s.log.folded + 1 else s.log.folded) ∧
      (∀ l : Loop, (t.loopLine l).state = (s.loopLine l).state ∧ (t.loopLine l).fails = (s.loopLine l).fails ∧
        (t.loopLine l).probe = if (s.loopLine l).state = .down then (s.loopLine l).probe - 1 else (s.loopLine l).probe) ∧
      t.poller.copy = s.poller.copy ∧ t.walker = s.walker ∧ t.run = s.run ∧ t.clock = s.clock) ∧
  ∀ (s : State) (copy : Vector StationEntry 16), s.poller.copy = some copy →
    let t := s.closeByLastOutcome
    let due := fun (l : Loop) => (s.loopLine l).state = .down ∧ (s.loopLine l).probe ≤ 1
    (∀ (st : Station) (l : Loop), copy[st].enabled = true → (∀ o : Station, o < st → copy[o].enabled = false) → due l →
      (l = .b → ¬ due .a) →
      t.poller.probe =
          some { station := st, addr := copy[st].addr, loop := l
                 phase := if (s.loopLine l).tx.isSome then .queued else .sending } ∧
        (t.loopLine l).tx =
          (match (s.loopLine l).tx with
            | some f => some f
            | none => some (sealFrame [0x5AC3, copy[st].addr % 256 + 256 * (s.poller.roundNo % 256)])) ∧
        t.poller.probeDue = if l = .a ∧ due .b then [.b] else []) ∧
    ((∀ st : Station, copy[st].enabled = false) ∨ (¬ due .a ∧ ¬ due .b) →
      t.poller.probe = s.poller.probe ∧ t.poller.probeDue = [] ∧ ∀ l : Loop, (t.loopLine l).tx = (s.loopLine l).tx)

/-- R178: a notice is written whole at the head with the next sequence number, and head and sequence advance; or, with 255 unread
notices, it is lost, nothing but the overrun flag changes. R179: the line then follows. R180: a condition transition sets the
subject's state and is noticed, with the edge, the count of the class and the class's value, when the edge selection asks for it;
a state already held changes nothing. -/
def Obligations.NoticesAreWrittenOrLost : Prop :=
  (∀ (s : State) (kind subject detail : Nat), s.ram.wf = true →
    let a := 0x2400 + 16 * s.notices.head.toNat
    let t := s.post kind subject detail
    (s.notices.head + 1 ≠ s.notices.tail →
      t.ram.readLe a 2 = s.notices.seq.toNat ∧ t.ram.readLe (a + 2) 1 = kind % 256 ∧
        t.ram.readLe (a + 3) 1 = subject % 256 ∧ t.ram.readLe (a + 4) 4 = s.clock % 4294967296 ∧
        t.ram.readLe (a + 8) 4 = detail % 4294967296 ∧ t.ram.readLe (a + 12) 4 = 0 ∧
        (∀ b, a ≤ b → b < a + 16 → t.ram.badAt b = false) ∧ keepsOutside (inNextNotice s.notices) s.ram t.ram ∧
        t = { s with
          ram := t.ram
          notices := { s.notices with
            head := s.notices.head + 1, seq := s.notices.seq + 1, irq := s.run.intBit } }) ∧
    (s.notices.head + 1 = s.notices.tail → t = { s with notices := { s.notices with overrun := true } })) ∧
  ∀ (s : State) (cls : CondClass) (subject : Fin 16) (now : Bool) (value : Nat),
    let t := s.report cls subject now value
    let held := { s with
      notices := { s.notices with
        conds := upd s.notices.conds cls.ix (upd s.notices.conds[cls.ix] subject now) } }
    let count := (List.finRange 16).countP fun j => t.notices.conds[cls.ix][j]
    let asked := match s.notices.edges[cls.ix] with
      | .none => False
      | .enter => now = true
      | .leave => now = false
      | .both => True
    (s.notices.conds[cls.ix][subject] = now → t = s) ∧
      (s.notices.conds[cls.ix][subject] ≠ now →
        t.notices.conds[cls.ix][subject] = now ∧ (¬ asked → t = held) ∧
          (asked →
            t = held.post (cls.ix.val + 1) subject.val (boolCode now + 256 * count + 65536 * (value % 65536))))

/-- R187: a record is written whole at the write index unless the log holds 1023 unarchived records; then KEEP_OLDEST drops it and
tells LOG_FULL once, and KEEP_NEWEST gives up the oldest unarchived record. R185: a closure with no driving closure folded writes
no record, and every closure empties the accumulators; one with a closure folded writes, while the log has room, one record for each
enabled station in ascending index, each holding what its accumulator and its account hold. That the count takes the two bytes at
offset 0x06 is log entry 24, and that a value too wide for its field keeps its low bits is log entry 36. -/
def Obligations.RecordsFillTheLog : Prop :=
  (∀ (s : State) (bytes : List Byte) (given : Nat), s.ram.wf = true → bytes.length = 32 →
    let v := s.ram.readLe 0x0242 2
    let archive : BitVec 10 :=
      if s.ram.badAt 0x0242 = true ∨ s.ram.badAt 0x0243 = true ∨ 1023 < v then s.log.writeIdx + 1 else BitVec.ofNat 10 v
    let a := 0x5400 + 32 * s.log.writeIdx.toNat
    let t := (s.writeRecord bytes given).1
    let written :=
      t.ram.read a 32 = bytes ∧ t.ram.readLe 0x0240 2 = (s.log.writeIdx + 1).toNat ∧ t.log.writeIdx = s.log.writeIdx + 1 ∧
        t.log.full = false
    (s.log.writeIdx + 1 ≠ archive →
      written ∧ (s.writeRecord bytes given).2 = given ∧
        keepsOutside (fun b => (a ≤ b ∧ b < a + 32) ∨ b = 0x0240 ∨ b = 0x0241 ∨ inNextNotice s.notices b) s.ram t.ram) ∧
    (s.log.writeIdx + 1 = archive →
      (s.log.mode = .keepOldest →
        (s.writeRecord bytes given).2 = given ∧
          t = if s.log.full then s
            else State.post 21 0 s.log.writeIdx.toNat { s with log := { s.log with full := true } }) ∧
      (s.log.mode = .keepNewest →
        written ∧ (s.writeRecord bytes given).2 = given + 1 ∧ t.ram.readLe 0x0242 2 = (archive + 1).toNat))) ∧
  (∀ (s : State) (minute : Nat) (f : RecordFlags), s.ram.wf = true → s.log.minuteOpen = true → s.log.folded ≠ 0 →
    let v := s.ram.readLe 0x0242 2
    let listed := allStations.filter fun st => s.enabledStation st
    s.ram.badAt 0x0242 = false → s.ram.badAt 0x0243 = false → v ≤ 1023 →
    (s.log.writeIdx - BitVec.ofNat 10 v).toNat + listed.length ≤ 1023 →
    let t := s.closeMinute minute f
    t.log.writeIdx = s.log.writeIdx + BitVec.ofNat 10 listed.length ∧
      (listed ≠ [] → t.ram.readLe 0x0240 2 = t.log.writeIdx.toNat) ∧
      (∀ (j : Nat) (st : Station), listed[j]? = some st →
        let a := 0x5400 + 32 * (s.log.writeIdx + BitVec.ofNat 10 j).toNat
        let m := s.log.accs[st]
        let r := s.acc.accts[st]
        t.ram.readLe a 4 = minute % 4294967296 ∧ t.ram.readLe (a + 4) 1 = st.val ∧
          t.ram.readLe (a + 5) 1 =
            boolCode m.exceed + 2 * boolCode m.held + 4 * boolCode f.clockSet + 8 * boolCode f.stopped ∧
          t.ram.readLe (a + 6) 2 = m.count % 65536 ∧ t.ram.readLe (a + 8) 2 = m.lowest % 65536 ∧
          t.ram.readLe (a + 10) 2 = r.n % 65536 ∧
          t.ram.readLe (a + 12) 20 =
            m.sumA % 2 ^ 38 + 2 ^ 38 * (m.sumC % 2 ^ 38) + 2 ^ 76 * ((r.a.s - r.n * r.a.pAmb) % 2 ^ 42) +
              2 ^ 118 * ((r.c.s - r.n * r.c.pAmb) % 2 ^ 42)) ∧
      keepsOutside
        (fun b => (b = 0x0240 ∨ b = 0x0241) ∨ inNoticeQueue b ∨
          ∃ j, j < listed.length ∧ 0x5400 + 32 * (s.log.writeIdx + BitVec.ofNat 10 j).toNat ≤ b ∧
            b < 0x5400 + 32 * (s.log.writeIdx + BitVec.ofNat 10 j).toNat + 32) s.ram t.ram) ∧
  ∀ (s : State) (minute : Nat) (f : RecordFlags), s.log.minuteOpen = true →
    let t := s.closeMinute minute f
    t.log.folded = 0 ∧ t.log.minuteOpen = true ∧
      (∀ st : Station, t.log.accs[st] =
        { count := 0, sumA := 0, sumC := 0, held := false, exceed := s.log.accs[st].lastExceed, lowest := 4096,
          lastExceed := s.log.accs[st].lastExceed }) ∧
      (s.log.folded = 0 → t = { s with log := t.log } ∧ t.log.writeIdx = s.log.writeIdx)

/-- R139: an area is valid exactly when each of its 128 records reads without a parity error and holds shares of at most 256 that
sum to at most 256; otherwise the first failing record is told, with its cause. -/
def Obligations.BookAreaValidated : Prop :=
  ∀ (m : Memory) (area : Fin 2),
    let at' := fun (n : Nat) => (if area = 0 then 0x0400 else 0x1000) + 24 * n
    let parity := fun (n : Nat) => ∃ b, at' n ≤ b ∧ b < at' n + 16 ∧ m.badAt b = true
    let share := fun (n : Nat) (k : Stage) => m.readLe (at' n + 8 + 2 * k.val) 2
    let range := fun (n : Nat) => ∃ k : Stage, 256 < share n k
    let sum := fun (n : Nat) => 256 < share n 0 + share n 1 + share n 2 + share n 3
    let passes := fun (n : Nat) => ¬ parity n ∧ ¬ range n ∧ ¬ sum n
    (∀ b, validateArea m area = .ok b ↔
      (∀ n, n < 128 → passes n) ∧ b = (List.range 128).map fun n => readBookRecord m (at' n)) ∧
    ∀ n, n < 128 → (∀ j, j < n → passes j) →
      (parity n → validateArea m area = .error { set := n / 16, station := n % 16, cause := .parity }) ∧
      (¬ parity n → range n → validateArea m area = .error { set := n / 16, station := n % 16, cause := .shareRange }) ∧
      (¬ parity n → ¬ range n → sum n →
        validateArea m area = .error { set := n / 16, station := n % 16, cause := .shareSum })

/-- R120, R121: a pass counts at most 64 links, and follows each link step by step: the reasons, entry indices and link values of
Table 5-7, the end at a candidate not yet due (R123), at the watch (R130) or at a final entry (R122), and the processing of a LIMIT or
a TEST, whose condition of Table 5-3 is evaluated then (R117). R111, R119: a pass begins at the head, at the successor of the active
entry or at the pause index, once the header has been read; the index reported for a pause index above the entry count is log entry 12,
and which bytes the parity checks read is log entry 17. R108, R119: a second event takes a pass from the successor in WAITING and none
in the other states, and the wrap of the clock takes one from the head in WAITING, PAUSED and FINAL; the passes are those of commands
whose order names the walker first, and that a command gives the order of the blocks is log entry 3. R135: a fault writes the fault
record when it reads EMPTY with good parity, and otherwise only sets its further-faults flag. -/
def Obligations.PassKeepsItsRules : Prop :=
  (∀ (s : State) (e : LimitEntry),
    let p := s.passFromSuccessor e
    p.links ≤ 64 ∧
      (∀ l, p.last = some l →
        l.start ≤ s.clock ∧ 60 ≤ l.w ∧ l.w ≤ 900 ∧ 10 ≤ l.h ∧ l.h ≤ 600 ∧ 1 ≤ l.k ∧ l.k ≤ 4 ∧
          ∀ k : Stage, l.ceil[k] ≤ 4096) ∧
      (p.ending = .final → ∃ l, p.last = some l ∧ l.final = true) ∧
      (∀ q, p.ending = .watch q → q.index = s.walker.watch ∧ s.walker.watch ≠ 0) ∧
      (∀ en li, p.ending = .fault .chain en li → p.links = 64)) ∧
  (∀ s : State,
    let early := fun (r : FaultReason) (entry link : Nat) => ({ last := none, links := 0, ending := .fault r entry link } : Pass)
    let count := s.ram.readLe 0x3404 2
    let head := s.ram.readLe 0x3406 2
    let begins := fun (p : Pass) (good : Prop) =>
      (headerParity s.ram → p = early .parity 0 0) ∧
        (¬ headerParity s.ram → count = 0 ∨ 255 < count → p = early .field 0 0) ∧ (headerGood s.ram count head → good)
    s.conditionsHold ∧
    (∀ n left last linker linkerStart link,
      s.followsTo n left last linker linkerStart link (s.follow n left last linker linkerStart link)) ∧
    (∀ e, begins (s.passFromSuccessor e) (s.passFromSuccessor e = s.follow count 64 none e.index e.start e.next)) ∧
    begins s.passFromHead
      ((head = 0 → s.passFromHead = early .linkHeader 0 0) ∧
        (count < head → s.passFromHead = early .linkRange 0 (min 255 head)) ∧
        (head ≠ 0 → head ≤ count →
          (entryParity s.ram head → s.passFromHead = early .parity head head) ∧
          (¬ entryParity s.ram head → s.processesTo count 64 none head true s.passFromHead))) ∧
    ∀ q holder, begins (s.passFromPause q holder)
      ((count < q.index → s.passFromPause q holder = early .linkRange holder.toNat q.index) ∧
        (q.index ≤ count →
          (entryParity s.ram q.index → s.passFromPause q holder = early .parity q.index q.index) ∧
          (¬ entryParity s.ram q.index →
            (s.ram.readLe (entryAddr q.index + 4) 4 < q.linkerStart →
              s.passFromPause q holder = early .order q.index q.index) ∧
            (q.linkerStart ≤ s.ram.readLe (entryAddr q.index + 4) 4 →
              s.processesTo count 64 none q.index false (s.passFromPause q holder)))))) ∧
  (∀ (s t : State) (order : List SecondWork), s.run.state ≠ .resetBusy →
    (s.clock < 2147483647 → s.walker.state ≠ .waiting → exec (.secondEvent order) s = .next t → t.walker = s.walker) ∧
    (exec (.secondEvent (.walker :: order)) s = .next t →
      let now := { s with clock := if s.clock < 2147483647 then s.clock + 1 else 0 }
      (s.clock < 2147483647 → s.walker.state = .waiting → ∀ e, s.walker.active = some e →
        s.PassTaken t (now.passFromSuccessor e)) ∧
      (2147483647 ≤ s.clock →
        (s.walker.state = .unstarted ∨ s.walker.state = .faulted → t.walker = s.walker) ∧
        (s.walker.state = .paused ∨ s.walker.state = .final → s.PassTaken t now.passFromHead) ∧
        (s.walker.state = .waiting → ∀ e, s.walker.active = some e →
          let u := now.walkerSecond
          s.PassTaken u (now.passFromSuccessor e) ∧ (u.walker.state ≠ .faulted → u.PassTaken t u.passFromHead) ∧
            (u.walker.state = .faulted → t.walker = u.walker))))) ∧
  ∀ (m : Memory) (reason entry link clock found : Nat), m.wf = true → reason < 256 → entry < 256 → link < 256 →
    clock < 4294967296 → found < 256 →
    let r := m.recordFault reason entry link clock found
    if m.badAt 0x0200 = false ∧ m.readLe 0x0200 1 = 0 then
      r.readLe 0x0200 1 = 1 ∧ r.readLe 0x0201 1 = reason ∧ r.readLe 0x0202 1 = entry ∧ r.readLe 0x0203 1 = link ∧
        r.readLe 0x0204 4 = clock ∧ r.readLe 0x0208 1 = found ∧ r.readLe 0x0209 1 = 0 ∧
        keepsOutside (fun a => 0x0200 ≤ a ∧ a < 0x020A) m r
    else r.readLe 0x0209 1 = 1 ∧ keepsOutside (fun a => a = 0x0209) m r

end
end

