-- ==== Sys2Proof/Laws/Memory.lean ====
section
/-! SUPPORT. Shared RAM (R190): every memory operation keeps the canonical form; a read after a write; and what a write
leaves alone. -/

namespace Sys2Proof.Machine

/-! ### Lists of cells -/

/-- The addresses listed after a canonical cell lie above it. -/
theorem cellAt_below {x : Nat} {b : Byte} {rest : List Host.Cell} (h : cellsCanonical ((x, b) :: rest)) {a : Nat}
    (ha : a ≤ x) : cellAt rest a = 0 := by
  induction rest generalizing x b with
  | nil => rfl
  | cons c rest ih =>
    obtain ⟨y, c⟩ := c
    simp only [cellsCanonical, Bool.and_eq_true, decide_eq_true_eq] at h
    obtain ⟨⟨_, hxy⟩, hr⟩ := h
    rw [cellAt, if_neg (by omega)]
    exact ih hr (by omega)

theorem cellsCanonical_tail {c : Host.Cell} {rest : List Host.Cell} (h : cellsCanonical (c :: rest)) :
    cellsCanonical rest := by
  obtain ⟨x, b⟩ := c
  cases rest with
  | nil => rfl
  | cons d rest =>
    obtain ⟨y, e⟩ := d
    simp only [cellsCanonical, Bool.and_eq_true] at h
    exact h.2

/-- A cell in front of a canonical list whose first address lies above it. -/
theorem cellsCanonical_cons {x : Nat} {b : Byte} {rest : List Host.Cell} (hb : b ≠ 0)
    (hx : ∀ y c tail, rest = (y, c) :: tail → x < y) (hr : cellsCanonical rest) : cellsCanonical ((x, b) :: rest) := by
  cases rest with
  | nil => simpa [cellsCanonical] using hb
  | cons d rest =>
    obtain ⟨y, e⟩ := d
    have := hx y e rest rfl
    simpa [cellsCanonical, this, hr] using hb

theorem head_ne_zero {x : Nat} {b : Byte} {rest : List Host.Cell} (h : cellsCanonical ((x, b) :: rest)) : b ≠ 0 := by
  cases rest with
  | nil => simpa [cellsCanonical] using h
  | cons d rest =>
    obtain ⟨y, e⟩ := d
    simp only [cellsCanonical, Bool.and_eq_true] at h
    simpa using h.1.1

theorem head_lt {x y : Nat} {b c : Byte} {rest : List Host.Cell} (h : cellsCanonical ((x, b) :: (y, c) :: rest)) :
    x < y := by
  simp only [cellsCanonical, Bool.and_eq_true, decide_eq_true_eq] at h
  exact h.1.2

/-- The first address of a list after a byte is replaced is the byte's or the list's own first. -/
theorem setCell_head {l : List Host.Cell} {a : Nat} {b : Byte} {z : Nat} {d : Byte} {tail : List Host.Cell}
    (h : cellsCanonical l) (e : setCell l a b = (z, d) :: tail) : z = a ∨ ∃ c r, l = (z, c) :: r ∨ ∃ y, y < z ∧ l = (y, c) :: r := by
  cases l with
  | nil =>
    unfold setCell at e
    split at e
    · cases e
    · simp at e; exact .inl e.1.1.symm
  | cons p rest =>
    obtain ⟨x, c⟩ := p
    unfold setCell at e
    split at e
    · split at e
      · simp at e; exact .inr ⟨c, rest, .inl (by simp [e])⟩
      · simp at e; exact .inl e.1.1.symm
    · split at e
      · split at e
        · refine .inr ⟨c, rest, .inr ⟨x, ?_, rfl⟩⟩
          rw [e] at h
          exact head_lt h
        · simp at e; exact .inl e.1.1.symm
      · simp at e; exact .inr ⟨c, rest, .inl (by simp [e])⟩

/-- Replacing a byte keeps the canonical form. -/
theorem setCell_canonical {l : List Host.Cell} (h : cellsCanonical l) (a : Nat) (b : Byte) :
    cellsCanonical (setCell l a b) := by
  induction l with
  | nil =>
    unfold setCell
    split
    · rfl
    · rename_i hb; simpa [cellsCanonical] using hb
  | cons p rest ih =>
    obtain ⟨x, c⟩ := p
    have hr := cellsCanonical_tail h
    have hc := head_ne_zero h
    unfold setCell
    split
    · split
      · exact h
      · rename_i hax hb
        exact cellsCanonical_cons hb (fun y d tail e => by simp at e; omega) h
    · split
      · split
        · exact hr
        · rename_i _ hax hb
          refine cellsCanonical_cons hb (fun y d tail e => ?_) hr
          subst e; have := head_lt h; omega
      · rename_i h1 h2
        refine cellsCanonical_cons hc (fun z d tail e => ?_) (ih hr)
        rcases setCell_head hr e with rfl | ⟨c', r, e' | ⟨y, hy, e'⟩⟩
        · omega
        · subst e'; exact head_lt h
        · subst e'; have := head_lt h; omega

/-- Reading a byte after a byte is replaced. -/
theorem cellAt_setCell {l : List Host.Cell} (h : cellsCanonical l) (a : Nat) (b : Byte) (x : Nat) :
    cellAt (setCell l a b) x = if x = a then b else cellAt l x := by
  induction l with
  | nil =>
    unfold setCell
    split
    · rename_i hb; subst hb; simp [cellAt]
    · simp [cellAt, eq_comm]
  | cons p rest ih =>
    obtain ⟨y, c⟩ := p
    have hr := cellsCanonical_tail h
    unfold setCell
    split
    · rename_i hay
      split
      · rename_i hb
        by_cases hx : x = a
        · subst hx; rw [if_pos rfl, cellAt, if_neg (by omega), cellAt_below h (by omega), hb]
        · rw [if_neg hx]
      · by_cases hx : x = a
        · subst hx; simp [cellAt]
        · rw [cellAt, if_neg (Ne.symm hx), if_neg hx]
    · split
      · rename_i _ hay
        subst hay
        split
        · rename_i hb
          by_cases hx : x = a
          · subst hx; rw [if_pos rfl, cellAt_below h (le_refl x), hb]
          · rw [if_neg hx, cellAt, if_neg (Ne.symm hx)]
        · by_cases hx : x = a
          · subst hx; simp [cellAt]
          · rw [cellAt, if_neg (Ne.symm hx), if_neg hx, cellAt, if_neg (Ne.symm hx)]
      · rename_i h1 h2
        rw [cellAt, ih hr]
        by_cases hx : x = a
        · subst hx; rw [if_pos rfl, if_neg (Ne.symm h2), if_pos rfl]
        · rw [if_neg hx, if_neg hx, cellAt]

/-! ### Lists of addresses -/

theorem mem_insertAddr {l : List Nat} {a x : Nat} : x ∈ insertAddr l a ↔ x = a ∨ x ∈ l := by
  induction l with
  | nil => simp [insertAddr]
  | cons y rest ih =>
    unfold insertAddr
    split
    · simp
    · split
      · rename_i h; subst h; simp
      · simp [ih]; tauto

theorem mem_removeAddr {l : List Nat} {a x : Nat} : x ∈ removeAddr l a ↔ x ∈ l ∧ x ≠ a := by
  induction l with
  | nil => simp [removeAddr]
  | cons y rest ih =>
    unfold removeAddr
    split
    · rename_i h; subst h; rw [ih]; simp; tauto
    · rename_i h
      simp only [List.mem_cons, ih]
      constructor
      · rintro (rfl | ⟨h1, h2⟩)
        · exact ⟨.inl rfl, h⟩
        · exact ⟨.inr h1, h2⟩
      · rintro ⟨rfl | h1, h2⟩
        · exact .inl rfl
        · exact .inr ⟨h1, h2⟩

theorem rising_iff {l : List Nat} : rising l = true ↔ l.Pairwise (· < ·) := by
  induction l with
  | nil => simp [rising]
  | cons x rest ih =>
    cases rest with
    | nil => simp [rising]
    | cons y rest =>
      simp only [rising, Bool.and_eq_true, decide_eq_true_eq, ih, List.pairwise_cons]
      constructor
      · rintro ⟨hxy, hy, hr⟩
        refine ⟨fun z hz => ?_, hy, hr⟩
        rcases List.mem_cons.1 hz with rfl | hz
        · exact hxy
        · have := hy z hz; omega
      · rintro ⟨hx, hy, hr⟩
        exact ⟨hx y (by simp), hy, hr⟩

theorem rising_insertAddr {l : List Nat} (h : rising l) (a : Nat) : rising (insertAddr l a) := by
  rw [rising_iff] at *
  induction l with
  | nil => simp [insertAddr]
  | cons y rest ih =>
    have hp := List.pairwise_cons.1 h
    unfold insertAddr
    split
    · rename_i hay
      refine List.pairwise_cons.2 ⟨fun z hz => ?_, h⟩
      rcases List.mem_cons.1 hz with rfl | hz
      · exact hay
      · have := hp.1 z hz; omega
    · split
      · exact h
      · rename_i h1 h2
        refine List.pairwise_cons.2 ⟨fun z hz => ?_, ih hp.2⟩
        rcases mem_insertAddr.1 hz with rfl | hz
        · omega
        · exact hp.1 z hz

theorem rising_removeAddr {l : List Nat} (h : rising l) (a : Nat) : rising (removeAddr l a) := by
  rw [rising_iff] at *
  induction l with
  | nil => simp [removeAddr]
  | cons y rest ih =>
    have hp := List.pairwise_cons.1 h
    unfold removeAddr
    split
    · exact ih hp.2
    · exact List.pairwise_cons.2 ⟨fun z hz => hp.1 z (mem_removeAddr.1 hz).1, ih hp.2⟩

/-! ### One byte -/

theorem wf_iff {m : Memory} : m.wf = true ↔ cellsCanonical m.cells = true ∧ rising m.bad = true := by
  simp [Memory.wf]

theorem wf_write {m : Memory} (h : m.wf = true) (a : Nat) (b : Byte) : (m.write a b).wf = true := by
  rw [wf_iff] at *
  exact ⟨setCell_canonical h.1 a b, rising_removeAddr h.2 a⟩

theorem wf_disturb {m : Memory} (h : m.wf = true) (a : Nat) (b : Byte) : (m.disturb a b).wf = true := by
  rw [wf_iff] at *
  exact ⟨setCell_canonical h.1 a b, rising_insertAddr h.2 a⟩

theorem wf_cleared : Memory.cleared.wf = true := rfl

theorem byte_write {m : Memory} (h : m.wf = true) (a : Nat) (b : Byte) (x : Nat) :
    (m.write a b).byte x = if x = a then b else m.byte x :=
  cellAt_setCell (wf_iff.1 h).1 a b x

theorem byte_disturb {m : Memory} (h : m.wf = true) (a : Nat) (b : Byte) (x : Nat) :
    (m.disturb a b).byte x = if x = a then b else m.byte x :=
  cellAt_setCell (wf_iff.1 h).1 a b x

theorem badAt_iff {m : Memory} {a : Nat} : m.badAt a = true ↔ a ∈ m.bad := by simp [Memory.badAt]

theorem badAt_write (m : Memory) (a : Nat) (b : Byte) (x : Nat) :
    (m.write a b).badAt x = (m.badAt x && decide (x ≠ a)) := by
  apply Bool.eq_iff_iff.2
  rw [badAt_iff, Memory.write, mem_removeAddr, Bool.and_eq_true, badAt_iff, decide_eq_true_eq]

theorem badAt_disturb (m : Memory) (a : Nat) (b : Byte) (x : Nat) :
    (m.disturb a b).badAt x = (m.badAt x || decide (x = a)) := by
  apply Bool.eq_iff_iff.2
  rw [badAt_iff, Memory.disturb, mem_insertAddr, Bool.or_eq_true, badAt_iff, decide_eq_true_eq, or_comm]

theorem byte_cleared (a : Nat) : Memory.cleared.byte a = 0 := rfl

theorem badAt_cleared (a : Nat) : Memory.cleared.badAt a = false := rfl

/-! ### Runs of bytes -/

theorem wf_writeBytes {m : Memory} (h : m.wf = true) (a : Nat) (bs : List Byte) : (m.writeBytes a bs).wf = true := by
  induction bs generalizing m a with
  | nil => exact h
  | cons b bs ih => exact ih (wf_write h a b) (a + 1)

theorem wf_writeLe {m : Memory} (h : m.wf = true) (a n v : Nat) : (m.writeLe a n v).wf = true :=
  wf_writeBytes h a _

/-- A write leaves every other byte alone. -/
theorem byte_writeBytes_outside {m : Memory} (h : m.wf = true) (a : Nat) (bs : List Byte) {x : Nat}
    (hx : x < a ∨ a + bs.length ≤ x) : (m.writeBytes a bs).byte x = m.byte x := by
  induction bs generalizing m a with
  | nil => rfl
  | cons b bs ih =>
    rw [List.length_cons] at hx
    rw [Memory.writeBytes, ih (wf_write h a b) (a + 1) (by omega), byte_write h, if_neg (by omega)]

/-- A byte of a run that has been written. -/
theorem byte_writeBytes_inside {m : Memory} (h : m.wf = true) (a : Nat) (bs : List Byte) (i : Nat) (hi : i < bs.length) :
    (m.writeBytes a bs).byte (a + i) = bs[i] := by
  induction bs generalizing m a i with
  | nil => simp at hi
  | cons b bs ih =>
    cases i with
    | zero =>
      rw [Memory.writeBytes, byte_writeBytes_outside (wf_write h a b) (a + 1) bs (by omega), byte_write h]
      simp
    | succ i =>
      rw [List.length_cons] at hi
      rw [Memory.writeBytes, show a + (i + 1) = a + 1 + i by omega, ih (wf_write h a b) (a + 1) i (by omega)]
      rfl

theorem badAt_writeBytes (m : Memory) (a : Nat) (bs : List Byte) (x : Nat) :
    (m.writeBytes a bs).badAt x = (m.badAt x && decide (x < a ∨ a + bs.length ≤ x)) := by
  induction bs generalizing m a with
  | nil => simp [Memory.writeBytes]; intro _; omega
  | cons b bs ih =>
    rw [Memory.writeBytes, ih, badAt_write, List.length_cons]
    apply Bool.eq_iff_iff.2
    simp only [Bool.and_eq_true, decide_eq_true_eq]
    constructor
    · rintro ⟨⟨h1, h2⟩, h3⟩; exact ⟨h1, by omega⟩
    · rintro ⟨h1, h2⟩; exact ⟨⟨h1, by omega⟩, by omega⟩

@[simp] theorem length_leBytes (n v : Nat) : (leBytes n v).length = n := by
  induction n generalizing v with
  | zero => rfl
  | succ n ih => simp [leBytes, ih]

theorem leNat_leBytes (n v : Nat) : leNat (leBytes n v) = v % 256 ^ n := by
  induction n generalizing v with
  | zero => simp [leBytes, leNat, Nat.mod_one]
  | succ n ih =>
    rw [leBytes, leNat, ih, BitVec.toNat_ofNat]
    have h1 : v % (256 ^ n * 256) = v % 256 + 256 * (v / 256 % 256 ^ n) := by
      rw [mul_comm, Nat.mod_mul]
    rw [show 256 ^ (n + 1) = 256 ^ n * 256 from pow_succ _ _, h1]

/-- Two memories with the same bytes at the places read give the same read. -/
theorem read_congr {m k : Memory} (a n : Nat) (h : ∀ x, a ≤ x → x < a + n → m.byte x = k.byte x) : m.read a n = k.read a n := by
  induction n generalizing a with
  | zero => rfl
  | succ n ih => rw [Memory.read, Memory.read, h a (le_refl a) (by omega), ih (a + 1) fun x h1 h2 => h x (by omega) (by omega)]

theorem readLe_congr {m k : Memory} (a n : Nat) (h : ∀ x, a ≤ x → x < a + n → m.byte x = k.byte x) :
    m.readLe a n = k.readLe a n := by
  rw [Memory.readLe, Memory.readLe, read_congr a n h]

theorem read_writeBytes {m : Memory} (h : m.wf = true) (a : Nat) (bs : List Byte) :
    (m.writeBytes a bs).read a bs.length = bs := by
  induction bs generalizing m a with
  | nil => rfl
  | cons b bs ih =>
    rw [List.length_cons, Memory.read, Memory.writeBytes, ih (wf_write h a b) (a + 1),
      byte_writeBytes_outside (wf_write h a b) (a + 1) bs (by omega), byte_write h]
    simp

/-- A number read where it was written. -/
theorem readLe_writeLe {m : Memory} (h : m.wf = true) (a n v : Nat) : (m.writeLe a n v).readLe a n = v % 256 ^ n := by
  have := read_writeBytes h a (leBytes n v)
  rw [length_leBytes] at this
  rw [Memory.readLe, Memory.writeLe, this, leNat_leBytes]

/-- A number read where another was not written. -/
theorem readLe_writeBytes_outside {m : Memory} (h : m.wf = true) (a : Nat) (bs : List Byte) {b n : Nat}
    (hd : b + n ≤ a ∨ a + bs.length ≤ b) : (m.writeBytes a bs).readLe b n = m.readLe b n :=
  readLe_congr b n fun x h1 h2 => byte_writeBytes_outside h a bs (by omega)

end Sys2Proof.Machine
end

