-- ==== Sys2Proof/Laws/Frames.lean ====
section
/-! SUPPORT. Frames and their check words (R57): a sealed frame passes its check, and the SECOND and ACK frames read back what
was sealed into them. -/

namespace Sys2Proof.Machine

/-- A list of 16-bit words. -/
def isWords (ws : List Nat) : Prop := ∀ w ∈ ws, w < 65536

theorem onesAdd_lt {x y : Nat} (hx : x < 65536) (hy : y < 65536) : onesAdd x y < 65536 := by
  unfold onesAdd; split <;> omega

theorem foldl_onesAdd_lt {ws : List Nat} (h : isWords ws) {a : Nat} (ha : a < 65536) : ws.foldl onesAdd a < 65536 := by
  induction ws generalizing a with
  | nil => exact ha
  | cons w ws ih =>
    exact ih (fun x hx => h x (List.mem_cons_of_mem _ hx)) (onesAdd_lt ha (h w List.mem_cons_self))

theorem onesSum_lt {ws : List Nat} (h : isWords ws) : onesSum ws < 65536 := foldl_onesAdd_lt h (by decide)

/-- R57: the sum of a frame's words with their complement is 0xFFFF. -/
theorem checkPasses_sealed {ws : List Nat} (h : isWords ws) : checkPasses (ws ++ [0xFFFF - onesSum ws]) = true := by
  have hs := onesSum_lt h
  unfold checkPasses onesSum
  rw [List.foldl_append]
  show (onesAdd (onesSum ws) (0xFFFF - onesSum ws) == 0xFFFF) = true
  unfold onesAdd
  rw [if_pos (by omega)]
  simp only [beq_iff_eq]
  omega

/-- Words sent are the words received. -/
theorem wordsOf_bytesOf {ws : List Nat} (h : isWords ws) : wordsOf (bytesOf ws) = ws := by
  induction ws with
  | nil => rfl
  | cons w ws ih =>
    have hw := h w List.mem_cons_self
    show wordsOf (BitVec.ofNat 8 w :: BitVec.ofNat 8 (w / 256) :: bytesOf ws) = w :: ws
    rw [wordsOf, ih fun x hx => h x (List.mem_cons_of_mem _ hx)]
    simp only [BitVec.toNat_ofNat]
    congr 1
    omega

theorem length_bytesOf (ws : List Nat) : (bytesOf ws).length = 2 * ws.length := by
  induction ws with
  | nil => rfl
  | cons w ws ih =>
    show (BitVec.ofNat 8 w :: BitVec.ofNat 8 (w / 256) :: bytesOf ws).length = _
    simp [ih]; omega

theorem isWords_sealed {ws : List Nat} (h : isWords ws) : isWords (ws ++ [0xFFFF - onesSum ws]) := by
  intro w hw
  rcases List.mem_append.1 hw with hw | hw
  · exact h w hw
  · rw [List.mem_singleton.1 hw]; omega

/-- The words of a sealed frame. -/
theorem wordsOf_sealFrame {ws : List Nat} (h : isWords ws) : wordsOf (sealFrame ws) = ws ++ [0xFFFF - onesSum ws] :=
  wordsOf_bytesOf (isWords_sealed h)

theorem length_sealFrame (ws : List Nat) : (sealFrame ws).length = 2 * ws.length + 2 := by
  rw [sealFrame, length_bytesOf]; simp; omega

/-- A sealed SECOND frame read back (R58, R68). -/
theorem parseSecond_sealFrame {w1 w2 w3 w4 w5 w6 : Nat} (h : isWords [0xA53C, w1, w2, w3, w4, w5, w6]) :
    parseSecond (sealFrame [0xA53C, w1, w2, w3, w4, w5, w6]) =
      some
        { addr := w1 % 256, echo := w1 / 256,
          outcome := .valid (w3 + 65536 * w4) (w5 + 65536 * w6) (bit w2 0) (bit w2 1) (bit w2 2) (bit w2 3) } := by
  unfold parseSecond
  dsimp only
  rw [wordsOf_sealFrame h, if_pos ⟨length_sealFrame _, rfl, checkPasses_sealed h⟩]
  rfl

/-- A sealed ACK frame of the link's stage read back (R86, R87). -/
theorem parseAck_sealFrame (k : Stage) {w1 w2 : Nat} (h : isWords [0xC35A, w1, w2]) (hk : w1 % 256 = k.val) :
    parseAck k (sealFrame [0xC35A, w1, w2]) = some { echo := BitVec.ofNat 8 (w1 / 256), limiter := limiterOfWord w2 } := by
  unfold parseAck
  dsimp only
  rw [wordsOf_sealFrame h, if_pos ⟨length_sealFrame _, rfl, checkPasses_sealed h, hk⟩]
  rfl

end Sys2Proof.Machine
end

