-- ==== Sys2Proof/Laws/State.lean ====
section
/-! SUPPORT. What the named updates of the state change and keep, one lemma per update and field, so that no later proof
unfolds a record update. -/

namespace Sys2Proof.Machine

/-! ### Indexed parts -/

theorem upd_same {α : Type} {n : Nat} (v : Vector α n) (i : Fin n) (x : α) : (upd v i x)[i] = x := by
  simp [upd]

theorem upd_other {α : Type} {n : Nat} (v : Vector α n) (i j : Fin n) (x : α) (h : j ≠ i) : (upd v i x)[j] = v[j] := by
  simp only [upd, Fin.getElem_fin]
  exact Vector.getElem_set_ne _ _ fun e => h (Fin.ext e.symm)

theorem upd_get {α : Type} {n : Nat} (v : Vector α n) (i j : Fin n) (x : α) :
    (upd v i x)[j] = if j = i then x else v[j] := by
  by_cases h : j = i
  · subst h; rw [upd_same, if_pos rfl]
  · rw [upd_other _ _ _ _ h, if_neg h]

@[simp] theorem upd_same_val {α : Type} {n : Nat} (v : Vector α n) (i : Fin n) (x : α) : (upd v i x)[i.val] = x :=
  upd_same v i x

theorem upd_get_val {α : Type} {n : Nat} (v : Vector α n) (i j : Fin n) (x : α) :
    (upd v i x)[j.val] = if j = i then x else v[j.val] :=
  upd_get v i j x

theorem ofFn_get {α : Type} {n : Nat} (f : Fin n → α) (i : Fin n) : (Vector.ofFn f)[i] = f i := by simp

theorem replicate_get {α : Type} {n : Nat} (x : α) (i : Fin n) : (Vector.replicate n x)[i] = x := by simp

/-- Two vectors with the same elements are equal. -/
theorem vector_ext {α : Type} {n : Nat} {v w : Vector α n} (h : ∀ i : Fin n, v[i] = w[i]) : v = w :=
  Vector.ext fun i hi => h ⟨i, hi⟩

theorem mem_allStations (st : Station) : st ∈ allStations := by
  revert st; decide

theorem mem_allStages (k : Stage) : k ∈ allStages := by
  revert k; decide

theorem loopIx_ne {l m : Loop} (h : l ≠ m) : loopIx l ≠ loopIx m := by
  cases l <;> cases m <;> simp_all [loopIx]

/-! ### Folds over stations and stages -/

/-- What every step of a fold keeps, the fold keeps. -/
theorem foldl_keeps {σ α β : Type} (g : σ → β) (f : σ → α → σ) (h : ∀ s a, g (f s a) = g s) (l : List α) (s : σ) :
    g (l.foldl f s) = g s := by
  induction l generalizing s with
  | nil => rfl
  | cons a l ih => rw [List.foldl_cons, ih, h]

/-- What every step of a fold preserves, the fold preserves. -/
theorem foldl_preserves {σ α : Type} (P : σ → Prop) (f : σ → α → σ) (h : ∀ s a, P s → P (f s a)) (l : List α) (s : σ)
    (hs : P s) : P (l.foldl f s) := by
  induction l generalizing s with
  | nil => exact hs
  | cons a l ih => exact ih _ (h s a hs)

theorem forStations_keeps {β : Type} (g : State → β) (f : Station → State → State) (h : ∀ st s, g (f st s) = g s)
    (s : State) : g (forStations f s) = g s :=
  foldl_keeps g (fun t st => f st t) (fun s a => h a s) allStations s

theorem forStages_keeps {β : Type} (g : State → β) (f : Stage → State → State) (h : ∀ k s, g (f k s) = g s) (s : State) :
    g (forStages f s) = g s :=
  foldl_keeps g (fun t k => f k t) (fun s a => h a s) allStages s

theorem forStations_preserves (P : State → Prop) (f : Station → State → State) (h : ∀ st s, P s → P (f st s)) (s : State)
    (hs : P s) : P (forStations f s) :=
  foldl_preserves P (fun t st => f st t) (fun s a => h a s) allStations s hs

theorem forStages_preserves (P : State → Prop) (f : Stage → State → State) (h : ∀ k s, P s → P (f k s)) (s : State)
    (hs : P s) : P (forStages f s) :=
  foldl_preserves P (fun t k => f k t) (fun s a => h a s) allStages s hs

/-- The four stages, one after the other. -/
theorem forStages_eq (f : Stage → State → State) (s : State) : forStages f s = f 3 (f 2 (f 1 (f 0 s))) := rfl

/-! ### The named updates -/

@[simp] theorem setAccount_run (st : Station) (a : Account) (s : State) : (s.setAccount st a).run = s.run := rfl
@[simp] theorem setAccount_clock (st : Station) (a : Account) (s : State) : (s.setAccount st a).clock = s.clock := rfl
@[simp] theorem setAccount_regs (st : Station) (a : Account) (s : State) : (s.setAccount st a).regs = s.regs := rfl
@[simp] theorem setAccount_ram (st : Station) (a : Account) (s : State) : (s.setAccount st a).ram = s.ram := rfl
@[simp] theorem setAccount_gain (st : Station) (a : Account) (s : State) : (s.setAccount st a).gain = s.gain := rfl
@[simp] theorem setAccount_poller (st : Station) (a : Account) (s : State) : (s.setAccount st a).poller = s.poller := rfl
@[simp] theorem setAccount_links (st : Station) (a : Account) (s : State) : (s.setAccount st a).links = s.links := rfl
@[simp] theorem setAccount_walker (st : Station) (a : Account) (s : State) : (s.setAccount st a).walker = s.walker := rfl
@[simp] theorem setAccount_book (st : Station) (a : Account) (s : State) : (s.setAccount st a).book = s.book := rfl
@[simp] theorem setAccount_scanner (st : Station) (a : Account) (s : State) : (s.setAccount st a).scanner = s.scanner := rfl
@[simp] theorem setAccount_notices (st : Station) (a : Account) (s : State) : (s.setAccount st a).notices = s.notices := rfl
@[simp] theorem setAccount_log (st : Station) (a : Account) (s : State) : (s.setAccount st a).log = s.log := rfl
@[simp] theorem setAccount_pending (st : Station) (a : Account) (s : State) : (s.setAccount st a).pending = s.pending := rfl
@[simp] theorem setAccount_acc_w (st : Station) (a : Account) (s : State) : (s.setAccount st a).acc.w = s.acc.w := rfl
@[simp] theorem setAccount_acc_set (st : Station) (a : Account) (s : State) : (s.setAccount st a).acc.set = s.acc.set := rfl
@[simp] theorem setAccount_acc_h (st : Station) (a : Account) (s : State) : (s.setAccount st a).acc.h = s.acc.h := rfl
@[simp] theorem setAccount_acc_k (st : Station) (a : Account) (s : State) : (s.setAccount st a).acc.k = s.acc.k := rfl
@[simp] theorem setAccount_acc_primePending (st : Station) (a : Account) (s : State) : (s.setAccount st a).acc.primePending = s.acc.primePending := rfl
@[simp] theorem setAccount_acc_ctrl (st : Station) (a : Account) (s : State) : (s.setAccount st a).acc.ctrl = s.acc.ctrl := rfl
@[simp] theorem setAccount_acc_advanced (st : Station) (a : Account) (s : State) : (s.setAccount st a).acc.advanced = s.acc.advanced := rfl
@[simp] theorem setAccount_acc_accts (st : Station) (a : Account) (s : State) :
    (s.setAccount st a).acc.accts = upd s.acc.accts st a := rfl
@[simp] theorem setAccount_acc_ambient (st : Station) (a : Account) (s : State) : (s.setAccount st a).acc.ambient = s.acc.ambient := rfl

@[simp] theorem setGain_run (k : Stage) (g : GainStage) (s : State) : (s.setGain k g).run = s.run := rfl
@[simp] theorem setGain_clock (k : Stage) (g : GainStage) (s : State) : (s.setGain k g).clock = s.clock := rfl
@[simp] theorem setGain_regs (k : Stage) (g : GainStage) (s : State) : (s.setGain k g).regs = s.regs := rfl
@[simp] theorem setGain_ram (k : Stage) (g : GainStage) (s : State) : (s.setGain k g).ram = s.ram := rfl
@[simp] theorem setGain_acc (k : Stage) (g : GainStage) (s : State) : (s.setGain k g).acc = s.acc := rfl
@[simp] theorem setGain_poller (k : Stage) (g : GainStage) (s : State) : (s.setGain k g).poller = s.poller := rfl
@[simp] theorem setGain_links (k : Stage) (g : GainStage) (s : State) : (s.setGain k g).links = s.links := rfl
@[simp] theorem setGain_walker (k : Stage) (g : GainStage) (s : State) : (s.setGain k g).walker = s.walker := rfl
@[simp] theorem setGain_book (k : Stage) (g : GainStage) (s : State) : (s.setGain k g).book = s.book := rfl
@[simp] theorem setGain_scanner (k : Stage) (g : GainStage) (s : State) : (s.setGain k g).scanner = s.scanner := rfl
@[simp] theorem setGain_notices (k : Stage) (g : GainStage) (s : State) : (s.setGain k g).notices = s.notices := rfl
@[simp] theorem setGain_log (k : Stage) (g : GainStage) (s : State) : (s.setGain k g).log = s.log := rfl
@[simp] theorem setGain_pending (k : Stage) (g : GainStage) (s : State) : (s.setGain k g).pending = s.pending := rfl
@[simp] theorem setGain_gain_stages (k : Stage) (g : GainStage) (s : State) :
    (s.setGain k g).gain.stages = upd s.gain.stages k g := rfl
@[simp] theorem setGain_gain_cfg (k : Stage) (g : GainStage) (s : State) : (s.setGain k g).gain.cfg = s.gain.cfg := rfl

@[simp] theorem setLink_run (k : Stage) (l : Link) (s : State) : (s.setLink k l).run = s.run := rfl
@[simp] theorem setLink_clock (k : Stage) (l : Link) (s : State) : (s.setLink k l).clock = s.clock := rfl
@[simp] theorem setLink_regs (k : Stage) (l : Link) (s : State) : (s.setLink k l).regs = s.regs := rfl
@[simp] theorem setLink_ram (k : Stage) (l : Link) (s : State) : (s.setLink k l).ram = s.ram := rfl
@[simp] theorem setLink_acc (k : Stage) (l : Link) (s : State) : (s.setLink k l).acc = s.acc := rfl
@[simp] theorem setLink_gain (k : Stage) (l : Link) (s : State) : (s.setLink k l).gain = s.gain := rfl
@[simp] theorem setLink_poller (k : Stage) (l : Link) (s : State) : (s.setLink k l).poller = s.poller := rfl
@[simp] theorem setLink_walker (k : Stage) (l : Link) (s : State) : (s.setLink k l).walker = s.walker := rfl
@[simp] theorem setLink_book (k : Stage) (l : Link) (s : State) : (s.setLink k l).book = s.book := rfl
@[simp] theorem setLink_scanner (k : Stage) (l : Link) (s : State) : (s.setLink k l).scanner = s.scanner := rfl
@[simp] theorem setLink_notices (k : Stage) (l : Link) (s : State) : (s.setLink k l).notices = s.notices := rfl
@[simp] theorem setLink_log (k : Stage) (l : Link) (s : State) : (s.setLink k l).log = s.log := rfl
@[simp] theorem setLink_pending (k : Stage) (l : Link) (s : State) : (s.setLink k l).pending = s.pending := rfl
@[simp] theorem setLink_links_lines (k : Stage) (l : Link) (s : State) :
    (s.setLink k l).links.lines = upd s.links.lines k l := rfl
@[simp] theorem setLink_links_cfg (k : Stage) (l : Link) (s : State) : (s.setLink k l).links.cfg = s.links.cfg := rfl

@[simp] theorem setLoop_run (l : Loop) (v : LoopLine) (s : State) : (s.setLoop l v).run = s.run := rfl
@[simp] theorem setLoop_clock (l : Loop) (v : LoopLine) (s : State) : (s.setLoop l v).clock = s.clock := rfl
@[simp] theorem setLoop_regs (l : Loop) (v : LoopLine) (s : State) : (s.setLoop l v).regs = s.regs := rfl
@[simp] theorem setLoop_ram (l : Loop) (v : LoopLine) (s : State) : (s.setLoop l v).ram = s.ram := rfl
@[simp] theorem setLoop_acc (l : Loop) (v : LoopLine) (s : State) : (s.setLoop l v).acc = s.acc := rfl
@[simp] theorem setLoop_gain (l : Loop) (v : LoopLine) (s : State) : (s.setLoop l v).gain = s.gain := rfl
@[simp] theorem setLoop_links (l : Loop) (v : LoopLine) (s : State) : (s.setLoop l v).links = s.links := rfl
@[simp] theorem setLoop_walker (l : Loop) (v : LoopLine) (s : State) : (s.setLoop l v).walker = s.walker := rfl
@[simp] theorem setLoop_book (l : Loop) (v : LoopLine) (s : State) : (s.setLoop l v).book = s.book := rfl
@[simp] theorem setLoop_scanner (l : Loop) (v : LoopLine) (s : State) : (s.setLoop l v).scanner = s.scanner := rfl
@[simp] theorem setLoop_notices (l : Loop) (v : LoopLine) (s : State) : (s.setLoop l v).notices = s.notices := rfl
@[simp] theorem setLoop_log (l : Loop) (v : LoopLine) (s : State) : (s.setLoop l v).log = s.log := rfl
@[simp] theorem setLoop_pending (l : Loop) (v : LoopLine) (s : State) : (s.setLoop l v).pending = s.pending := rfl
@[simp] theorem setLoop_poller_loops (l : Loop) (v : LoopLine) (s : State) :
    (s.setLoop l v).poller.loops = upd s.poller.loops (loopIx l) v := rfl
@[simp] theorem setLoop_poller_copy (l : Loop) (v : LoopLine) (s : State) : (s.setLoop l v).poller.copy = s.poller.copy := rfl
@[simp] theorem setLoop_poller_timing (l : Loop) (v : LoopLine) (s : State) : (s.setLoop l v).poller.timing = s.poller.timing := rfl
@[simp] theorem setLoop_poller_states (l : Loop) (v : LoopLine) (s : State) : (s.setLoop l v).poller.states = s.poller.states := rfl
@[simp] theorem setLoop_poller_roundOpen (l : Loop) (v : LoopLine) (s : State) : (s.setLoop l v).poller.roundOpen = s.poller.roundOpen := rfl
@[simp] theorem setLoop_poller_roundNo (l : Loop) (v : LoopLine) (s : State) : (s.setLoop l v).poller.roundNo = s.poller.roundNo := rfl
@[simp] theorem setLoop_poller_todo (l : Loop) (v : LoopLine) (s : State) : (s.setLoop l v).poller.todo = s.poller.todo := rfl
@[simp] theorem setLoop_poller_settled (l : Loop) (v : LoopLine) (s : State) : (s.setLoop l v).poller.settled = s.poller.settled := rfl
@[simp] theorem setLoop_poller_exch (l : Loop) (v : LoopLine) (s : State) : (s.setLoop l v).poller.exch = s.poller.exch := rfl
@[simp] theorem setLoop_poller_probe (l : Loop) (v : LoopLine) (s : State) : (s.setLoop l v).poller.probe = s.poller.probe := rfl
@[simp] theorem setLoop_poller_probeDue (l : Loop) (v : LoopLine) (s : State) : (s.setLoop l v).poller.probeDue = s.poller.probeDue := rfl
@[simp] theorem setLoop_poller_test (l : Loop) (v : LoopLine) (s : State) : (s.setLoop l v).poller.test = s.poller.test := rfl

@[simp] theorem setMinute_run (st : Station) (m : MinuteAccount) (s : State) : (s.setMinute st m).run = s.run := rfl
@[simp] theorem setMinute_clock (st : Station) (m : MinuteAccount) (s : State) : (s.setMinute st m).clock = s.clock := rfl
@[simp] theorem setMinute_regs (st : Station) (m : MinuteAccount) (s : State) : (s.setMinute st m).regs = s.regs := rfl
@[simp] theorem setMinute_ram (st : Station) (m : MinuteAccount) (s : State) : (s.setMinute st m).ram = s.ram := rfl
@[simp] theorem setMinute_acc (st : Station) (m : MinuteAccount) (s : State) : (s.setMinute st m).acc = s.acc := rfl
@[simp] theorem setMinute_gain (st : Station) (m : MinuteAccount) (s : State) : (s.setMinute st m).gain = s.gain := rfl
@[simp] theorem setMinute_poller (st : Station) (m : MinuteAccount) (s : State) : (s.setMinute st m).poller = s.poller := rfl
@[simp] theorem setMinute_links (st : Station) (m : MinuteAccount) (s : State) : (s.setMinute st m).links = s.links := rfl
@[simp] theorem setMinute_walker (st : Station) (m : MinuteAccount) (s : State) : (s.setMinute st m).walker = s.walker := rfl
@[simp] theorem setMinute_book (st : Station) (m : MinuteAccount) (s : State) : (s.setMinute st m).book = s.book := rfl
@[simp] theorem setMinute_scanner (st : Station) (m : MinuteAccount) (s : State) : (s.setMinute st m).scanner = s.scanner := rfl
@[simp] theorem setMinute_notices (st : Station) (m : MinuteAccount) (s : State) : (s.setMinute st m).notices = s.notices := rfl
@[simp] theorem setMinute_pending (st : Station) (m : MinuteAccount) (s : State) : (s.setMinute st m).pending = s.pending := rfl
@[simp] theorem setMinute_log_writeIdx (st : Station) (m : MinuteAccount) (s : State) : (s.setMinute st m).log.writeIdx = s.log.writeIdx := rfl
@[simp] theorem setMinute_log_mode (st : Station) (m : MinuteAccount) (s : State) : (s.setMinute st m).log.mode = s.log.mode := rfl
@[simp] theorem setMinute_log_full (st : Station) (m : MinuteAccount) (s : State) : (s.setMinute st m).log.full = s.log.full := rfl
@[simp] theorem setMinute_log_half (st : Station) (m : MinuteAccount) (s : State) : (s.setMinute st m).log.half = s.log.half := rfl
@[simp] theorem setMinute_log_accs (st : Station) (m : MinuteAccount) (s : State) :
    (s.setMinute st m).log.accs = upd s.log.accs st m := rfl
@[simp] theorem setMinute_log_folded (st : Station) (m : MinuteAccount) (s : State) : (s.setMinute st m).log.folded = s.log.folded := rfl
@[simp] theorem setMinute_log_minuteOpen (st : Station) (m : MinuteAccount) (s : State) : (s.setMinute st m).log.minuteOpen = s.log.minuteOpen := rfl

@[simp] theorem setRam_run (m : Memory) (s : State) : (s.setRam m).run = s.run := rfl
@[simp] theorem setRam_clock (m : Memory) (s : State) : (s.setRam m).clock = s.clock := rfl
@[simp] theorem setRam_regs (m : Memory) (s : State) : (s.setRam m).regs = s.regs := rfl
@[simp] theorem setRam_acc (m : Memory) (s : State) : (s.setRam m).acc = s.acc := rfl
@[simp] theorem setRam_gain (m : Memory) (s : State) : (s.setRam m).gain = s.gain := rfl
@[simp] theorem setRam_poller (m : Memory) (s : State) : (s.setRam m).poller = s.poller := rfl
@[simp] theorem setRam_links (m : Memory) (s : State) : (s.setRam m).links = s.links := rfl
@[simp] theorem setRam_walker (m : Memory) (s : State) : (s.setRam m).walker = s.walker := rfl
@[simp] theorem setRam_book (m : Memory) (s : State) : (s.setRam m).book = s.book := rfl
@[simp] theorem setRam_scanner (m : Memory) (s : State) : (s.setRam m).scanner = s.scanner := rfl
@[simp] theorem setRam_notices (m : Memory) (s : State) : (s.setRam m).notices = s.notices := rfl
@[simp] theorem setRam_log (m : Memory) (s : State) : (s.setRam m).log = s.log := rfl
@[simp] theorem setRam_pending (m : Memory) (s : State) : (s.setRam m).pending = s.pending := rfl
@[simp] theorem setRam_ram (m : Memory) (s : State) : (s.setRam m).ram = m := rfl

/-- A loop's values after a loop's values are replaced. -/
theorem loopLine_setLoop (l m : Loop) (v : LoopLine) (s : State) :
    (s.setLoop l v).loopLine m = if m = l then v else s.loopLine m := by
  by_cases h : m = l
  · subst h; simp [State.loopLine, State.setLoop]
  · rw [if_neg h]; exact upd_other _ _ _ _ (loopIx_ne h)

end Sys2Proof.Machine
end

