-- ==== Sys2Proof/Laws/Keeps.lean ====
section
/-! SUPPORT. For every shared operation, the blocks of the state that it leaves alone: what a later proof cites in place
of unfolding the operation. -/

namespace Sys2Proof.Machine

/-! ### Notices -/

@[simp] theorem driveIrq_keeps (s : State) :
    s.driveIrq.run = s.run ∧ s.driveIrq.clock = s.clock ∧ s.driveIrq.regs = s.regs ∧ s.driveIrq.ram = s.ram ∧
      s.driveIrq.acc = s.acc ∧ s.driveIrq.gain = s.gain ∧ s.driveIrq.poller = s.poller ∧
      s.driveIrq.links = s.links ∧ s.driveIrq.walker = s.walker ∧ s.driveIrq.book = s.book ∧
      s.driveIrq.scanner = s.scanner ∧ s.driveIrq.log = s.log ∧ s.driveIrq.pending = s.pending :=
  ⟨rfl, rfl, rfl, rfl, rfl, rfl, rfl, rfl, rfl, rfl, rfl, rfl, rfl⟩

@[simp] theorem post_keeps (kind subject detail : Nat) (s : State) :
    (s.post kind subject detail).run = s.run ∧ (s.post kind subject detail).clock = s.clock ∧
      (s.post kind subject detail).regs = s.regs ∧ (s.post kind subject detail).acc = s.acc ∧
      (s.post kind subject detail).gain = s.gain ∧ (s.post kind subject detail).poller = s.poller ∧
      (s.post kind subject detail).links = s.links ∧ (s.post kind subject detail).walker = s.walker ∧
      (s.post kind subject detail).book = s.book ∧ (s.post kind subject detail).scanner = s.scanner ∧
      (s.post kind subject detail).log = s.log ∧ (s.post kind subject detail).pending = s.pending := by
  unfold State.post
  try dsimp only
  repeat' split
  all_goals simp

@[simp] theorem report_keeps (cls : CondClass) (subject : Fin 16) (now : Bool) (value : Nat) (s : State) :
    (s.report cls subject now value).run = s.run ∧ (s.report cls subject now value).clock = s.clock ∧
      (s.report cls subject now value).regs = s.regs ∧ (s.report cls subject now value).acc = s.acc ∧
      (s.report cls subject now value).gain = s.gain ∧ (s.report cls subject now value).poller = s.poller ∧
      (s.report cls subject now value).links = s.links ∧ (s.report cls subject now value).walker = s.walker ∧
      (s.report cls subject now value).book = s.book ∧ (s.report cls subject now value).scanner = s.scanner ∧
      (s.report cls subject now value).log = s.log ∧ (s.report cls subject now value).pending = s.pending := by
  unfold State.report
  try dsimp only
  repeat' split
  all_goals simp

@[simp] theorem postRequestDone_keeps (slot : Slot) (kind code : Nat) (s : State) :
    (s.postRequestDone slot kind code).run = s.run ∧ (s.postRequestDone slot kind code).clock = s.clock ∧
      (s.postRequestDone slot kind code).regs = s.regs ∧ (s.postRequestDone slot kind code).acc = s.acc ∧
      (s.postRequestDone slot kind code).gain = s.gain ∧ (s.postRequestDone slot kind code).poller = s.poller ∧
      (s.postRequestDone slot kind code).links = s.links ∧ (s.postRequestDone slot kind code).walker = s.walker ∧
      (s.postRequestDone slot kind code).book = s.book ∧ (s.postRequestDone slot kind code).scanner = s.scanner ∧
      (s.postRequestDone slot kind code).log = s.log ∧ (s.postRequestDone slot kind code).pending = s.pending := by
  unfold State.postRequestDone
  try dsimp only
  all_goals simp

@[simp] theorem postEntryActivated_keeps (entry : Nat) (cause : PassCause) (s : State) :
    (s.postEntryActivated entry cause).run = s.run ∧ (s.postEntryActivated entry cause).clock = s.clock ∧
      (s.postEntryActivated entry cause).regs = s.regs ∧ (s.postEntryActivated entry cause).acc = s.acc ∧
      (s.postEntryActivated entry cause).gain = s.gain ∧ (s.postEntryActivated entry cause).poller = s.poller ∧
      (s.postEntryActivated entry cause).links = s.links ∧ (s.postEntryActivated entry cause).walker = s.walker ∧
      (s.postEntryActivated entry cause).book = s.book ∧ (s.postEntryActivated entry cause).scanner = s.scanner ∧
      (s.postEntryActivated entry cause).log = s.log ∧ (s.postEntryActivated entry cause).pending = s.pending := by
  unfold State.postEntryActivated
  try dsimp only
  all_goals simp

@[simp] theorem postWatchReached_keeps (pause active : Nat) (s : State) :
    (s.postWatchReached pause active).run = s.run ∧ (s.postWatchReached pause active).clock = s.clock ∧
      (s.postWatchReached pause active).regs = s.regs ∧ (s.postWatchReached pause active).acc = s.acc ∧
      (s.postWatchReached pause active).gain = s.gain ∧ (s.postWatchReached pause active).poller = s.poller ∧
      (s.postWatchReached pause active).links = s.links ∧ (s.postWatchReached pause active).walker = s.walker ∧
      (s.postWatchReached pause active).book = s.book ∧ (s.postWatchReached pause active).scanner = s.scanner ∧
      (s.postWatchReached pause active).log = s.log ∧ (s.postWatchReached pause active).pending = s.pending := by
  unfold State.postWatchReached
  try dsimp only
  all_goals simp

@[simp] theorem postScheduleFault_keeps (entry reason link : Nat) (s : State) :
    (s.postScheduleFault entry reason link).run = s.run ∧ (s.postScheduleFault entry reason link).clock = s.clock ∧
      (s.postScheduleFault entry reason link).regs = s.regs ∧ (s.postScheduleFault entry reason link).acc = s.acc ∧
      (s.postScheduleFault entry reason link).gain = s.gain ∧
      (s.postScheduleFault entry reason link).poller = s.poller ∧
      (s.postScheduleFault entry reason link).links = s.links ∧
      (s.postScheduleFault entry reason link).walker = s.walker ∧
      (s.postScheduleFault entry reason link).book = s.book ∧
      (s.postScheduleFault entry reason link).scanner = s.scanner ∧
      (s.postScheduleFault entry reason link).log = s.log ∧
      (s.postScheduleFault entry reason link).pending = s.pending := by
  unfold State.postScheduleFault
  try dsimp only
  all_goals simp

@[simp] theorem postRoundOverrun_keeps (first : Station) (count : Nat) (s : State) :
    (s.postRoundOverrun first count).run = s.run ∧ (s.postRoundOverrun first count).clock = s.clock ∧
      (s.postRoundOverrun first count).regs = s.regs ∧ (s.postRoundOverrun first count).acc = s.acc ∧
      (s.postRoundOverrun first count).gain = s.gain ∧ (s.postRoundOverrun first count).poller = s.poller ∧
      (s.postRoundOverrun first count).links = s.links ∧ (s.postRoundOverrun first count).walker = s.walker ∧
      (s.postRoundOverrun first count).book = s.book ∧ (s.postRoundOverrun first count).scanner = s.scanner ∧
      (s.postRoundOverrun first count).log = s.log ∧ (s.postRoundOverrun first count).pending = s.pending := by
  unfold State.postRoundOverrun
  try dsimp only
  all_goals simp

@[simp] theorem postLogFull_keeps (writeIdx : Nat) (s : State) :
    (s.postLogFull writeIdx).run = s.run ∧ (s.postLogFull writeIdx).clock = s.clock ∧
      (s.postLogFull writeIdx).regs = s.regs ∧ (s.postLogFull writeIdx).acc = s.acc ∧
      (s.postLogFull writeIdx).gain = s.gain ∧ (s.postLogFull writeIdx).poller = s.poller ∧
      (s.postLogFull writeIdx).links = s.links ∧ (s.postLogFull writeIdx).walker = s.walker ∧
      (s.postLogFull writeIdx).book = s.book ∧ (s.postLogFull writeIdx).scanner = s.scanner ∧
      (s.postLogFull writeIdx).log = s.log ∧ (s.postLogFull writeIdx).pending = s.pending := by
  unfold State.postLogFull
  try dsimp only
  all_goals simp

@[simp] theorem postLogWrap_keeps (given archive : Nat) (s : State) :
    (s.postLogWrap given archive).run = s.run ∧ (s.postLogWrap given archive).clock = s.clock ∧
      (s.postLogWrap given archive).regs = s.regs ∧ (s.postLogWrap given archive).acc = s.acc ∧
      (s.postLogWrap given archive).gain = s.gain ∧ (s.postLogWrap given archive).poller = s.poller ∧
      (s.postLogWrap given archive).links = s.links ∧ (s.postLogWrap given archive).walker = s.walker ∧
      (s.postLogWrap given archive).book = s.book ∧ (s.postLogWrap given archive).scanner = s.scanner ∧
      (s.postLogWrap given archive).log = s.log ∧ (s.postLogWrap given archive).pending = s.pending := by
  unfold State.postLogWrap
  try dsimp only
  all_goals simp

@[simp] theorem postRunState_keeps (before : RunState) (s : State) :
    (s.postRunState before).run = s.run ∧ (s.postRunState before).clock = s.clock ∧
      (s.postRunState before).regs = s.regs ∧ (s.postRunState before).acc = s.acc ∧
      (s.postRunState before).gain = s.gain ∧ (s.postRunState before).poller = s.poller ∧
      (s.postRunState before).links = s.links ∧ (s.postRunState before).walker = s.walker ∧
      (s.postRunState before).book = s.book ∧ (s.postRunState before).scanner = s.scanner ∧
      (s.postRunState before).log = s.log ∧ (s.postRunState before).pending = s.pending := by
  unfold State.postRunState
  try dsimp only
  all_goals simp

/-! ### Log Writer -/

@[simp] theorem logSample_keeps (st : Station) (x : Sample) (s : State) :
    (s.logSample st x).run = s.run ∧ (s.logSample st x).clock = s.clock ∧ (s.logSample st x).regs = s.regs ∧
      (s.logSample st x).ram = s.ram ∧ (s.logSample st x).acc = s.acc ∧ (s.logSample st x).gain = s.gain ∧
      (s.logSample st x).poller = s.poller ∧ (s.logSample st x).links = s.links ∧
      (s.logSample st x).walker = s.walker ∧ (s.logSample st x).book = s.book ∧
      (s.logSample st x).scanner = s.scanner ∧ (s.logSample st x).notices = s.notices ∧
      (s.logSample st x).pending = s.pending := by
  unfold State.logSample
  try dsimp only
  repeat' split
  all_goals simp

@[simp] theorem logExceed_keeps (st : Station) (b : Bool) (s : State) :
    (s.logExceed st b).run = s.run ∧ (s.logExceed st b).clock = s.clock ∧ (s.logExceed st b).regs = s.regs ∧
      (s.logExceed st b).ram = s.ram ∧ (s.logExceed st b).acc = s.acc ∧ (s.logExceed st b).gain = s.gain ∧
      (s.logExceed st b).poller = s.poller ∧ (s.logExceed st b).links = s.links ∧
      (s.logExceed st b).walker = s.walker ∧ (s.logExceed st b).book = s.book ∧
      (s.logExceed st b).scanner = s.scanner ∧ (s.logExceed st b).notices = s.notices ∧
      (s.logExceed st b).pending = s.pending := by
  unfold State.logExceed
  try dsimp only
  all_goals simp

@[simp] theorem foldCeiling_keeps (k : Stage) (c : Nat) (st : Station) (s : State) :
    (s.foldCeiling k c st).run = s.run ∧ (s.foldCeiling k c st).clock = s.clock ∧
      (s.foldCeiling k c st).regs = s.regs ∧ (s.foldCeiling k c st).ram = s.ram ∧
      (s.foldCeiling k c st).acc = s.acc ∧ (s.foldCeiling k c st).gain = s.gain ∧
      (s.foldCeiling k c st).poller = s.poller ∧ (s.foldCeiling k c st).links = s.links ∧
      (s.foldCeiling k c st).walker = s.walker ∧ (s.foldCeiling k c st).book = s.book ∧
      (s.foldCeiling k c st).scanner = s.scanner ∧ (s.foldCeiling k c st).notices = s.notices ∧
      (s.foldCeiling k c st).pending = s.pending := by
  unfold State.foldCeiling
  try dsimp only
  repeat' split
  all_goals simp

@[simp] theorem logClip_keeps (k : Stage) (c : Nat) (s : State) :
    (s.logClip k c).run = s.run ∧ (s.logClip k c).clock = s.clock ∧ (s.logClip k c).regs = s.regs ∧
      (s.logClip k c).ram = s.ram ∧ (s.logClip k c).acc = s.acc ∧ (s.logClip k c).gain = s.gain ∧
      (s.logClip k c).poller = s.poller ∧ (s.logClip k c).links = s.links ∧ (s.logClip k c).walker = s.walker ∧
      (s.logClip k c).book = s.book ∧ (s.logClip k c).scanner = s.scanner ∧ (s.logClip k c).notices = s.notices ∧
      (s.logClip k c).pending = s.pending := by
  unfold State.logClip
  split
  · exact ⟨forStations_keeps State.run _ (by simp) s, forStations_keeps State.clock _ (by simp) s, forStations_keeps State.regs _ (by simp) s, forStations_keeps State.ram _ (by simp) s, forStations_keeps State.acc _ (by simp) s, forStations_keeps State.gain _ (by simp) s, forStations_keeps State.poller _ (by simp) s, forStations_keeps State.links _ (by simp) s, forStations_keeps State.walker _ (by simp) s, forStations_keeps State.book _ (by simp) s, forStations_keeps State.scanner _ (by simp) s, forStations_keeps State.notices _ (by simp) s, forStations_keeps State.pending _ (by simp) s⟩
  · simp

@[simp] theorem logClosure_keeps (s : State) :
    s.logClosure.run = s.run ∧ s.logClosure.clock = s.clock ∧ s.logClosure.regs = s.regs ∧
      s.logClosure.ram = s.ram ∧ s.logClosure.acc = s.acc ∧ s.logClosure.gain = s.gain ∧
      s.logClosure.poller = s.poller ∧ s.logClosure.links = s.links ∧ s.logClosure.walker = s.walker ∧
      s.logClosure.book = s.book ∧ s.logClosure.scanner = s.scanner ∧ s.logClosure.notices = s.notices ∧
      s.logClosure.pending = s.pending := by
  unfold State.logClosure
  split
  · refine ⟨forStages_keeps State.run _ (fun _ _ => forStations_keeps State.run _ (by simp) _) _, forStages_keeps State.clock _ (fun _ _ => forStations_keeps State.clock _ (by simp) _) _, forStages_keeps State.regs _ (fun _ _ => forStations_keeps State.regs _ (by simp) _) _, forStages_keeps State.ram _ (fun _ _ => forStations_keeps State.ram _ (by simp) _) _, forStages_keeps State.acc _ (fun _ _ => forStations_keeps State.acc _ (by simp) _) _, forStages_keeps State.gain _ (fun _ _ => forStations_keeps State.gain _ (by simp) _) _, forStages_keeps State.poller _ (fun _ _ => forStations_keeps State.poller _ (by simp) _) _, forStages_keeps State.links _ (fun _ _ => forStations_keeps State.links _ (by simp) _) _, forStages_keeps State.walker _ (fun _ _ => forStations_keeps State.walker _ (by simp) _) _, forStages_keeps State.book _ (fun _ _ => forStations_keeps State.book _ (by simp) _) _, forStages_keeps State.scanner _ (fun _ _ => forStations_keeps State.scanner _ (by simp) _) _, forStages_keeps State.notices _ (fun _ _ => forStations_keeps State.notices _ (by simp) _) _, forStages_keeps State.pending _ (fun _ _ => forStations_keeps State.pending _ (by simp) _) _⟩
  · simp

@[simp] theorem readOccupancy_keeps (s : State) :
    s.readOccupancy.run = s.run ∧ s.readOccupancy.clock = s.clock ∧ s.readOccupancy.regs = s.regs ∧
      s.readOccupancy.acc = s.acc ∧ s.readOccupancy.gain = s.gain ∧ s.readOccupancy.poller = s.poller ∧
      s.readOccupancy.links = s.links ∧ s.readOccupancy.walker = s.walker ∧ s.readOccupancy.book = s.book ∧
      s.readOccupancy.scanner = s.scanner ∧ s.readOccupancy.pending = s.pending := by
  unfold State.readOccupancy
  try dsimp only
  all_goals simp

@[simp] theorem writeLogHeader_keeps (s : State) :
    s.writeLogHeader.run = s.run ∧ s.writeLogHeader.clock = s.clock ∧ s.writeLogHeader.regs = s.regs ∧
      s.writeLogHeader.acc = s.acc ∧ s.writeLogHeader.gain = s.gain ∧ s.writeLogHeader.poller = s.poller ∧
      s.writeLogHeader.links = s.links ∧ s.writeLogHeader.walker = s.walker ∧ s.writeLogHeader.book = s.book ∧
      s.writeLogHeader.scanner = s.scanner ∧ s.writeLogHeader.notices = s.notices ∧ s.writeLogHeader.log = s.log ∧
      s.writeLogHeader.pending = s.pending :=
  ⟨rfl, rfl, rfl, rfl, rfl, rfl, rfl, rfl, rfl, rfl, rfl, rfl, rfl⟩

@[simp] theorem putRecord_keeps (bytes : List Byte) (s : State) :
    (s.putRecord bytes).run = s.run ∧ (s.putRecord bytes).clock = s.clock ∧ (s.putRecord bytes).regs = s.regs ∧
      (s.putRecord bytes).acc = s.acc ∧ (s.putRecord bytes).gain = s.gain ∧ (s.putRecord bytes).poller = s.poller ∧
      (s.putRecord bytes).links = s.links ∧ (s.putRecord bytes).walker = s.walker ∧
      (s.putRecord bytes).book = s.book ∧ (s.putRecord bytes).scanner = s.scanner ∧
      (s.putRecord bytes).pending = s.pending := by
  unfold State.putRecord
  try dsimp only
  all_goals simp

@[simp] theorem writeRecord_keeps (bytes : List Byte) (given : Nat) (s : State) :
    ((s.writeRecord bytes given).1).run = s.run ∧ ((s.writeRecord bytes given).1).clock = s.clock ∧
      ((s.writeRecord bytes given).1).regs = s.regs ∧ ((s.writeRecord bytes given).1).acc = s.acc ∧
      ((s.writeRecord bytes given).1).gain = s.gain ∧ ((s.writeRecord bytes given).1).poller = s.poller ∧
      ((s.writeRecord bytes given).1).links = s.links ∧ ((s.writeRecord bytes given).1).walker = s.walker ∧
      ((s.writeRecord bytes given).1).book = s.book ∧ ((s.writeRecord bytes given).1).scanner = s.scanner ∧
      ((s.writeRecord bytes given).1).pending = s.pending := by
  unfold State.writeRecord
  try dsimp only
  repeat' split
  all_goals simp

@[simp] theorem writeRecords_keeps (minute : Nat) (f : RecordFlags) (s : State) :
    ((s.writeRecords minute f).1).run = s.run ∧ ((s.writeRecords minute f).1).clock = s.clock ∧
      ((s.writeRecords minute f).1).regs = s.regs ∧ ((s.writeRecords minute f).1).acc = s.acc ∧
      ((s.writeRecords minute f).1).gain = s.gain ∧ ((s.writeRecords minute f).1).poller = s.poller ∧
      ((s.writeRecords minute f).1).links = s.links ∧ ((s.writeRecords minute f).1).walker = s.walker ∧
      ((s.writeRecords minute f).1).book = s.book ∧ ((s.writeRecords minute f).1).scanner = s.scanner ∧
      ((s.writeRecords minute f).1).pending = s.pending := by
  unfold State.writeRecords
  refine ⟨foldl_keeps (fun p : State × Nat => p.1.run) _ ?_ _ _, foldl_keeps (fun p : State × Nat => p.1.clock) _ ?_ _ _, foldl_keeps (fun p : State × Nat => p.1.regs) _ ?_ _ _, foldl_keeps (fun p : State × Nat => p.1.acc) _ ?_ _ _, foldl_keeps (fun p : State × Nat => p.1.gain) _ ?_ _ _, foldl_keeps (fun p : State × Nat => p.1.poller) _ ?_ _ _, foldl_keeps (fun p : State × Nat => p.1.links) _ ?_ _ _, foldl_keeps (fun p : State × Nat => p.1.walker) _ ?_ _ _, foldl_keeps (fun p : State × Nat => p.1.book) _ ?_ _ _, foldl_keeps (fun p : State × Nat => p.1.scanner) _ ?_ _ _, foldl_keeps (fun p : State × Nat => p.1.pending) _ ?_ _ _⟩ <;> intros <;> split <;> simp

@[simp] theorem closeMinute_keeps (minute : Nat) (f : RecordFlags) (s : State) :
    (s.closeMinute minute f).run = s.run ∧ (s.closeMinute minute f).clock = s.clock ∧
      (s.closeMinute minute f).regs = s.regs ∧ (s.closeMinute minute f).acc = s.acc ∧
      (s.closeMinute minute f).gain = s.gain ∧ (s.closeMinute minute f).poller = s.poller ∧
      (s.closeMinute minute f).links = s.links ∧ (s.closeMinute minute f).walker = s.walker ∧
      (s.closeMinute minute f).book = s.book ∧ (s.closeMinute minute f).scanner = s.scanner ∧
      (s.closeMinute minute f).pending = s.pending := by
  unfold State.closeMinute
  dsimp only
  repeat' split
  all_goals simp

/-! ### Exposure Accumulator -/

@[simp] theorem prime_keeps (st : Station) (s : State) :
    (s.prime st).run = s.run ∧ (s.prime st).clock = s.clock ∧ (s.prime st).regs = s.regs ∧
      (s.prime st).ram = s.ram ∧ (s.prime st).gain = s.gain ∧ (s.prime st).poller = s.poller ∧
      (s.prime st).links = s.links ∧ (s.prime st).walker = s.walker ∧ (s.prime st).book = s.book ∧
      (s.prime st).scanner = s.scanner ∧ (s.prime st).notices = s.notices ∧ (s.prime st).log = s.log ∧
      (s.prime st).pending = s.pending := by
  unfold State.prime
  try dsimp only
  repeat' split
  all_goals simp

@[simp] theorem stageFive_keeps (st : Station) (s : State) :
    (s.stageFive st).run = s.run ∧ (s.stageFive st).clock = s.clock ∧ (s.stageFive st).regs = s.regs ∧
      (s.stageFive st).gain = s.gain ∧ (s.stageFive st).poller = s.poller ∧ (s.stageFive st).links = s.links ∧
      (s.stageFive st).walker = s.walker ∧ (s.stageFive st).book = s.book ∧ (s.stageFive st).scanner = s.scanner ∧
      (s.stageFive st).log = s.log ∧ (s.stageFive st).pending = s.pending := by
  unfold State.stageFive
  try dsimp only
  all_goals simp

@[simp] theorem takeControllability_keeps (k : Stage) (b : Bool) (s : State) :
    (s.takeControllability k b).run = s.run ∧ (s.takeControllability k b).clock = s.clock ∧
      (s.takeControllability k b).regs = s.regs ∧ (s.takeControllability k b).gain = s.gain ∧
      (s.takeControllability k b).poller = s.poller ∧ (s.takeControllability k b).links = s.links ∧
      (s.takeControllability k b).walker = s.walker ∧ (s.takeControllability k b).book = s.book ∧
      (s.takeControllability k b).scanner = s.scanner ∧ (s.takeControllability k b).log = s.log ∧
      (s.takeControllability k b).pending = s.pending := by
  unfold State.takeControllability
  refine ⟨(forStations_keeps State.run _ ?_ _).trans ?_, (forStations_keeps State.clock _ ?_ _).trans ?_, (forStations_keeps State.regs _ ?_ _).trans ?_, (forStations_keeps State.gain _ ?_ _).trans ?_, (forStations_keeps State.poller _ ?_ _).trans ?_, (forStations_keeps State.links _ ?_ _).trans ?_, (forStations_keeps State.walker _ ?_ _).trans ?_, (forStations_keeps State.book _ ?_ _).trans ?_, (forStations_keeps State.scanner _ ?_ _).trans ?_, (forStations_keeps State.log _ ?_ _).trans ?_, (forStations_keeps State.pending _ ?_ _).trans ?_⟩ <;> intros <;> (repeat' split) <;> simp

@[simp] theorem handExceed_keeps (st : Station) (s : State) :
    (s.handExceed st).run = s.run ∧ (s.handExceed st).clock = s.clock ∧ (s.handExceed st).regs = s.regs ∧
      (s.handExceed st).acc = s.acc ∧ (s.handExceed st).gain = s.gain ∧ (s.handExceed st).poller = s.poller ∧
      (s.handExceed st).links = s.links ∧ (s.handExceed st).walker = s.walker ∧ (s.handExceed st).book = s.book ∧
      (s.handExceed st).scanner = s.scanner ∧ (s.handExceed st).pending = s.pending := by
  unfold State.handExceed
  try dsimp only
  all_goals simp

@[simp] theorem compute_keeps (st : Station) (x : Sample) (s : State) :
    (s.compute st x).run = s.run ∧ (s.compute st x).clock = s.clock ∧ (s.compute st x).regs = s.regs ∧
      (s.compute st x).gain = s.gain ∧ (s.compute st x).poller = s.poller ∧ (s.compute st x).links = s.links ∧
      (s.compute st x).walker = s.walker ∧ (s.compute st x).book = s.book ∧ (s.compute st x).scanner = s.scanner ∧
      (s.compute st x).pending = s.pending := by
  unfold State.compute
  try dsimp only
  repeat' split
  all_goals simp

@[simp] theorem advance_keeps (st : Station) (x : Sample) (s : State) :
    (s.advance st x).run = s.run ∧ (s.advance st x).clock = s.clock ∧ (s.advance st x).regs = s.regs ∧
      (s.advance st x).ram = s.ram ∧ (s.advance st x).gain = s.gain ∧ (s.advance st x).poller = s.poller ∧
      (s.advance st x).links = s.links ∧ (s.advance st x).walker = s.walker ∧ (s.advance st x).book = s.book ∧
      (s.advance st x).scanner = s.scanner ∧ (s.advance st x).notices = s.notices ∧ (s.advance st x).log = s.log ∧
      (s.advance st x).pending = s.pending :=
  ⟨rfl, rfl, rfl, rfl, rfl, rfl, rfl, rfl, rfl, rfl, rfl, rfl, rfl⟩

@[simp] theorem advanceSilent_keeps (st : Station) (s : State) :
    (s.advanceSilent st).run = s.run ∧ (s.advanceSilent st).clock = s.clock ∧ (s.advanceSilent st).regs = s.regs ∧
      (s.advanceSilent st).ram = s.ram ∧ (s.advanceSilent st).gain = s.gain ∧
      (s.advanceSilent st).poller = s.poller ∧ (s.advanceSilent st).links = s.links ∧
      (s.advanceSilent st).walker = s.walker ∧ (s.advanceSilent st).book = s.book ∧
      (s.advanceSilent st).scanner = s.scanner ∧ (s.advanceSilent st).notices = s.notices ∧
      (s.advanceSilent st).pending = s.pending := by
  unfold State.advanceSilent
  try dsimp only
  all_goals simp

@[simp] theorem advanceRest_keeps (s : State) :
    s.advanceRest.run = s.run ∧ s.advanceRest.clock = s.clock ∧ s.advanceRest.regs = s.regs ∧
      s.advanceRest.ram = s.ram ∧ s.advanceRest.gain = s.gain ∧ s.advanceRest.poller = s.poller ∧
      s.advanceRest.links = s.links ∧ s.advanceRest.walker = s.walker ∧ s.advanceRest.book = s.book ∧
      s.advanceRest.scanner = s.scanner ∧ s.advanceRest.notices = s.notices ∧ s.advanceRest.pending = s.pending := by
  unfold State.advanceRest
  refine ⟨(forStations_keeps State.run _ ?_ _).trans ?_, (forStations_keeps State.clock _ ?_ _).trans ?_, (forStations_keeps State.regs _ ?_ _).trans ?_, (forStations_keeps State.ram _ ?_ _).trans ?_, (forStations_keeps State.gain _ ?_ _).trans ?_, (forStations_keeps State.poller _ ?_ _).trans ?_, (forStations_keeps State.links _ ?_ _).trans ?_, (forStations_keeps State.walker _ ?_ _).trans ?_, (forStations_keeps State.book _ ?_ _).trans ?_, (forStations_keeps State.scanner _ ?_ _).trans ?_, (forStations_keeps State.notices _ ?_ _).trans ?_, (forStations_keeps State.pending _ ?_ _).trans ?_⟩ <;> intros <;> (repeat' split) <;> simp

@[simp] theorem storeOutcome_keeps (st : Station) (o : SecondOutcome) (s : State) :
    (s.storeOutcome st o).run = s.run ∧ (s.storeOutcome st o).clock = s.clock ∧
      (s.storeOutcome st o).regs = s.regs ∧ (s.storeOutcome st o).gain = s.gain ∧
      (s.storeOutcome st o).poller = s.poller ∧ (s.storeOutcome st o).links = s.links ∧
      (s.storeOutcome st o).walker = s.walker ∧ (s.storeOutcome st o).book = s.book ∧
      (s.storeOutcome st o).scanner = s.scanner ∧ (s.storeOutcome st o).pending = s.pending := by
  unfold State.storeOutcome
  dsimp only
  repeat' split
  all_goals simp

@[simp] theorem putInForce_keeps (w : Nat) (set : Fin 8) (h k : Nat) (s : State) :
    (s.putInForce w set h k).run = s.run ∧ (s.putInForce w set h k).clock = s.clock ∧
      (s.putInForce w set h k).regs = s.regs ∧ (s.putInForce w set h k).ram = s.ram ∧
      (s.putInForce w set h k).gain = s.gain ∧ (s.putInForce w set h k).poller = s.poller ∧
      (s.putInForce w set h k).links = s.links ∧ (s.putInForce w set h k).walker = s.walker ∧
      (s.putInForce w set h k).book = s.book ∧ (s.putInForce w set h k).scanner = s.scanner ∧
      (s.putInForce w set h k).notices = s.notices ∧ (s.putInForce w set h k).log = s.log ∧
      (s.putInForce w set h k).pending = s.pending :=
  ⟨rfl, rfl, rfl, rfl, rfl, rfl, rfl, rfl, rfl, rfl, rfl, rfl, rfl⟩

/-! ### Stage Link Controller -/

@[simp] theorem modLink_keeps (k : Stage) (f : Link → Link) (s : State) :
    (s.modLink k f).run = s.run ∧ (s.modLink k f).clock = s.clock ∧ (s.modLink k f).regs = s.regs ∧
      (s.modLink k f).ram = s.ram ∧ (s.modLink k f).acc = s.acc ∧ (s.modLink k f).gain = s.gain ∧
      (s.modLink k f).poller = s.poller ∧ (s.modLink k f).walker = s.walker ∧ (s.modLink k f).book = s.book ∧
      (s.modLink k f).scanner = s.scanner ∧ (s.modLink k f).notices = s.notices ∧ (s.modLink k f).log = s.log ∧
      (s.modLink k f).pending = s.pending :=
  ⟨rfl, rfl, rfl, rfl, rfl, rfl, rfl, rfl, rfl, rfl, rfl, rfl, rfl⟩

@[simp] theorem hardDrop_keeps (k : Stage) (v : Nat) (s : State) :
    (s.hardDrop k v).run = s.run ∧ (s.hardDrop k v).clock = s.clock ∧ (s.hardDrop k v).regs = s.regs ∧
      (s.hardDrop k v).ram = s.ram ∧ (s.hardDrop k v).acc = s.acc ∧ (s.hardDrop k v).gain = s.gain ∧
      (s.hardDrop k v).poller = s.poller ∧ (s.hardDrop k v).walker = s.walker ∧ (s.hardDrop k v).book = s.book ∧
      (s.hardDrop k v).scanner = s.scanner ∧ (s.hardDrop k v).notices = s.notices ∧ (s.hardDrop k v).log = s.log ∧
      (s.hardDrop k v).pending = s.pending :=
  ⟨rfl, rfl, rfl, rfl, rfl, rfl, rfl, rfl, rfl, rfl, rfl, rfl, rfl⟩

@[simp] theorem reevaluateLink_keeps (k : Stage) (s : State) :
    (s.reevaluateLink k).run = s.run ∧ (s.reevaluateLink k).clock = s.clock ∧ (s.reevaluateLink k).regs = s.regs ∧
      (s.reevaluateLink k).gain = s.gain ∧ (s.reevaluateLink k).poller = s.poller ∧
      (s.reevaluateLink k).links = s.links ∧ (s.reevaluateLink k).walker = s.walker ∧
      (s.reevaluateLink k).book = s.book ∧ (s.reevaluateLink k).scanner = s.scanner ∧
      (s.reevaluateLink k).log = s.log ∧ (s.reevaluateLink k).pending = s.pending := by
  unfold State.reevaluateLink
  try dsimp only
  repeat' split
  all_goals simp

@[simp] theorem acknowledge_keeps (k : Stage) (m : LimiterState) (s : State) :
    (s.acknowledge k m).run = s.run ∧ (s.acknowledge k m).clock = s.clock ∧ (s.acknowledge k m).regs = s.regs ∧
      (s.acknowledge k m).gain = s.gain ∧ (s.acknowledge k m).poller = s.poller ∧
      (s.acknowledge k m).walker = s.walker ∧ (s.acknowledge k m).book = s.book ∧
      (s.acknowledge k m).scanner = s.scanner ∧ (s.acknowledge k m).log = s.log ∧
      (s.acknowledge k m).pending = s.pending := by
  unfold State.acknowledge
  try dsimp only
  all_goals simp

@[simp] theorem exhaust_keeps (k : Stage) (s : State) :
    (s.exhaust k).run = s.run ∧ (s.exhaust k).clock = s.clock ∧ (s.exhaust k).regs = s.regs ∧
      (s.exhaust k).gain = s.gain ∧ (s.exhaust k).poller = s.poller ∧ (s.exhaust k).walker = s.walker ∧
      (s.exhaust k).book = s.book ∧ (s.exhaust k).scanner = s.scanner ∧ (s.exhaust k).log = s.log ∧
      (s.exhaust k).pending = s.pending := by
  unfold State.exhaust
  try dsimp only
  all_goals simp

@[simp] theorem failCommand_keeps (k : Stage) (c : Command) (s : State) :
    (s.failCommand k c).run = s.run ∧ (s.failCommand k c).clock = s.clock ∧ (s.failCommand k c).regs = s.regs ∧
      (s.failCommand k c).gain = s.gain ∧ (s.failCommand k c).poller = s.poller ∧
      (s.failCommand k c).walker = s.walker ∧ (s.failCommand k c).book = s.book ∧
      (s.failCommand k c).scanner = s.scanner ∧ (s.failCommand k c).log = s.log ∧
      (s.failCommand k c).pending = s.pending := by
  unfold State.failCommand
  try dsimp only
  repeat' split
  all_goals simp

@[simp] theorem judgeAck_keeps (k : Stage) (f : Option AckFrame) (s : State) :
    (s.judgeAck k f).run = s.run ∧ (s.judgeAck k f).clock = s.clock ∧ (s.judgeAck k f).regs = s.regs ∧
      (s.judgeAck k f).gain = s.gain ∧ (s.judgeAck k f).poller = s.poller ∧ (s.judgeAck k f).walker = s.walker ∧
      (s.judgeAck k f).book = s.book ∧ (s.judgeAck k f).scanner = s.scanner ∧ (s.judgeAck k f).log = s.log ∧
      (s.judgeAck k f).pending = s.pending := by
  unfold State.judgeAck
  try dsimp only
  repeat' split
  all_goals simp

@[simp] theorem ackExpiry_keeps (k : Stage) (b : Bool) (s : State) :
    (s.ackExpiry k b).run = s.run ∧ (s.ackExpiry k b).clock = s.clock ∧ (s.ackExpiry k b).regs = s.regs ∧
      (s.ackExpiry k b).gain = s.gain ∧ (s.ackExpiry k b).poller = s.poller ∧ (s.ackExpiry k b).walker = s.walker ∧
      (s.ackExpiry k b).book = s.book ∧ (s.ackExpiry k b).scanner = s.scanner ∧ (s.ackExpiry k b).log = s.log ∧
      (s.ackExpiry k b).pending = s.pending := by
  unfold State.ackExpiry
  try dsimp only
  repeat' split
  all_goals simp

@[simp] theorem clearCharged_keeps (s : State) :
    s.clearCharged.run = s.run ∧ s.clearCharged.clock = s.clock ∧ s.clearCharged.regs = s.regs ∧
      s.clearCharged.ram = s.ram ∧ s.clearCharged.acc = s.acc ∧ s.clearCharged.gain = s.gain ∧
      s.clearCharged.poller = s.poller ∧ s.clearCharged.walker = s.walker ∧ s.clearCharged.book = s.book ∧
      s.clearCharged.scanner = s.scanner ∧ s.clearCharged.notices = s.notices ∧ s.clearCharged.log = s.log ∧
      s.clearCharged.pending = s.pending :=
  ⟨rfl, rfl, rfl, rfl, rfl, rfl, rfl, rfl, rfl, rfl, rfl, rfl, rfl⟩

@[simp] theorem offerStopCeiling_keeps (s : State) :
    s.offerStopCeiling.run = s.run ∧ s.offerStopCeiling.clock = s.clock ∧ s.offerStopCeiling.regs = s.regs ∧
      s.offerStopCeiling.ram = s.ram ∧ s.offerStopCeiling.acc = s.acc ∧ s.offerStopCeiling.gain = s.gain ∧
      s.offerStopCeiling.poller = s.poller ∧ s.offerStopCeiling.walker = s.walker ∧
      s.offerStopCeiling.book = s.book ∧ s.offerStopCeiling.scanner = s.scanner ∧
      s.offerStopCeiling.notices = s.notices ∧ s.offerStopCeiling.log = s.log ∧
      s.offerStopCeiling.pending = s.pending := by
  unfold State.offerStopCeiling
  split
  · exact ⟨forStages_keeps State.run _ (by simp) s, forStages_keeps State.clock _ (by simp) s, forStages_keeps State.regs _ (by simp) s, forStages_keeps State.ram _ (by simp) s, forStages_keeps State.acc _ (by simp) s, forStages_keeps State.gain _ (by simp) s, forStages_keeps State.poller _ (by simp) s, forStages_keeps State.walker _ (by simp) s, forStages_keeps State.book _ (by simp) s, forStages_keeps State.scanner _ (by simp) s, forStages_keeps State.notices _ (by simp) s, forStages_keeps State.log _ (by simp) s, forStages_keeps State.pending _ (by simp) s⟩
  · simp

@[simp] theorem startLinks_keeps (cfg : LinkConfig) (s : State) :
    (s.startLinks cfg).run = s.run ∧ (s.startLinks cfg).clock = s.clock ∧ (s.startLinks cfg).regs = s.regs ∧
      (s.startLinks cfg).gain = s.gain ∧ (s.startLinks cfg).poller = s.poller ∧
      (s.startLinks cfg).walker = s.walker ∧ (s.startLinks cfg).book = s.book ∧
      (s.startLinks cfg).scanner = s.scanner ∧ (s.startLinks cfg).log = s.log ∧
      (s.startLinks cfg).pending = s.pending := by
  unfold State.startLinks
  refine ⟨(forStages_keeps State.run _ ?_ _).trans ?_, (forStages_keeps State.clock _ ?_ _).trans ?_, (forStages_keeps State.regs _ ?_ _).trans ?_, (forStages_keeps State.gain _ ?_ _).trans ?_, (forStages_keeps State.poller _ ?_ _).trans ?_, (forStages_keeps State.walker _ ?_ _).trans ?_, (forStages_keeps State.book _ ?_ _).trans ?_, (forStages_keeps State.scanner _ ?_ _).trans ?_, (forStages_keeps State.log _ ?_ _).trans ?_, (forStages_keeps State.pending _ ?_ _).trans ?_⟩ <;> intros <;> (repeat' split) <;> simp

@[simp] theorem stopLinks_keeps (s : State) :
    s.stopLinks.run = s.run ∧ s.stopLinks.clock = s.clock ∧ s.stopLinks.regs = s.regs ∧ s.stopLinks.ram = s.ram ∧
      s.stopLinks.acc = s.acc ∧ s.stopLinks.gain = s.gain ∧ s.stopLinks.poller = s.poller ∧
      s.stopLinks.walker = s.walker ∧ s.stopLinks.book = s.book ∧ s.stopLinks.scanner = s.scanner ∧
      s.stopLinks.notices = s.notices ∧ s.stopLinks.log = s.log ∧ s.stopLinks.pending = s.pending := by
  unfold State.stopLinks
  split
  · exact ⟨forStages_keeps State.run _ (by simp) s, forStages_keeps State.clock _ (by simp) s, forStages_keeps State.regs _ (by simp) s, forStages_keeps State.ram _ (by simp) s, forStages_keeps State.acc _ (by simp) s, forStages_keeps State.gain _ (by simp) s, forStages_keeps State.poller _ (by simp) s, forStages_keeps State.walker _ (by simp) s, forStages_keeps State.book _ (by simp) s, forStages_keeps State.scanner _ (by simp) s, forStages_keeps State.notices _ (by simp) s, forStages_keeps State.log _ (by simp) s, forStages_keeps State.pending _ (by simp) s⟩
  · simp

/-! ### Gain Allocator -/

@[simp] theorem stageConditions_keeps (k : Stage) (s : State) :
    (s.stageConditions k).run = s.run ∧ (s.stageConditions k).clock = s.clock ∧
      (s.stageConditions k).regs = s.regs ∧ (s.stageConditions k).acc = s.acc ∧
      (s.stageConditions k).gain = s.gain ∧ (s.stageConditions k).poller = s.poller ∧
      (s.stageConditions k).links = s.links ∧ (s.stageConditions k).walker = s.walker ∧
      (s.stageConditions k).book = s.book ∧ (s.stageConditions k).scanner = s.scanner ∧
      (s.stageConditions k).log = s.log ∧ (s.stageConditions k).pending = s.pending := by
  unfold State.stageConditions
  try dsimp only
  repeat' split
  all_goals simp

@[simp] theorem clipStage_keeps (k : Stage) (s : State) :
    (s.clipStage k).run = s.run ∧ (s.clipStage k).clock = s.clock ∧ (s.clipStage k).regs = s.regs ∧
      (s.clipStage k).acc = s.acc ∧ (s.clipStage k).poller = s.poller ∧ (s.clipStage k).walker = s.walker ∧
      (s.clipStage k).book = s.book ∧ (s.clipStage k).scanner = s.scanner ∧ (s.clipStage k).pending = s.pending := by
  unfold State.clipStage
  try dsimp only
  repeat' split
  all_goals simp

@[simp] theorem changeTerms_keeps (f : Stage → GainStage → GainStage) (s : State) :
    (s.changeTerms f).run = s.run ∧ (s.changeTerms f).clock = s.clock ∧ (s.changeTerms f).regs = s.regs ∧
      (s.changeTerms f).acc = s.acc ∧ (s.changeTerms f).poller = s.poller ∧ (s.changeTerms f).walker = s.walker ∧
      (s.changeTerms f).book = s.book ∧ (s.changeTerms f).scanner = s.scanner ∧
      (s.changeTerms f).pending = s.pending := by
  unfold State.changeTerms
  refine ⟨(forStages_keeps State.run _ ?_ _).trans ?_, (forStages_keeps State.clock _ ?_ _).trans ?_, (forStages_keeps State.regs _ ?_ _).trans ?_, (forStages_keeps State.acc _ ?_ _).trans ?_, (forStages_keeps State.poller _ ?_ _).trans ?_, (forStages_keeps State.walker _ ?_ _).trans ?_, (forStages_keeps State.book _ ?_ _).trans ?_, (forStages_keeps State.scanner _ ?_ _).trans ?_, (forStages_keeps State.pending _ ?_ _).trans ?_⟩ <;> intros <;> (repeat' split) <;> simp

@[simp] theorem evaluateLost_keeps (s : State) :
    s.evaluateLost.run = s.run ∧ s.evaluateLost.clock = s.clock ∧ s.evaluateLost.regs = s.regs ∧
      s.evaluateLost.acc = s.acc ∧ s.evaluateLost.poller = s.poller ∧ s.evaluateLost.walker = s.walker ∧
      s.evaluateLost.book = s.book ∧ s.evaluateLost.scanner = s.scanner ∧ s.evaluateLost.pending = s.pending := by
  unfold State.evaluateLost
  try dsimp only
  all_goals simp

@[simp] theorem setAmbientMute_keeps (b : Bool) (s : State) :
    (s.setAmbientMute b).run = s.run ∧ (s.setAmbientMute b).clock = s.clock ∧ (s.setAmbientMute b).regs = s.regs ∧
      (s.setAmbientMute b).acc = s.acc ∧ (s.setAmbientMute b).poller = s.poller ∧
      (s.setAmbientMute b).walker = s.walker ∧ (s.setAmbientMute b).book = s.book ∧
      (s.setAmbientMute b).scanner = s.scanner ∧ (s.setAmbientMute b).pending = s.pending := by
  unfold State.setAmbientMute
  try dsimp only
  repeat' split
  all_goals simp

@[simp] theorem setImmediateMute_keeps (b : Bool) (s : State) :
    (s.setImmediateMute b).run = s.run ∧ (s.setImmediateMute b).clock = s.clock ∧
      (s.setImmediateMute b).regs = s.regs ∧ (s.setImmediateMute b).acc = s.acc ∧
      (s.setImmediateMute b).poller = s.poller ∧ (s.setImmediateMute b).walker = s.walker ∧
      (s.setImmediateMute b).book = s.book ∧ (s.setImmediateMute b).scanner = s.scanner ∧
      (s.setImmediateMute b).pending = s.pending := by
  unfold State.setImmediateMute
  try dsimp only
  repeat' split
  all_goals simp

@[simp] theorem setHold_keeps (k : Stage) (v : Option Nat) (s : State) :
    (s.setHold k v).run = s.run ∧ (s.setHold k v).clock = s.clock ∧ (s.setHold k v).regs = s.regs ∧
      (s.setHold k v).acc = s.acc ∧ (s.setHold k v).poller = s.poller ∧ (s.setHold k v).walker = s.walker ∧
      (s.setHold k v).book = s.book ∧ (s.setHold k v).scanner = s.scanner ∧ (s.setHold k v).pending = s.pending := by
  unfold State.setHold
  try dsimp only
  all_goals simp

@[simp] theorem rampAll_keeps (s : State) :
    s.rampAll.run = s.run ∧ s.rampAll.clock = s.clock ∧ s.rampAll.regs = s.regs ∧ s.rampAll.ram = s.ram ∧
      s.rampAll.acc = s.acc ∧ s.rampAll.poller = s.poller ∧ s.rampAll.links = s.links ∧
      s.rampAll.walker = s.walker ∧ s.rampAll.book = s.book ∧ s.rampAll.scanner = s.scanner ∧
      s.rampAll.notices = s.notices ∧ s.rampAll.log = s.log ∧ s.rampAll.pending = s.pending := by
  unfold State.rampAll
  try dsimp only
  repeat' split
  all_goals simp

@[simp] theorem driveGain_keeps (s : State) :
    s.driveGain.run = s.run ∧ s.driveGain.clock = s.clock ∧ s.driveGain.regs = s.regs ∧ s.driveGain.acc = s.acc ∧
      s.driveGain.poller = s.poller ∧ s.driveGain.walker = s.walker ∧ s.driveGain.book = s.book ∧
      s.driveGain.scanner = s.scanner ∧ s.driveGain.pending = s.pending := by
  unfold State.driveGain
  refine ⟨(forStages_keeps State.run _ (by simp) _).trans ?_, (forStages_keeps State.clock _ (by simp) _).trans ?_, (forStages_keeps State.regs _ (by simp) _).trans ?_, (forStages_keeps State.acc _ (by simp) _).trans ?_, (forStages_keeps State.poller _ (by simp) _).trans ?_, (forStages_keeps State.walker _ (by simp) _).trans ?_, (forStages_keeps State.book _ (by simp) _).trans ?_, (forStages_keeps State.scanner _ (by simp) _).trans ?_, (forStages_keeps State.pending _ (by simp) _).trans ?_⟩ <;> simp <;> first | exact (forStages_keeps State.run _ (by simp) _).trans (by simp) | exact (forStages_keeps State.clock _ (by simp) _).trans (by simp) | exact (forStages_keeps State.regs _ (by simp) _).trans (by simp) | exact (forStages_keeps State.acc _ (by simp) _).trans (by simp) | exact (forStages_keeps State.poller _ (by simp) _).trans (by simp) | exact (forStages_keeps State.walker _ (by simp) _).trans (by simp) | exact (forStages_keeps State.book _ (by simp) _).trans (by simp) | exact (forStages_keeps State.scanner _ (by simp) _).trans (by simp) | exact (forStages_keeps State.pending _ (by simp) _).trans (by simp)

@[simp] theorem startGain_keeps (s : State) :
    s.startGain.run = s.run ∧ s.startGain.clock = s.clock ∧ s.startGain.regs = s.regs ∧ s.startGain.acc = s.acc ∧
      s.startGain.poller = s.poller ∧ s.startGain.walker = s.walker ∧ s.startGain.book = s.book ∧
      s.startGain.scanner = s.scanner ∧ s.startGain.pending = s.pending := by
  unfold State.startGain
  refine ⟨(forStages_keeps State.run _ ?_ _).trans ?_, (forStages_keeps State.clock _ ?_ _).trans ?_, (forStages_keeps State.regs _ ?_ _).trans ?_, (forStages_keeps State.acc _ ?_ _).trans ?_, (forStages_keeps State.poller _ ?_ _).trans ?_, (forStages_keeps State.walker _ ?_ _).trans ?_, (forStages_keeps State.book _ ?_ _).trans ?_, (forStages_keeps State.scanner _ ?_ _).trans ?_, (forStages_keeps State.pending _ ?_ _).trans ?_⟩ <;> intros <;> (repeat' split) <;> simp

@[simp] theorem stopGain_keeps (s : State) :
    s.stopGain.run = s.run ∧ s.stopGain.clock = s.clock ∧ s.stopGain.regs = s.regs ∧ s.stopGain.ram = s.ram ∧
      s.stopGain.acc = s.acc ∧ s.stopGain.poller = s.poller ∧ s.stopGain.links = s.links ∧
      s.stopGain.walker = s.walker ∧ s.stopGain.book = s.book ∧ s.stopGain.scanner = s.scanner ∧
      s.stopGain.notices = s.notices ∧ s.stopGain.log = s.log ∧ s.stopGain.pending = s.pending :=
  ⟨rfl, rfl, rfl, rfl, rfl, rfl, rfl, rfl, rfl, rfl, rfl, rfl, rfl⟩

/-! ### Schedule Walker -/

@[simp] theorem activate_keeps (cause : PassCause) (b : Bool) (e : LimitEntry) (s : State) :
    (s.activate cause b e).run = s.run ∧ (s.activate cause b e).clock = s.clock ∧
      (s.activate cause b e).regs = s.regs ∧ (s.activate cause b e).poller = s.poller ∧
      (s.activate cause b e).book = s.book ∧ (s.activate cause b e).scanner = s.scanner ∧
      (s.activate cause b e).pending = s.pending := by
  unfold State.activate
  try dsimp only
  repeat' split
  all_goals simp

@[simp] theorem reportFault_keeps (reason : FaultReason) (entry link : Nat) (found : WalkerState) (s : State) :
    (s.reportFault reason entry link found).run = s.run ∧ (s.reportFault reason entry link found).clock = s.clock ∧
      (s.reportFault reason entry link found).regs = s.regs ∧ (s.reportFault reason entry link found).acc = s.acc ∧
      (s.reportFault reason entry link found).gain = s.gain ∧
      (s.reportFault reason entry link found).poller = s.poller ∧
      (s.reportFault reason entry link found).links = s.links ∧
      (s.reportFault reason entry link found).walker = s.walker ∧
      (s.reportFault reason entry link found).book = s.book ∧
      (s.reportFault reason entry link found).scanner = s.scanner ∧
      (s.reportFault reason entry link found).log = s.log ∧
      (s.reportFault reason entry link found).pending = s.pending := by
  unfold State.reportFault
  try dsimp only
  all_goals simp

@[simp] theorem endPass_keeps (cause : PassCause) (b : Bool) (found : WalkerState) (p : Pass) (s : State) :
    (s.endPass cause b found p).run = s.run ∧ (s.endPass cause b found p).clock = s.clock ∧
      (s.endPass cause b found p).regs = s.regs ∧ (s.endPass cause b found p).poller = s.poller ∧
      (s.endPass cause b found p).book = s.book ∧ (s.endPass cause b found p).scanner = s.scanner ∧
      (s.endPass cause b found p).pending = s.pending := by
  unfold State.endPass
  repeat' split
  all_goals simp

@[simp] theorem walkerSecond_keeps (s : State) :
    s.walkerSecond.run = s.run ∧ s.walkerSecond.clock = s.clock ∧ s.walkerSecond.regs = s.regs ∧
      s.walkerSecond.poller = s.poller ∧ s.walkerSecond.book = s.book ∧ s.walkerSecond.scanner = s.scanner ∧
      s.walkerSecond.pending = s.pending := by
  unfold State.walkerSecond
  try dsimp only
  repeat' split
  all_goals simp

@[simp] theorem walkerMoved_keeps (s : State) :
    s.walkerMoved.run = s.run ∧ s.walkerMoved.clock = s.clock ∧ s.walkerMoved.regs = s.regs ∧
      s.walkerMoved.poller = s.poller ∧ s.walkerMoved.book = s.book ∧ s.walkerMoved.scanner = s.scanner ∧
      s.walkerMoved.pending = s.pending := by
  unfold State.walkerMoved
  try dsimp only
  repeat' split
  all_goals simp

@[simp] theorem leaveFaulted_keeps (s : State) :
    s.leaveFaulted.run = s.run ∧ s.leaveFaulted.clock = s.clock ∧ s.leaveFaulted.regs = s.regs ∧
      s.leaveFaulted.acc = s.acc ∧ s.leaveFaulted.poller = s.poller ∧ s.leaveFaulted.walker = s.walker ∧
      s.leaveFaulted.book = s.book ∧ s.leaveFaulted.scanner = s.scanner ∧ s.leaveFaulted.pending = s.pending := by
  unfold State.leaveFaulted
  try dsimp only
  repeat' split
  all_goals simp

@[simp] theorem walkerRestart_keeps (s : State) :
    s.walkerRestart.1.run = s.run ∧ s.walkerRestart.1.clock = s.clock ∧ s.walkerRestart.1.regs = s.regs ∧
      s.walkerRestart.1.poller = s.poller ∧ s.walkerRestart.1.book = s.book ∧
      s.walkerRestart.1.scanner = s.scanner ∧ s.walkerRestart.1.pending = s.pending := by
  unfold State.walkerRestart
  try dsimp only
  all_goals simp

@[simp] theorem walkerResume_keeps (p : Pause) (holder : Byte) (s : State) :
    ((s.walkerResume p holder).1).run = s.run ∧ ((s.walkerResume p holder).1).clock = s.clock ∧
      ((s.walkerResume p holder).1).regs = s.regs ∧ ((s.walkerResume p holder).1).poller = s.poller ∧
      ((s.walkerResume p holder).1).book = s.book ∧ ((s.walkerResume p holder).1).scanner = s.scanner ∧
      ((s.walkerResume p holder).1).pending = s.pending := by
  unfold State.walkerResume
  try dsimp only
  all_goals simp

/-! ### Request Scanner and ambient measurement -/

@[simp] theorem notifyDone_keeps (i : Slot) (copy : List Byte) (code : Nat) (s : State) :
    (s.notifyDone i copy code).run = s.run ∧ (s.notifyDone i copy code).clock = s.clock ∧
      (s.notifyDone i copy code).regs = s.regs ∧ (s.notifyDone i copy code).acc = s.acc ∧
      (s.notifyDone i copy code).gain = s.gain ∧ (s.notifyDone i copy code).poller = s.poller ∧
      (s.notifyDone i copy code).links = s.links ∧ (s.notifyDone i copy code).walker = s.walker ∧
      (s.notifyDone i copy code).book = s.book ∧ (s.notifyDone i copy code).scanner = s.scanner ∧
      (s.notifyDone i copy code).log = s.log ∧ (s.notifyDone i copy code).pending = s.pending := by
  unfold State.notifyDone
  try dsimp only
  repeat' split
  all_goals simp

@[simp] theorem answer_keeps (i : Slot) (copy : List Byte) (reply : Reply) (s : State) :
    (s.answer i copy reply).run = s.run ∧ (s.answer i copy reply).clock = s.clock ∧
      (s.answer i copy reply).regs = s.regs ∧ (s.answer i copy reply).acc = s.acc ∧
      (s.answer i copy reply).gain = s.gain ∧ (s.answer i copy reply).poller = s.poller ∧
      (s.answer i copy reply).links = s.links ∧ (s.answer i copy reply).walker = s.walker ∧
      (s.answer i copy reply).book = s.book ∧ (s.answer i copy reply).scanner = s.scanner ∧
      (s.answer i copy reply).log = s.log ∧ (s.answer i copy reply).pending = s.pending := by
  unfold State.answer
  try dsimp only
  repeat' split
  all_goals simp

@[simp] theorem complete_keeps (i : Slot) (results : List Result) (s : State) :
    (s.complete i results).run = s.run ∧ (s.complete i results).clock = s.clock ∧
      (s.complete i results).regs = s.regs ∧ (s.complete i results).acc = s.acc ∧
      (s.complete i results).gain = s.gain ∧ (s.complete i results).poller = s.poller ∧
      (s.complete i results).links = s.links ∧ (s.complete i results).walker = s.walker ∧
      (s.complete i results).book = s.book ∧ (s.complete i results).log = s.log ∧
      (s.complete i results).pending = s.pending := by
  unfold State.complete
  try dsimp only
  repeat' split
  all_goals simp

@[simp] theorem endAmbient_keeps (s : State) :
    s.endAmbient.run = s.run ∧ s.endAmbient.clock = s.clock ∧ s.endAmbient.regs = s.regs ∧
      s.endAmbient.ram = s.ram ∧ s.endAmbient.gain = s.gain ∧ s.endAmbient.poller = s.poller ∧
      s.endAmbient.links = s.links ∧ s.endAmbient.walker = s.walker ∧ s.endAmbient.book = s.book ∧
      s.endAmbient.scanner = s.scanner ∧ s.endAmbient.notices = s.notices ∧ s.endAmbient.log = s.log ∧
      s.endAmbient.pending = s.pending :=
  ⟨rfl, rfl, rfl, rfl, rfl, rfl, rfl, rfl, rfl, rfl, rfl, rfl, rfl⟩

@[simp] theorem completeAmbient_keeps (m : Ambient) (s : State) :
    (s.completeAmbient m).run = s.run ∧ (s.completeAmbient m).clock = s.clock ∧
      (s.completeAmbient m).regs = s.regs ∧ (s.completeAmbient m).poller = s.poller ∧
      (s.completeAmbient m).walker = s.walker ∧ (s.completeAmbient m).pending = s.pending := by
  unfold State.completeAmbient
  try dsimp only
  all_goals simp

@[simp] theorem abortAmbient_keeps (s : State) :
    s.abortAmbient.run = s.run ∧ s.abortAmbient.clock = s.clock ∧ s.abortAmbient.regs = s.regs ∧
      s.abortAmbient.poller = s.poller ∧ s.abortAmbient.walker = s.walker ∧ s.abortAmbient.book = s.book ∧
      s.abortAmbient.pending = s.pending := by
  unfold State.abortAmbient
  try dsimp only
  all_goals simp

@[simp] theorem ambientClosure_keeps (s : State) :
    s.ambientClosure.run = s.run ∧ s.ambientClosure.clock = s.clock ∧ s.ambientClosure.regs = s.regs ∧
      s.ambientClosure.poller = s.poller ∧ s.ambientClosure.walker = s.walker ∧ s.ambientClosure.pending = s.pending := by
  unfold State.ambientClosure
  try dsimp only
  repeat' split
  all_goals simp

/-! ### Station Poller -/

@[simp] theorem setStationState_keeps (st : Station) (v : StationState) (s : State) :
    (s.setStationState st v).run = s.run ∧ (s.setStationState st v).clock = s.clock ∧
      (s.setStationState st v).regs = s.regs ∧ (s.setStationState st v).acc = s.acc ∧
      (s.setStationState st v).walker = s.walker ∧ (s.setStationState st v).book = s.book ∧
      (s.setStationState st v).scanner = s.scanner ∧ (s.setStationState st v).pending = s.pending := by
  unfold State.setStationState
  try dsimp only
  repeat' split
  all_goals simp

@[simp] theorem takeOutcome_keeps (st : Station) (o : SecondOutcome) (s : State) :
    (s.takeOutcome st o).run = s.run ∧ (s.takeOutcome st o).clock = s.clock ∧ (s.takeOutcome st o).regs = s.regs ∧
      (s.takeOutcome st o).walker = s.walker ∧ (s.takeOutcome st o).book = s.book ∧
      (s.takeOutcome st o).scanner = s.scanner ∧ (s.takeOutcome st o).pending = s.pending := by
  unfold State.takeOutcome
  try dsimp only
  repeat' split
  all_goals simp

@[simp] theorem reportLoop_keeps (l : Loop) (s : State) :
    (s.reportLoop l).run = s.run ∧ (s.reportLoop l).clock = s.clock ∧ (s.reportLoop l).regs = s.regs ∧
      (s.reportLoop l).acc = s.acc ∧ (s.reportLoop l).gain = s.gain ∧ (s.reportLoop l).poller = s.poller ∧
      (s.reportLoop l).links = s.links ∧ (s.reportLoop l).walker = s.walker ∧ (s.reportLoop l).book = s.book ∧
      (s.reportLoop l).scanner = s.scanner ∧ (s.reportLoop l).log = s.log ∧ (s.reportLoop l).pending = s.pending := by
  unfold State.reportLoop
  try dsimp only
  all_goals simp

@[simp] theorem modLoop_keeps (l : Loop) (f : LoopLine → LoopLine) (s : State) :
    (s.modLoop l f).run = s.run ∧ (s.modLoop l f).clock = s.clock ∧ (s.modLoop l f).regs = s.regs ∧
      (s.modLoop l f).acc = s.acc ∧ (s.modLoop l f).gain = s.gain ∧ (s.modLoop l f).links = s.links ∧
      (s.modLoop l f).walker = s.walker ∧ (s.modLoop l f).book = s.book ∧ (s.modLoop l f).scanner = s.scanner ∧
      (s.modLoop l f).log = s.log ∧ (s.modLoop l f).pending = s.pending := by
  unfold State.modLoop
  try dsimp only
  all_goals simp

@[simp] theorem putPoll_keeps (l : Loop) (a : Nat) (s : State) :
    ((s.putPoll l a).1).run = s.run ∧ ((s.putPoll l a).1).clock = s.clock ∧ ((s.putPoll l a).1).regs = s.regs ∧
      ((s.putPoll l a).1).ram = s.ram ∧ ((s.putPoll l a).1).acc = s.acc ∧ ((s.putPoll l a).1).gain = s.gain ∧
      ((s.putPoll l a).1).links = s.links ∧ ((s.putPoll l a).1).walker = s.walker ∧
      ((s.putPoll l a).1).book = s.book ∧ ((s.putPoll l a).1).scanner = s.scanner ∧
      ((s.putPoll l a).1).notices = s.notices ∧ ((s.putPoll l a).1).log = s.log ∧
      ((s.putPoll l a).1).pending = s.pending := by
  unfold State.putPoll
  try dsimp only
  repeat' split
  all_goals simp

@[simp] theorem sendAttempt_keeps (e : Exchange) (s : State) :
    (s.sendAttempt e).run = s.run ∧ (s.sendAttempt e).clock = s.clock ∧ (s.sendAttempt e).regs = s.regs ∧
      (s.sendAttempt e).ram = s.ram ∧ (s.sendAttempt e).acc = s.acc ∧ (s.sendAttempt e).gain = s.gain ∧
      (s.sendAttempt e).links = s.links ∧ (s.sendAttempt e).walker = s.walker ∧
      (s.sendAttempt e).book = s.book ∧ (s.sendAttempt e).scanner = s.scanner ∧
      (s.sendAttempt e).notices = s.notices ∧ (s.sendAttempt e).log = s.log ∧
      (s.sendAttempt e).pending = s.pending := by
  unfold State.sendAttempt
  simp


@[simp] theorem beginExchange_keeps (st : Station) (e : StationEntry) (s : State) :
    (s.beginExchange st e).run = s.run ∧ (s.beginExchange st e).clock = s.clock ∧
      (s.beginExchange st e).regs = s.regs ∧ (s.beginExchange st e).ram = s.ram ∧
      (s.beginExchange st e).acc = s.acc ∧ (s.beginExchange st e).gain = s.gain ∧
      (s.beginExchange st e).links = s.links ∧ (s.beginExchange st e).walker = s.walker ∧
      (s.beginExchange st e).book = s.book ∧ (s.beginExchange st e).scanner = s.scanner ∧
      (s.beginExchange st e).notices = s.notices ∧ (s.beginExchange st e).log = s.log ∧
      (s.beginExchange st e).pending = s.pending := by
  unfold State.beginExchange
  exact sendAttempt_keeps _ _


@[simp] theorem retry_keeps (e : Exchange) (s : State) :
    (s.retry e).run = s.run ∧ (s.retry e).clock = s.clock ∧ (s.retry e).regs = s.regs ∧
      (s.retry e).ram = s.ram ∧ (s.retry e).acc = s.acc ∧ (s.retry e).gain = s.gain ∧
      (s.retry e).links = s.links ∧ (s.retry e).walker = s.walker ∧ (s.retry e).book = s.book ∧
      (s.retry e).scanner = s.scanner ∧ (s.retry e).notices = s.notices ∧ (s.retry e).log = s.log ∧
      (s.retry e).pending = s.pending := by
  unfold State.retry
  exact sendAttempt_keeps _ _


@[simp] theorem beginProbe_keeps (s : State) :
    s.beginProbe.run = s.run ∧ s.beginProbe.clock = s.clock ∧ s.beginProbe.regs = s.regs ∧
      s.beginProbe.ram = s.ram ∧ s.beginProbe.acc = s.acc ∧ s.beginProbe.gain = s.gain ∧
      s.beginProbe.links = s.links ∧ s.beginProbe.walker = s.walker ∧ s.beginProbe.book = s.book ∧
      s.beginProbe.scanner = s.scanner ∧ s.beginProbe.notices = s.notices ∧ s.beginProbe.log = s.log ∧
      s.beginProbe.pending = s.pending := by
  unfold State.beginProbe
  try dsimp only
  repeat' split
  all_goals simp

@[simp] theorem endProbe_keeps (p : Probe) (f : LoopLine → LoopLine) (s : State) :
    (s.endProbe p f).run = s.run ∧ (s.endProbe p f).clock = s.clock ∧ (s.endProbe p f).regs = s.regs ∧
      (s.endProbe p f).acc = s.acc ∧ (s.endProbe p f).gain = s.gain ∧ (s.endProbe p f).links = s.links ∧
      (s.endProbe p f).walker = s.walker ∧ (s.endProbe p f).book = s.book ∧ (s.endProbe p f).scanner = s.scanner ∧
      (s.endProbe p f).log = s.log ∧ (s.endProbe p f).pending = s.pending := by
  unfold State.endProbe
  try dsimp only
  all_goals simp

@[simp] theorem abandonProbe_keeps (s : State) :
    s.abandonProbe.run = s.run ∧ s.abandonProbe.clock = s.clock ∧ s.abandonProbe.regs = s.regs ∧
      s.abandonProbe.ram = s.ram ∧ s.abandonProbe.acc = s.acc ∧ s.abandonProbe.gain = s.gain ∧
      s.abandonProbe.links = s.links ∧ s.abandonProbe.walker = s.walker ∧ s.abandonProbe.book = s.book ∧
      s.abandonProbe.scanner = s.scanner ∧ s.abandonProbe.notices = s.notices ∧ s.abandonProbe.log = s.log ∧
      s.abandonProbe.pending = s.pending := by
  unfold State.abandonProbe
  try dsimp only
  repeat' split
  all_goals simp

@[simp] theorem countProbes_keeps (s : State) :
    s.countProbes.run = s.run ∧ s.countProbes.clock = s.clock ∧ s.countProbes.regs = s.regs ∧
      s.countProbes.ram = s.ram ∧ s.countProbes.acc = s.acc ∧ s.countProbes.gain = s.gain ∧
      s.countProbes.links = s.links ∧ s.countProbes.walker = s.walker ∧ s.countProbes.book = s.book ∧
      s.countProbes.scanner = s.scanner ∧ s.countProbes.notices = s.notices ∧ s.countProbes.log = s.log ∧
      s.countProbes.pending = s.pending := by
  unfold State.countProbes
  try dsimp only
  all_goals simp

@[simp] theorem takeProbes_keeps (s : State) :
    s.takeProbes.run = s.run ∧ s.takeProbes.clock = s.clock ∧ s.takeProbes.regs = s.regs ∧
      s.takeProbes.ram = s.ram ∧ s.takeProbes.acc = s.acc ∧ s.takeProbes.gain = s.gain ∧
      s.takeProbes.links = s.links ∧ s.takeProbes.walker = s.walker ∧ s.takeProbes.book = s.book ∧
      s.takeProbes.scanner = s.scanner ∧ s.takeProbes.notices = s.notices ∧ s.takeProbes.log = s.log ∧
      s.takeProbes.pending = s.pending := by
  unfold State.takeProbes
  try dsimp only
  all_goals simp

@[simp] theorem closeRound_keeps (s : State) :
    s.closeRound.run = s.run ∧ s.closeRound.clock = s.clock ∧ s.closeRound.regs = s.regs ∧
      s.closeRound.walker = s.walker ∧ s.closeRound.pending = s.pending := by
  unfold State.closeRound
  try dsimp only
  all_goals simp

@[simp] theorem closeByLastOutcome_keeps (s : State) :
    s.closeByLastOutcome.run = s.run ∧ s.closeByLastOutcome.clock = s.clock ∧ s.closeByLastOutcome.regs = s.regs ∧
      s.closeByLastOutcome.walker = s.walker ∧ s.closeByLastOutcome.pending = s.pending := by
  unfold State.closeByLastOutcome
  try dsimp only
  all_goals simp

@[simp] theorem handMissing_keeps (sts : List Station) (s : State) :
    (s.handMissing sts).run = s.run ∧ (s.handMissing sts).clock = s.clock ∧ (s.handMissing sts).regs = s.regs ∧
      (s.handMissing sts).walker = s.walker ∧ (s.handMissing sts).book = s.book ∧
      (s.handMissing sts).scanner = s.scanner ∧ (s.handMissing sts).pending = s.pending := by
  unfold State.handMissing
  exact ⟨foldl_keeps State.run _ (by simp) _ _, foldl_keeps State.clock _ (by simp) _ _, foldl_keeps State.regs _ (by simp) _ _, foldl_keeps State.walker _ (by simp) _ _, foldl_keeps State.book _ (by simp) _ _, foldl_keeps State.scanner _ (by simp) _ _, foldl_keeps State.pending _ (by simp) _ _⟩

@[simp] theorem closeByDeadline_keeps (s : State) :
    s.closeByDeadline.run = s.run ∧ s.closeByDeadline.clock = s.clock ∧ s.closeByDeadline.regs = s.regs ∧
      s.closeByDeadline.walker = s.walker ∧ s.closeByDeadline.pending = s.pending := by
  unfold State.closeByDeadline
  try dsimp only
  repeat' split
  all_goals simp

@[simp] theorem proceed_keeps (s : State) :
    s.proceed.run = s.run ∧ s.proceed.clock = s.clock ∧ s.proceed.regs = s.regs ∧ s.proceed.walker = s.walker ∧
      s.proceed.pending = s.pending := by
  unfold State.proceed
  try dsimp only
  repeat' split
  all_goals simp

@[simp] theorem settle_keeps (e : Exchange) (s : State) :
    (s.settle e).run = s.run ∧ (s.settle e).clock = s.clock ∧ (s.settle e).regs = s.regs ∧
      (s.settle e).ram = s.ram ∧ (s.settle e).acc = s.acc ∧ (s.settle e).gain = s.gain ∧
      (s.settle e).links = s.links ∧ (s.settle e).walker = s.walker ∧ (s.settle e).book = s.book ∧
      (s.settle e).scanner = s.scanner ∧ (s.settle e).notices = s.notices ∧ (s.settle e).log = s.log ∧
      (s.settle e).pending = s.pending :=
  ⟨rfl, rfl, rfl, rfl, rfl, rfl, rfl, rfl, rfl, rfl, rfl, rfl, rfl⟩

@[simp] theorem endExchange_keeps (e : Exchange) (o : SecondOutcome) (s : State) :
    (s.endExchange e o).run = s.run ∧ (s.endExchange e o).clock = s.clock ∧ (s.endExchange e o).regs = s.regs ∧
      (s.endExchange e o).walker = s.walker ∧ (s.endExchange e o).pending = s.pending := by
  unfold State.endExchange
  try dsimp only
  all_goals simp

@[simp] theorem failAttempt_keeps (e : Exchange) (s : State) :
    (s.failAttempt e).run = s.run ∧ (s.failAttempt e).clock = s.clock ∧ (s.failAttempt e).regs = s.regs ∧
      (s.failAttempt e).walker = s.walker ∧ (s.failAttempt e).pending = s.pending := by
  unfold State.failAttempt
  try dsimp only
  repeat' split
  all_goals simp

@[simp] theorem openRound_keeps (s : State) :
    s.openRound.run = s.run ∧ s.openRound.clock = s.clock ∧ s.openRound.regs = s.regs ∧
      s.openRound.walker = s.walker ∧ s.openRound.pending = s.pending := by
  unfold State.openRound
  try dsimp only
  all_goals simp

@[simp] theorem pollerSecond_keeps (s : State) :
    s.pollerSecond.run = s.run ∧ s.pollerSecond.clock = s.clock ∧ s.pollerSecond.regs = s.regs ∧
      s.pollerSecond.walker = s.walker ∧ s.pollerSecond.pending = s.pending := by
  unfold State.pollerSecond
  try dsimp only
  repeat' split
  all_goals simp

@[simp] theorem completeTest_keeps (t : LoopTest) (s : State) :
    (s.completeTest t).run = s.run ∧ (s.completeTest t).clock = s.clock ∧ (s.completeTest t).regs = s.regs ∧
      (s.completeTest t).acc = s.acc ∧ (s.completeTest t).gain = s.gain ∧ (s.completeTest t).links = s.links ∧
      (s.completeTest t).walker = s.walker ∧ (s.completeTest t).book = s.book ∧ (s.completeTest t).log = s.log ∧
      (s.completeTest t).pending = s.pending := by
  unfold State.completeTest
  try dsimp only
  all_goals simp

@[simp] theorem endTestFrame_keeps (t : LoopTest) (b : Bool) (s : State) :
    (s.endTestFrame t b).run = s.run ∧ (s.endTestFrame t b).clock = s.clock ∧ (s.endTestFrame t b).regs = s.regs ∧
      (s.endTestFrame t b).acc = s.acc ∧ (s.endTestFrame t b).gain = s.gain ∧
      (s.endTestFrame t b).links = s.links ∧ (s.endTestFrame t b).walker = s.walker ∧
      (s.endTestFrame t b).book = s.book ∧ (s.endTestFrame t b).log = s.log ∧
      (s.endTestFrame t b).pending = s.pending := by
  unfold State.endTestFrame
  try dsimp only
  repeat' split
  all_goals simp

@[simp] theorem frameAtExchange_keeps (l : Loop) (e : Exchange) (r : ReplyKind) (s : State) :
    (s.frameAtExchange l e r).run = s.run ∧ (s.frameAtExchange l e r).clock = s.clock ∧
      (s.frameAtExchange l e r).regs = s.regs ∧ (s.frameAtExchange l e r).walker = s.walker ∧
      (s.frameAtExchange l e r).pending = s.pending := by
  unfold State.frameAtExchange
  try dsimp only
  repeat' split
  all_goals simp

@[simp] theorem frameAtProbe_keeps (l : Loop) (p : Probe) (r : ReplyKind) (s : State) :
    (s.frameAtProbe l p r).run = s.run ∧ (s.frameAtProbe l p r).clock = s.clock ∧
      (s.frameAtProbe l p r).regs = s.regs ∧ (s.frameAtProbe l p r).acc = s.acc ∧
      (s.frameAtProbe l p r).gain = s.gain ∧ (s.frameAtProbe l p r).links = s.links ∧
      (s.frameAtProbe l p r).walker = s.walker ∧ (s.frameAtProbe l p r).book = s.book ∧
      (s.frameAtProbe l p r).scanner = s.scanner ∧ (s.frameAtProbe l p r).log = s.log ∧
      (s.frameAtProbe l p r).pending = s.pending := by
  unfold State.frameAtProbe
  try dsimp only
  repeat' split
  all_goals simp

@[simp] theorem loopFrame_keeps (l : Loop) (bytes : List Byte) (s : State) :
    (s.loopFrame l bytes).run = s.run ∧ (s.loopFrame l bytes).clock = s.clock ∧
      (s.loopFrame l bytes).regs = s.regs ∧ (s.loopFrame l bytes).walker = s.walker ∧
      (s.loopFrame l bytes).pending = s.pending := by
  unfold State.loopFrame
  try dsimp only
  repeat' split
  all_goals simp

@[simp] theorem replyExpiry_keeps (l : Loop) (b : Bool) (s : State) :
    (s.replyExpiry l b).run = s.run ∧ (s.replyExpiry l b).clock = s.clock ∧ (s.replyExpiry l b).regs = s.regs ∧
      (s.replyExpiry l b).walker = s.walker ∧ (s.replyExpiry l b).pending = s.pending := by
  unfold State.replyExpiry
  try dsimp only
  repeat' split
  all_goals simp

@[simp] theorem attemptSent_keeps (e : Exchange) (s : State) :
    (s.attemptSent e).run = s.run ∧ (s.attemptSent e).clock = s.clock ∧ (s.attemptSent e).regs = s.regs ∧
      (s.attemptSent e).ram = s.ram ∧ (s.attemptSent e).acc = s.acc ∧ (s.attemptSent e).gain = s.gain ∧
      (s.attemptSent e).links = s.links ∧ (s.attemptSent e).walker = s.walker ∧
      (s.attemptSent e).book = s.book ∧ (s.attemptSent e).scanner = s.scanner ∧
      (s.attemptSent e).notices = s.notices ∧ (s.attemptSent e).log = s.log ∧
      (s.attemptSent e).pending = s.pending := by
  unfold State.attemptSent
  split <;> simp


@[simp] theorem probeSent_keeps (b : Probe) (s : State) :
    (s.probeSent b).run = s.run ∧ (s.probeSent b).clock = s.clock ∧ (s.probeSent b).regs = s.regs ∧
      (s.probeSent b).ram = s.ram ∧ (s.probeSent b).acc = s.acc ∧ (s.probeSent b).gain = s.gain ∧
      (s.probeSent b).links = s.links ∧ (s.probeSent b).walker = s.walker ∧ (s.probeSent b).book = s.book ∧
      (s.probeSent b).scanner = s.scanner ∧ (s.probeSent b).notices = s.notices ∧ (s.probeSent b).log = s.log ∧
      (s.probeSent b).pending = s.pending := by
  unfold State.probeSent
  dsimp only
  repeat' split
  all_goals simp


@[simp] theorem pollSent_keeps (l : Loop) (s : State) :
    (s.pollSent l).run = s.run ∧ (s.pollSent l).clock = s.clock ∧ (s.pollSent l).regs = s.regs ∧
      (s.pollSent l).ram = s.ram ∧ (s.pollSent l).acc = s.acc ∧ (s.pollSent l).gain = s.gain ∧
      (s.pollSent l).links = s.links ∧ (s.pollSent l).walker = s.walker ∧ (s.pollSent l).book = s.book ∧
      (s.pollSent l).scanner = s.scanner ∧ (s.pollSent l).notices = s.notices ∧ (s.pollSent l).log = s.log ∧
      (s.pollSent l).pending = s.pending := by
  unfold State.pollSent
  dsimp only
  repeat' split
  all_goals simp


@[simp] theorem stopTest_keeps (s : State) :
    s.stopTest.run = s.run ∧ s.stopTest.clock = s.clock ∧ s.stopTest.regs = s.regs ∧ s.stopTest.acc = s.acc ∧
      s.stopTest.gain = s.gain ∧ s.stopTest.links = s.links ∧ s.stopTest.walker = s.walker ∧
      s.stopTest.book = s.book ∧ s.stopTest.log = s.log ∧ s.stopTest.pending = s.pending := by
  unfold State.stopTest
  try dsimp only
  repeat' split
  all_goals simp

@[simp] theorem stopRound_keeps (s : State) :
    s.stopRound.run = s.run ∧ s.stopRound.clock = s.clock ∧ s.stopRound.regs = s.regs ∧
      s.stopRound.walker = s.walker ∧ s.stopRound.book = s.book ∧ s.stopRound.scanner = s.scanner ∧
      s.stopRound.pending = s.pending := by
  unfold State.stopRound
  try dsimp only
  repeat' split
  all_goals simp

@[simp] theorem stopStations_keeps (s : State) :
    s.stopStations.run = s.run ∧ s.stopStations.clock = s.clock ∧ s.stopStations.regs = s.regs ∧
      s.stopStations.gain = s.gain ∧ s.stopStations.links = s.links ∧ s.stopStations.walker = s.walker ∧
      s.stopStations.book = s.book ∧ s.stopStations.scanner = s.scanner ∧ s.stopStations.log = s.log ∧
      s.stopStations.pending = s.pending := by
  unfold State.stopStations
  refine ⟨(forStations_keeps State.run _ ?_ _).trans ?_, (forStations_keeps State.clock _ ?_ _).trans ?_, (forStations_keeps State.regs _ ?_ _).trans ?_, (forStations_keeps State.gain _ ?_ _).trans ?_, (forStations_keeps State.links _ ?_ _).trans ?_, (forStations_keeps State.walker _ ?_ _).trans ?_, (forStations_keeps State.book _ ?_ _).trans ?_, (forStations_keeps State.scanner _ ?_ _).trans ?_, (forStations_keeps State.log _ ?_ _).trans ?_, (forStations_keeps State.pending _ ?_ _).trans ?_⟩ <;> intros <;> (repeat' split) <;> simp

/-! ### Requests -/

@[simp] theorem exchangeBook_keeps (b : List BookRecord) (s : State) :
    (s.exchangeBook b).run = s.run ∧ (s.exchangeBook b).clock = s.clock ∧ (s.exchangeBook b).regs = s.regs ∧
      (s.exchangeBook b).acc = s.acc ∧ (s.exchangeBook b).poller = s.poller ∧
      (s.exchangeBook b).walker = s.walker ∧ (s.exchangeBook b).scanner = s.scanner ∧
      (s.exchangeBook b).pending = s.pending := by
  unfold State.exchangeBook
  try dsimp only
  all_goals simp

@[simp] theorem clockMoved_keeps (b : Bool) (c : Nat) (s : State) :
    (s.clockMoved b c).run = s.run ∧ (s.clockMoved b c).clock = s.clock ∧ (s.clockMoved b c).regs = s.regs ∧
      (s.clockMoved b c).poller = s.poller ∧ (s.clockMoved b c).book = s.book ∧
      (s.clockMoved b c).scanner = s.scanner ∧ (s.clockMoved b c).pending = s.pending := by
  unfold State.clockMoved
  dsimp only
  repeat' split
  all_goals simp

@[simp] theorem putEntry_keeps (st : Station) (e : StationEntry) (s : State) :
    (s.putEntry st e).run = s.run ∧ (s.putEntry st e).clock = s.clock ∧ (s.putEntry st e).regs = s.regs ∧
      (s.putEntry st e).acc = s.acc ∧ (s.putEntry st e).gain = s.gain ∧ (s.putEntry st e).links = s.links ∧
      (s.putEntry st e).walker = s.walker ∧ (s.putEntry st e).book = s.book ∧
      (s.putEntry st e).scanner = s.scanner ∧ (s.putEntry st e).notices = s.notices ∧
      (s.putEntry st e).log = s.log ∧ (s.putEntry st e).pending = s.pending :=
  ⟨rfl, rfl, rfl, rfl, rfl, rfl, rfl, rfl, rfl, rfl, rfl, rfl⟩

@[simp] theorem disableAccount_keeps (st : Station) (s : State) :
    (s.disableAccount st).run = s.run ∧ (s.disableAccount st).clock = s.clock ∧
      (s.disableAccount st).regs = s.regs ∧ (s.disableAccount st).gain = s.gain ∧
      (s.disableAccount st).poller = s.poller ∧ (s.disableAccount st).links = s.links ∧
      (s.disableAccount st).walker = s.walker ∧ (s.disableAccount st).book = s.book ∧
      (s.disableAccount st).scanner = s.scanner ∧ (s.disableAccount st).pending = s.pending := by
  unfold State.disableAccount
  try dsimp only
  all_goals simp

@[simp] theorem disableInRound_keeps (st : Station) (s : State) :
    (s.disableInRound st).run = s.run ∧ (s.disableInRound st).clock = s.clock ∧
      (s.disableInRound st).regs = s.regs ∧ (s.disableInRound st).walker = s.walker ∧
      (s.disableInRound st).pending = s.pending := by
  unfold State.disableInRound
  try dsimp only
  repeat' split
  all_goals simp

@[simp] theorem changeStation_keeps (st : Station) (e f : StationEntry) (s : State) :
    (s.changeStation st e f).run = s.run ∧ (s.changeStation st e f).clock = s.clock ∧
      (s.changeStation st e f).regs = s.regs ∧ (s.changeStation st e f).walker = s.walker ∧
      (s.changeStation st e f).pending = s.pending := by
  unfold State.changeStation
  try dsimp only
  repeat' split
  all_goals simp

/-! ### Run Control -/

@[simp] theorem startWriters_keeps (c : StartConfig) (s : State) :
    (s.startWriters c).run = s.run ∧ (s.startWriters c).clock = s.clock ∧ (s.startWriters c).regs = s.regs ∧
      (s.startWriters c).acc = s.acc ∧ (s.startWriters c).gain = s.gain ∧ (s.startWriters c).poller = s.poller ∧
      (s.startWriters c).links = s.links ∧ (s.startWriters c).walker = s.walker ∧
      (s.startWriters c).book = s.book ∧ (s.startWriters c).scanner = s.scanner ∧
      (s.startWriters c).pending = s.pending :=
  ⟨rfl, rfl, rfl, rfl, rfl, rfl, rfl, rfl, rfl, rfl, rfl⟩

@[simp] theorem takeConfig_keeps (d : StartData) (s : State) :
    (s.takeConfig d).run = s.run ∧ (s.takeConfig d).clock = s.clock ∧ (s.takeConfig d).regs = s.regs ∧
      (s.takeConfig d).walker = s.walker ∧ (s.takeConfig d).book = s.book ∧ (s.takeConfig d).scanner = s.scanner ∧
      (s.takeConfig d).pending = s.pending := by
  unfold State.takeConfig
  try dsimp only
  all_goals simp

@[simp] theorem startPriming_keeps (s : State) :
    s.startPriming.run = s.run ∧ s.startPriming.clock = s.clock ∧ s.startPriming.regs = s.regs ∧
      s.startPriming.ram = s.ram ∧ s.startPriming.gain = s.gain ∧ s.startPriming.poller = s.poller ∧
      s.startPriming.links = s.links ∧ s.startPriming.walker = s.walker ∧ s.startPriming.book = s.book ∧
      s.startPriming.scanner = s.scanner ∧ s.startPriming.notices = s.notices ∧ s.startPriming.log = s.log ∧
      s.startPriming.pending = s.pending := by
  unfold State.startPriming
  refine ⟨forStations_keeps State.run _ ?_ s, forStations_keeps State.clock _ ?_ s, forStations_keeps State.regs _ ?_ s, forStations_keeps State.ram _ ?_ s, forStations_keeps State.gain _ ?_ s, forStations_keeps State.poller _ ?_ s, forStations_keeps State.links _ ?_ s, forStations_keeps State.walker _ ?_ s, forStations_keeps State.book _ ?_ s, forStations_keeps State.scanner _ ?_ s, forStations_keeps State.notices _ ?_ s, forStations_keeps State.log _ ?_ s, forStations_keeps State.pending _ ?_ s⟩ <;> intros <;> split <;> simp

@[simp] theorem startStations_keeps (s : State) :
    s.startStations.run = s.run ∧ s.startStations.clock = s.clock ∧ s.startStations.regs = s.regs ∧
      s.startStations.ram = s.ram ∧ s.startStations.acc = s.acc ∧ s.startStations.gain = s.gain ∧
      s.startStations.links = s.links ∧ s.startStations.walker = s.walker ∧ s.startStations.book = s.book ∧
      s.startStations.scanner = s.scanner ∧ s.startStations.notices = s.notices ∧ s.startStations.log = s.log ∧
      s.startStations.pending = s.pending := by
  unfold State.startStations
  try dsimp only
  all_goals simp

@[simp] theorem startWalker_keeps (d : StartData) (s : State) :
    (s.startWalker d).run = s.run ∧ (s.startWalker d).clock = s.clock ∧ (s.startWalker d).regs = s.regs ∧
      (s.startWalker d).poller = s.poller ∧ (s.startWalker d).book = s.book ∧
      (s.startWalker d).scanner = s.scanner ∧ (s.startWalker d).pending = s.pending := by
  unfold State.startWalker
  try dsimp only
  all_goals simp

@[simp] theorem stopAmbient_keeps (s : State) :
    s.stopAmbient.run = s.run ∧ s.stopAmbient.clock = s.clock ∧ s.stopAmbient.regs = s.regs ∧
      s.stopAmbient.poller = s.poller ∧ s.stopAmbient.walker = s.walker ∧ s.stopAmbient.book = s.book ∧
      s.stopAmbient.pending = s.pending := by
  unfold State.stopAmbient
  try dsimp only
  repeat' split
  all_goals simp

@[simp] theorem stopMinute_keeps (s : State) :
    s.stopMinute.run = s.run ∧ s.stopMinute.clock = s.clock ∧ s.stopMinute.regs = s.regs ∧
      s.stopMinute.acc = s.acc ∧ s.stopMinute.gain = s.gain ∧ s.stopMinute.poller = s.poller ∧
      s.stopMinute.links = s.links ∧ s.stopMinute.walker = s.walker ∧ s.stopMinute.book = s.book ∧
      s.stopMinute.scanner = s.scanner ∧ s.stopMinute.pending = s.pending := by
  unfold State.stopMinute
  try dsimp only
  all_goals simp

@[simp] theorem resetRound_keeps (s : State) :
    s.resetRound.run = s.run ∧ s.resetRound.clock = s.clock ∧ s.resetRound.regs = s.regs ∧
      s.resetRound.ram = s.ram ∧ s.resetRound.gain = s.gain ∧ s.resetRound.poller = s.poller ∧
      s.resetRound.links = s.links ∧ s.resetRound.walker = s.walker ∧ s.resetRound.book = s.book ∧
      s.resetRound.scanner = s.scanner ∧ s.resetRound.notices = s.notices ∧ s.resetRound.pending = s.pending := by
  unfold State.resetRound
  try dsimp only
  repeat' split
  all_goals simp

end Sys2Proof.Machine
end

