-- ==== Sys2Proof/Laws/Gain.lean ====
section
/-! SUPPORT. What a change of terms does to the Gain Allocator (R41, R48), stage by stage. -/

namespace Sys2Proof.Machine

theorem foldl_min_le (l : List Nat) (a : Nat) : l.foldl min a ≤ a ∧ ∀ x ∈ l, l.foldl min a ≤ x := by
  induction l generalizing a with
  | nil => simp
  | cons y l ih =>
    have := ih (min a y)
    refine ⟨this.1.trans (Nat.min_le_left _ _), fun x hx => ?_⟩
    rcases List.mem_cons.1 hx with rfl | hx
    · exact this.1.trans (Nat.min_le_right _ _)
    · exact this.2 x hx

/-- R41: the hard bound is at most 4096, and at most every term present. -/
theorem bound_le (g : GainStage) : g.bound ≤ 4096 ∧ ∀ x ∈ g.terms, g.bound ≤ x := foldl_min_le g.terms 4096

/-- The hard bound does not depend on the target or the applied ceiling. -/
@[simp] theorem bound_applied (g : GainStage) (a : Nat) : ({ g with applied := a } : GainStage).bound = g.bound := rfl

@[simp] theorem bound_target (g : GainStage) (a : Nat) : ({ g with target := a } : GainStage).bound = g.bound := rfl

/-- The bound with one term replaced by another that is no lower is no lower (R48: the removal of a term clips nothing). -/
theorem bound_mono {g h : GainStage} (hs : ∀ x ∈ h.terms, ∃ y ∈ g.terms, y ≤ x) : g.bound ≤ h.bound := by
  have key : ∀ (l : List Nat) (a b : Nat), b ≤ a → (∀ x ∈ l, b ≤ x) → b ≤ l.foldl min a := by
    intro l
    induction l with
    | nil => intro a b h _; exact h
    | cons y l ih =>
      intro a b h hl
      exact ih _ _ (le_min h (hl y List.mem_cons_self)) fun x hx => hl x (List.mem_cons_of_mem _ hx)
  refine key h.terms 4096 g.bound (bound_le g).1 fun x hx => ?_
  obtain ⟨y, hy, hxy⟩ := hs x hx
  exact ((bound_le g).2 y hy).trans hxy

@[simp] theorem hardDrop_gain (k : Stage) (v : Nat) (s : State) : (s.hardDrop k v).gain = s.gain := rfl

/-- A clip of one stage takes its applied ceiling down to its bound and leaves the other stages alone (R48). -/
theorem clipStage_gain (k : Stage) (s : State) :
    (s.clipStage k).gain =
      { s.gain with
        stages := upd s.gain.stages k
          { s.gain.stages[k] with applied := min s.gain.stages[k].applied s.gain.stages[k].bound } } := by
  unfold State.clipStage
  dsimp only
  split
  · next h =>
    rw [Nat.min_eq_right (Nat.le_of_lt h)]
    simp [State.setGain]
  · next h =>
    rw [Nat.min_eq_left (Nat.not_lt.1 h)]
    have : upd s.gain.stages k { s.gain.stages[k] with applied := s.gain.stages[k].applied } = s.gain.stages :=
      vector_ext fun j => by rw [upd_get]; split <;> simp_all
    rw [this]

/-- R41: one event that changes terms: the new terms of every stage, and each applied ceiling no higher than its new bound. -/
theorem changeTerms_stage (f : Stage → GainStage → GainStage) (s : State) (k : Stage) :
    (s.changeTerms f).gain.stages[k] =
      { f k s.gain.stages[k] with applied := min (f k s.gain.stages[k]).applied (f k s.gain.stages[k]).bound } := by
  have key : ∀ (l : List Stage) (t : State), l.Nodup →
      (l.foldl (fun t j => t.clipStage j) t).gain.stages[k] =
        if k ∈ l then { t.gain.stages[k] with applied := min t.gain.stages[k].applied t.gain.stages[k].bound }
        else t.gain.stages[k] := by
    intro l
    induction l with
    | nil => intro t _; rfl
    | cons j l ih =>
      intro t hn
      rw [List.foldl_cons, ih _ (List.nodup_cons.1 hn).2, clipStage_gain]
      dsimp only
      rw [upd_get]
      by_cases hk : k = j
      · subst hk
        rw [if_neg (List.nodup_cons.1 hn).1, if_pos rfl, if_pos List.mem_cons_self]
      · simp [hk]
  unfold State.changeTerms forStages
  rw [key allStages _ (by decide), if_pos (mem_allStages k)]
  simp

theorem clipStage_cfg (k : Stage) (s : State) : (s.clipStage k).gain.cfg = s.gain.cfg := by rw [clipStage_gain]

/-- The configuration values are kept by an event that changes terms. -/
@[simp] theorem changeTerms_cfg (f : Stage → GainStage → GainStage) (s : State) :
    (s.changeTerms f).gain.cfg = s.gain.cfg := by
  unfold State.changeTerms
  generalize ht : ({ s with gain := { s.gain with stages := Vector.ofFn fun k : Fin 4 => f k s.gain.stages[k] } } : State) = t
  have : t.gain.cfg = s.gain.cfg := by subst ht; rfl
  rw [← this]
  exact forStages_keeps (fun t : State => t.gain.cfg) State.clipStage clipStage_cfg t

end Sys2Proof.Machine
end

