-- ==== Sys2Proof/Laws/Poller.lean ====
section
/-! SUPPORT. The Poller's shared operations, each said once: what the sending of an attempt makes of the state (R64, R65), the
outcome of a missing second (R72), and the lost-station term of a running part (R45). -/

namespace Sys2Proof.Machine

@[simp] theorem upd_self {α : Type} {n : Nat} (v : Vector α n) (i : Fin n) : upd v i v[i] = v := by
  unfold upd; simp

/-- R65: the POLL frame of an attempt stands on the line, or the frame that was there before. -/
theorem putPoll_eq (l : Loop) (addr : Nat) (s : State) :
    s.putPoll l addr =
      ({ s with
          poller := { s.poller with
            loops := upd s.poller.loops (loopIx l)
              { s.loopLine l with tx := some ((s.loopLine l).tx.getD (pollFrame addr s.poller.roundNo)) } } },
        if (s.loopLine l).tx.isSome then .queued else .sending) := by
  unfold State.putPoll
  dsimp only
  split
  · next f hf =>
    have h : { s.loopLine l with tx := some ((some f).getD (pollFrame addr s.poller.roundNo)) } = s.loopLine l := by
      rw [Option.getD_some, ← hf]
    rw [hf, h]
    unfold State.loopLine
    rw [upd_self]
    rfl
  · next hf => rw [hf]; rfl

/-- R64, R65: a sent attempt is on the loop that the choice gives, and waits for its line or is being sent. -/
theorem sendAttempt_eq (e : Exchange) (s : State) :
    s.sendAttempt e =
      { s with
        poller := { s.poller with
          loops := upd s.poller.loops (loopIx (s.attemptLoop e))
            { s.loopLine (s.attemptLoop e) with
              tx := some ((s.loopLine (s.attemptLoop e)).tx.getD (pollFrame e.addr s.poller.roundNo)) }
          exch := some
            { e with
              loop := s.attemptLoop e
              phase := if (s.loopLine (s.attemptLoop e)).tx.isSome then .queued else .sending } } } := by
  unfold State.sendAttempt
  dsimp only
  rw [putPoll_eq]

/-- R72: the state after a store that leaves a count above 0 is that of a missing outcome. -/
theorem stateAfterStore_missed {missing : Nat} (h : 0 < missing) (old : StationState) :
    stateAfterStore missing old = stateMissed missing old := by
  unfold stateAfterStore stateMissed
  rw [if_neg (by omega)]

/-- R45: in RUNNING the lost-station term is the configuration's ceiling while an enabled station in LOST hears the stage. -/
theorem lostTerm_running {s : State} (h : s.run.state = .running) (k : Stage) :
    s.lostTerm k = if s.lostHeard k then s.gain.cfg.map (fun c => c.lost[k]) else none := by
  have hp : s.lostPresent k = s.lostHeard k := by
    unfold State.lostPresent State.lostHeard
    rw [h]
    simp only [beq_self_eq_true, Bool.true_or, Bool.true_and]
    rfl
  unfold State.lostTerm
  rw [hp]
  cases h : s.gain.cfg <;> simp

end Sys2Proof.Machine
end

