-- ==== Sys2Proof/Laws/Quiet.lean ====
section
/-! SUPPORT. Every shared operation that writes shared RAM or hands a notice keeps the RAM's canonical form and the level of
the interrupt line (R179). -/

namespace Sys2Proof.Machine

/-- The RAM is canonical and the interrupt line is as R179 gives it, for an INT_ENABLE bit `b`. -/
def Quiet (m : Memory) (n : NoticeWriter) (b : Bool) : Prop := m.wf = true ∧ lineTrue n b

theorem quiet_iff (s : State) : s.Quiet ↔ Quiet s.ram s.notices s.run.intBit := Iff.rfl

/-- A RAM write that keeps the canonical form keeps both. -/
theorem Quiet.ram {m k : Memory} {n : NoticeWriter} {b : Bool} (h : Quiet m n b) (hk : m.wf = true → k.wf = true) :
    Quiet k n b := ⟨hk h.1, h.2⟩

theorem driveIrq_quiet {s : State} (h : s.ram.wf = true) {b : Bool} (hb : s.run.intBit = b) :
    Quiet s.driveIrq.ram s.driveIrq.notices b := by
  subst hb; exact ⟨h, rfl⟩

@[simp] theorem post_quiet {s : State} {b : Bool} (hb : s.run.intBit = b) (h : Quiet s.ram s.notices b) (kind subject detail : Nat) :
    Quiet (s.post kind subject detail).ram (s.post kind subject detail).notices b := by
  unfold State.post
  split
  · exact h
  · exact driveIrq_quiet (wf_writeBytes h.1 _ _) hb

/-! ### RAM writes of the part -/

@[simp] theorem Quiet.write {m : Memory} {n : NoticeWriter} {b : Bool} (h : Quiet m n b) (a : Nat) (x : Byte) :
    Quiet (m.write a x) n b := h.ram fun w => wf_write w a x

@[simp] theorem Quiet.writeBytes {m : Memory} {n : NoticeWriter} {b : Bool} (h : Quiet m n b) (a : Nat) (xs : List Byte) :
    Quiet (m.writeBytes a xs) n b := h.ram fun w => wf_writeBytes w a xs

@[simp] theorem Quiet.writeLe {m : Memory} {n : NoticeWriter} {b : Bool} (h : Quiet m n b) (a k v : Nat) :
    Quiet (m.writeLe a k v) n b := h.ram fun w => wf_writeLe w a k v

@[simp] theorem Quiet.disturb {m : Memory} {n : NoticeWriter} {b : Bool} (h : Quiet m n b) (a : Nat) (x : Byte) :
    Quiet (m.disturb a x) n b := h.ram fun w => wf_disturb w a x

@[simp] theorem Quiet.writeResults {m : Memory} {n : NoticeWriter} {b : Bool} (h : Quiet m n b) (i : Slot)
    (results : List Result) : Quiet (m.writeResults i results) n b :=
  foldl_preserves (fun k => Quiet k n b) _ (fun _ r hk => hk.writeLe _ _ _) results m h

@[simp] theorem Quiet.finishSlot {m : Memory} {n : NoticeWriter} {b : Bool} (h : Quiet m n b) (i : Slot) (st code : Nat)
    (results : List Result) : Quiet (m.finishSlot i st code results) n b :=
  ((h.writeResults i results).writeLe _ _ _).writeLe _ _ _

@[simp] theorem Quiet.recordFault {m : Memory} {n : NoticeWriter} {b : Bool} (h : Quiet m n b) (r e l c f : Nat) :
    Quiet (m.recordFault r e l c f) n b := by
  unfold Memory.recordFault
  split
  · exact (h.writeBytes _ _).writeLe _ _ _
  · exact h.writeLe _ _ _

@[simp] theorem Quiet.refuseInFlight {m : Memory} {n : NoticeWriter} {b : Bool} (h : Quiet m n b) (fs : List InFlight) :
    Quiet (m.refuseInFlight fs) n b := by
  refine foldl_preserves (fun k => Quiet k n b) _ (fun k f hk => ?_) fs m h
  split
  · exact hk.finishSlot _ _ _ _
  · exact hk

@[simp] theorem Quiet.hostWrite {m : Memory} {n : NoticeWriter} {b : Bool} (h : Quiet m n b) (a : Nat) (d : Half)
    (lo hi : Bool) : Quiet (m.hostWrite a d lo hi) n b := by
  unfold Memory.hostWrite
  cases lo <;> cases hi <;> simp [h]

@[simp] theorem Quiet.writeStationEntry {m : Memory} {n : NoticeWriter} {b : Bool} (h : Quiet m n b) (st : Station)
    (e : StationEntry) : Quiet (m.writeStationEntry st e) n b := h.writeBytes _ _

/-- A change of the notice queue's condition states, edges or overrun flag keeps both. -/
@[simp] theorem Quiet.notices {m : Memory} {n : NoticeWriter} {b : Bool} (h : Quiet m n b)
    (edges : Vector EdgeSelection 9) (conds : Vector (Vector Bool 16) 9) (overrun : Bool) :
    Quiet m { n with edges := edges, conds := conds, overrun := overrun } b := h

/-- A fold over the stations keeps both when each of its steps does. -/
theorem quiet_forStations {b : Bool} (f : Station → State → State) (hr : ∀ st s, (f st s).run = s.run)
    (hq : ∀ st s, s.run.intBit = b → Quiet s.ram s.notices b → Quiet (f st s).ram (f st s).notices b) (s : State)
    (hb : s.run.intBit = b) (h : Quiet s.ram s.notices b) : Quiet (forStations f s).ram (forStations f s).notices b :=
  (forStations_preserves (fun t => t.run.intBit = b ∧ Quiet t.ram t.notices b) f
    (fun st t ht => ⟨by rw [hr]; exact ht.1, hq st t ht.1 ht.2⟩) s ⟨hb, h⟩).2

/-- A fold over the stages keeps both when each of its steps does. -/
theorem quiet_forStages {b : Bool} (f : Stage → State → State) (hr : ∀ k s, (f k s).run = s.run)
    (hq : ∀ k s, s.run.intBit = b → Quiet s.ram s.notices b → Quiet (f k s).ram (f k s).notices b) (s : State)
    (hb : s.run.intBit = b) (h : Quiet s.ram s.notices b) : Quiet (forStages f s).ram (forStages f s).notices b :=
  (forStages_preserves (fun t => t.run.intBit = b ∧ Quiet t.ram t.notices b) f
    (fun k t ht => ⟨by rw [hr]; exact ht.1, hq k t ht.1 ht.2⟩) s ⟨hb, h⟩).2

/-! ### The shared operations -/

/-! ### Notices -/

@[simp] theorem report_quiet {s : State} {ie : Bool} (hb : s.run.intBit = ie) (h : Quiet s.ram s.notices ie)
    (cls : CondClass) (subject : Fin 16) (now : Bool) (value : Nat) :
    Quiet (s.report cls subject now value).ram (s.report cls subject now value).notices ie := by
  unfold State.report
  try dsimp only
  repeat' split
  all_goals simp (maxDischargeDepth := 20) -implicitDefEqProofs [h, hb]

@[simp] theorem postRequestDone_quiet {s : State} {ie : Bool} (hb : s.run.intBit = ie) (h : Quiet s.ram s.notices ie)
    (slot : Slot) (kind code : Nat) :
    Quiet (s.postRequestDone slot kind code).ram (s.postRequestDone slot kind code).notices ie := by
  unfold State.postRequestDone
  try dsimp only
  all_goals simp (maxDischargeDepth := 20) -implicitDefEqProofs [h, hb]

@[simp] theorem postEntryActivated_quiet {s : State} {ie : Bool} (hb : s.run.intBit = ie) (h : Quiet s.ram s.notices ie)
    (entry : Nat) (cause : PassCause) :
    Quiet (s.postEntryActivated entry cause).ram (s.postEntryActivated entry cause).notices ie := by
  unfold State.postEntryActivated
  try dsimp only
  all_goals simp (maxDischargeDepth := 20) -implicitDefEqProofs [h, hb]

@[simp] theorem postWatchReached_quiet {s : State} {ie : Bool} (hb : s.run.intBit = ie) (h : Quiet s.ram s.notices ie)
    (pause active : Nat) :
    Quiet (s.postWatchReached pause active).ram (s.postWatchReached pause active).notices ie := by
  unfold State.postWatchReached
  try dsimp only
  all_goals simp (maxDischargeDepth := 20) -implicitDefEqProofs [h, hb]

@[simp] theorem postScheduleFault_quiet {s : State} {ie : Bool} (hb : s.run.intBit = ie) (h : Quiet s.ram s.notices ie)
    (entry reason link : Nat) :
    Quiet (s.postScheduleFault entry reason link).ram (s.postScheduleFault entry reason link).notices ie := by
  unfold State.postScheduleFault
  try dsimp only
  all_goals simp (maxDischargeDepth := 20) -implicitDefEqProofs [h, hb]

@[simp] theorem postRoundOverrun_quiet {s : State} {ie : Bool} (hb : s.run.intBit = ie) (h : Quiet s.ram s.notices ie)
    (first : Station) (count : Nat) :
    Quiet (s.postRoundOverrun first count).ram (s.postRoundOverrun first count).notices ie := by
  unfold State.postRoundOverrun
  try dsimp only
  all_goals simp (maxDischargeDepth := 20) -implicitDefEqProofs [h, hb]

@[simp] theorem postLogFull_quiet {s : State} {ie : Bool} (hb : s.run.intBit = ie) (h : Quiet s.ram s.notices ie)
    (writeIdx : Nat) :
    Quiet (s.postLogFull writeIdx).ram (s.postLogFull writeIdx).notices ie := by
  unfold State.postLogFull
  try dsimp only
  all_goals simp (maxDischargeDepth := 20) -implicitDefEqProofs [h, hb]

@[simp] theorem postLogWrap_quiet {s : State} {ie : Bool} (hb : s.run.intBit = ie) (h : Quiet s.ram s.notices ie)
    (given archive : Nat) :
    Quiet (s.postLogWrap given archive).ram (s.postLogWrap given archive).notices ie := by
  unfold State.postLogWrap
  try dsimp only
  all_goals simp (maxDischargeDepth := 20) -implicitDefEqProofs [h, hb]

@[simp] theorem postRunState_quiet {s : State} {ie : Bool} (hb : s.run.intBit = ie) (h : Quiet s.ram s.notices ie)
    (before : RunState) :
    Quiet (s.postRunState before).ram (s.postRunState before).notices ie := by
  unfold State.postRunState
  try dsimp only
  all_goals simp (maxDischargeDepth := 20) -implicitDefEqProofs [h, hb]

/-! ### Log Writer -/

@[simp] theorem readOccupancy_quiet {s : State} {ie : Bool} (hb : s.run.intBit = ie) (h : Quiet s.ram s.notices ie) :
    Quiet (s.readOccupancy).ram (s.readOccupancy).notices ie := by
  unfold State.readOccupancy
  try dsimp only
  all_goals simp (maxDischargeDepth := 20) -implicitDefEqProofs [h, hb]

@[simp] theorem writeLogHeader_quiet {s : State} {n : NoticeWriter} {ie : Bool} (h : Quiet s.ram n ie) :
    Quiet (s.writeLogHeader).ram n ie := by
  unfold State.writeLogHeader
  try dsimp only
  all_goals simp (maxDischargeDepth := 20) -implicitDefEqProofs [h]

@[simp] theorem putRecord_quiet {s : State} {ie : Bool} (hb : s.run.intBit = ie) (h : Quiet s.ram s.notices ie)
    (bytes : List Byte) :
    Quiet (s.putRecord bytes).ram (s.putRecord bytes).notices ie := by
  unfold State.putRecord
  try dsimp only
  all_goals simp (maxDischargeDepth := 20) -implicitDefEqProofs [h, hb]

@[simp] theorem writeRecord_quiet {s : State} {ie : Bool} (hb : s.run.intBit = ie) (h : Quiet s.ram s.notices ie)
    (bytes : List Byte) (given : Nat) :
    Quiet (s.writeRecord bytes given).1.ram (s.writeRecord bytes given).1.notices ie := by
  unfold State.writeRecord
  try dsimp only
  repeat' split
  all_goals simp (maxDischargeDepth := 20) -implicitDefEqProofs [h, hb]

@[simp] theorem writeRecords_quiet {s : State} {ie : Bool} (hb : s.run.intBit = ie) (h : Quiet s.ram s.notices ie)
    (minute : Nat) (f : RecordFlags) :
    Quiet (s.writeRecords minute f).1.ram (s.writeRecords minute f).1.notices ie := by
  unfold State.writeRecords
  refine (foldl_preserves (fun p : State × Nat => p.1.run.intBit = ie ∧ Quiet p.1.ram p.1.notices ie) _ ?_ _ _ ⟨hb, h⟩).2
  rintro p st ⟨h1, h2⟩
  split <;> simp (maxDischargeDepth := 20) -implicitDefEqProofs [h1, h2]

@[simp] theorem closeMinute_quiet {s : State} {ie : Bool} (hb : s.run.intBit = ie) (h : Quiet s.ram s.notices ie)
    (minute : Nat) (f : RecordFlags) :
    Quiet (s.closeMinute minute f).ram (s.closeMinute minute f).notices ie := by
  unfold State.closeMinute
  try dsimp only
  repeat' split
  all_goals simp (maxDischargeDepth := 20) -implicitDefEqProofs [h, hb]

/-! ### Exposure Accumulator -/

@[simp] theorem stageFive_quiet {s : State} {ie : Bool} (hb : s.run.intBit = ie) (h : Quiet s.ram s.notices ie)
    (st : Station) :
    Quiet (s.stageFive st).ram (s.stageFive st).notices ie := by
  unfold State.stageFive
  try dsimp only
  all_goals simp (maxDischargeDepth := 20) -implicitDefEqProofs [h, hb]

@[simp] theorem takeControllability_quiet {s : State} {ie : Bool} (hb : s.run.intBit = ie) (h : Quiet s.ram s.notices ie)
    (k : Stage) (b : Bool) :
    Quiet (s.takeControllability k b).ram (s.takeControllability k b).notices ie := by
  unfold State.takeControllability
  refine quiet_forStations _ ?_ ?_ _ (by simp [hb]) (by simp [h]) <;> intros <;> (try dsimp only) <;> (repeat' split) <;> simp (maxDischargeDepth := 20) -implicitDefEqProofs [*]

@[simp] theorem handExceed_quiet {s : State} {ie : Bool} (hb : s.run.intBit = ie) (h : Quiet s.ram s.notices ie)
    (st : Station) :
    Quiet (s.handExceed st).ram (s.handExceed st).notices ie := by
  unfold State.handExceed
  try dsimp only
  all_goals simp (maxDischargeDepth := 20) -implicitDefEqProofs [h, hb]

@[simp] theorem compute_quiet {s : State} {ie : Bool} (hb : s.run.intBit = ie) (h : Quiet s.ram s.notices ie)
    (st : Station) (x : Sample) :
    Quiet (s.compute st x).ram (s.compute st x).notices ie := by
  unfold State.compute
  try dsimp only
  repeat' split
  all_goals simp (maxDischargeDepth := 20) -implicitDefEqProofs [h, hb]

@[simp] theorem storeOutcome_quiet {s : State} {ie : Bool} (hb : s.run.intBit = ie) (h : Quiet s.ram s.notices ie)
    (st : Station) (o : SecondOutcome) :
    Quiet (s.storeOutcome st o).ram (s.storeOutcome st o).notices ie := by
  unfold State.storeOutcome
  try dsimp only
  repeat' split
  all_goals simp (maxDischargeDepth := 20) -implicitDefEqProofs [h, hb]

/-! ### Stage Link Controller -/

@[simp] theorem reevaluateLink_quiet {s : State} {ie : Bool} (hb : s.run.intBit = ie) (h : Quiet s.ram s.notices ie)
    (k : Stage) :
    Quiet (s.reevaluateLink k).ram (s.reevaluateLink k).notices ie := by
  unfold State.reevaluateLink
  try dsimp only
  repeat' split
  all_goals simp (maxDischargeDepth := 20) -implicitDefEqProofs [h, hb]

@[simp] theorem acknowledge_quiet {s : State} {ie : Bool} (hb : s.run.intBit = ie) (h : Quiet s.ram s.notices ie)
    (k : Stage) (m : LimiterState) :
    Quiet (s.acknowledge k m).ram (s.acknowledge k m).notices ie := by
  unfold State.acknowledge
  try dsimp only
  all_goals simp (maxDischargeDepth := 20) -implicitDefEqProofs [h, hb]

@[simp] theorem exhaust_quiet {s : State} {ie : Bool} (hb : s.run.intBit = ie) (h : Quiet s.ram s.notices ie)
    (k : Stage) :
    Quiet (s.exhaust k).ram (s.exhaust k).notices ie := by
  unfold State.exhaust
  try dsimp only
  all_goals simp (maxDischargeDepth := 20) -implicitDefEqProofs [h, hb]

@[simp] theorem failCommand_quiet {s : State} {ie : Bool} (hb : s.run.intBit = ie) (h : Quiet s.ram s.notices ie)
    (k : Stage) (c : Command) :
    Quiet (s.failCommand k c).ram (s.failCommand k c).notices ie := by
  unfold State.failCommand
  try dsimp only
  repeat' split
  all_goals simp (maxDischargeDepth := 20) -implicitDefEqProofs [h, hb]

@[simp] theorem judgeAck_quiet {s : State} {ie : Bool} (hb : s.run.intBit = ie) (h : Quiet s.ram s.notices ie)
    (k : Stage) (f : Option AckFrame) :
    Quiet (s.judgeAck k f).ram (s.judgeAck k f).notices ie := by
  unfold State.judgeAck
  try dsimp only
  repeat' split
  all_goals simp (maxDischargeDepth := 20) -implicitDefEqProofs [h, hb]

@[simp] theorem ackExpiry_quiet {s : State} {ie : Bool} (hb : s.run.intBit = ie) (h : Quiet s.ram s.notices ie)
    (k : Stage) (b : Bool) :
    Quiet (s.ackExpiry k b).ram (s.ackExpiry k b).notices ie := by
  unfold State.ackExpiry
  try dsimp only
  repeat' split
  all_goals simp (maxDischargeDepth := 20) -implicitDefEqProofs [h, hb]

@[simp] theorem startLinks_quiet {s : State} {ie : Bool} (hb : s.run.intBit = ie) (h : Quiet s.ram s.notices ie)
    (cfg : LinkConfig) :
    Quiet (s.startLinks cfg).ram (s.startLinks cfg).notices ie := by
  unfold State.startLinks
  refine quiet_forStages _ ?_ ?_ _ (by simp [hb]) (by simp [h]) <;> intros <;> (try dsimp only) <;> (repeat' split) <;> simp (maxDischargeDepth := 20) -implicitDefEqProofs [*]

/-! ### Gain Allocator -/

@[simp] theorem stageConditions_quiet {s : State} {ie : Bool} (hb : s.run.intBit = ie) (h : Quiet s.ram s.notices ie)
    (k : Stage) :
    Quiet (s.stageConditions k).ram (s.stageConditions k).notices ie := by
  unfold State.stageConditions
  try dsimp only
  repeat' split
  all_goals simp (maxDischargeDepth := 20) -implicitDefEqProofs [h, hb]

@[simp] theorem clipStage_quiet {s : State} {ie : Bool} (hb : s.run.intBit = ie) (h : Quiet s.ram s.notices ie)
    (k : Stage) :
    Quiet (s.clipStage k).ram (s.clipStage k).notices ie := by
  unfold State.clipStage
  try dsimp only
  repeat' split
  all_goals simp (maxDischargeDepth := 20) -implicitDefEqProofs [h, hb]

@[simp] theorem changeTerms_quiet {s : State} {ie : Bool} (hb : s.run.intBit = ie) (h : Quiet s.ram s.notices ie)
    (f : Stage → GainStage → GainStage) :
    Quiet (s.changeTerms f).ram (s.changeTerms f).notices ie := by
  unfold State.changeTerms
  refine quiet_forStages _ ?_ ?_ _ (by simp [hb]) (by simp [h]) <;> intros <;> (try dsimp only) <;> (repeat' split) <;> simp (maxDischargeDepth := 20) -implicitDefEqProofs [*]

@[simp] theorem evaluateLost_quiet {s : State} {ie : Bool} (hb : s.run.intBit = ie) (h : Quiet s.ram s.notices ie) :
    Quiet (s.evaluateLost).ram (s.evaluateLost).notices ie := by
  unfold State.evaluateLost
  try dsimp only
  all_goals simp (maxDischargeDepth := 20) -implicitDefEqProofs [h, hb]

@[simp] theorem setAmbientMute_quiet {s : State} {ie : Bool} (hb : s.run.intBit = ie) (h : Quiet s.ram s.notices ie)
    (b : Bool) :
    Quiet (s.setAmbientMute b).ram (s.setAmbientMute b).notices ie := by
  unfold State.setAmbientMute
  try dsimp only
  repeat' split
  all_goals simp (maxDischargeDepth := 20) -implicitDefEqProofs [h, hb]

@[simp] theorem setImmediateMute_quiet {s : State} {ie : Bool} (hb : s.run.intBit = ie) (h : Quiet s.ram s.notices ie)
    (b : Bool) :
    Quiet (s.setImmediateMute b).ram (s.setImmediateMute b).notices ie := by
  unfold State.setImmediateMute
  try dsimp only
  repeat' split
  all_goals simp (maxDischargeDepth := 20) -implicitDefEqProofs [h, hb]

@[simp] theorem setHold_quiet {s : State} {ie : Bool} (hb : s.run.intBit = ie) (h : Quiet s.ram s.notices ie)
    (k : Stage) (v : Option Nat) :
    Quiet (s.setHold k v).ram (s.setHold k v).notices ie := by
  unfold State.setHold
  try dsimp only
  all_goals simp (maxDischargeDepth := 20) -implicitDefEqProofs [h, hb]

@[simp] theorem driveGain_quiet {s : State} {ie : Bool} (hb : s.run.intBit = ie) (h : Quiet s.ram s.notices ie) :
    Quiet (s.driveGain).ram (s.driveGain).notices ie := by
  unfold State.driveGain
  refine quiet_forStages _ (by simp) (by intros; simp [*]) _ ?_ ?_
  · simp [forStages_keeps State.run _, hb]
  · simp only [logClosure_keeps]
    exact quiet_forStages _ (by simp) (by intros; simp [*]) _ (by simp [hb]) (by simp [h])

@[simp] theorem startGain_quiet {s : State} {ie : Bool} (hb : s.run.intBit = ie) (h : Quiet s.ram s.notices ie) :
    Quiet (s.startGain).ram (s.startGain).notices ie := by
  unfold State.startGain
  refine quiet_forStages _ ?_ ?_ _ (by simp [hb]) (by simp [h]) <;> intros <;> (try dsimp only) <;> (repeat' split) <;> simp (maxDischargeDepth := 20) -implicitDefEqProofs [*]

/-! ### Schedule Walker -/

@[simp] theorem activate_quiet {s : State} {ie : Bool} (hb : s.run.intBit = ie) (h : Quiet s.ram s.notices ie)
    (cause : PassCause) (b : Bool) (e : LimitEntry) :
    Quiet (s.activate cause b e).ram (s.activate cause b e).notices ie := by
  unfold State.activate
  try dsimp only
  repeat' split
  all_goals simp (maxDischargeDepth := 20) -implicitDefEqProofs [h, hb]

@[simp] theorem reportFault_quiet {s : State} {ie : Bool} (hb : s.run.intBit = ie) (h : Quiet s.ram s.notices ie)
    (reason : FaultReason) (entry link : Nat) (found : WalkerState) :
    Quiet (s.reportFault reason entry link found).ram (s.reportFault reason entry link found).notices ie := by
  unfold State.reportFault
  try dsimp only
  all_goals simp (maxDischargeDepth := 20) -implicitDefEqProofs [h, hb]

@[simp] theorem endPass_quiet {s : State} {ie : Bool} (hb : s.run.intBit = ie) (h : Quiet s.ram s.notices ie)
    (cause : PassCause) (b : Bool) (found : WalkerState) (p : Pass) :
    Quiet (s.endPass cause b found p).ram (s.endPass cause b found p).notices ie := by
  unfold State.endPass
  try dsimp only
  repeat' split
  all_goals simp (maxDischargeDepth := 20) -implicitDefEqProofs [h, hb]

@[simp] theorem walkerSecond_quiet {s : State} {ie : Bool} (hb : s.run.intBit = ie) (h : Quiet s.ram s.notices ie) :
    Quiet (s.walkerSecond).ram (s.walkerSecond).notices ie := by
  unfold State.walkerSecond
  try dsimp only
  repeat' split
  all_goals simp (maxDischargeDepth := 20) -implicitDefEqProofs [h, hb]

@[simp] theorem walkerMoved_quiet {s : State} {ie : Bool} (hb : s.run.intBit = ie) (h : Quiet s.ram s.notices ie) :
    Quiet (s.walkerMoved).ram (s.walkerMoved).notices ie := by
  unfold State.walkerMoved
  try dsimp only
  repeat' split
  all_goals simp (maxDischargeDepth := 20) -implicitDefEqProofs [h, hb]

@[simp] theorem leaveFaulted_quiet {s : State} {ie : Bool} (hb : s.run.intBit = ie) (h : Quiet s.ram s.notices ie) :
    Quiet (s.leaveFaulted).ram (s.leaveFaulted).notices ie := by
  unfold State.leaveFaulted
  try dsimp only
  repeat' split
  all_goals simp (maxDischargeDepth := 20) -implicitDefEqProofs [h, hb]

@[simp] theorem walkerRestart_quiet {s : State} {ie : Bool} (hb : s.run.intBit = ie) (h : Quiet s.ram s.notices ie) :
    Quiet (s.walkerRestart.1).ram (s.walkerRestart.1).notices ie := by
  unfold State.walkerRestart
  try dsimp only
  all_goals simp (maxDischargeDepth := 20) -implicitDefEqProofs [h, hb]

@[simp] theorem walkerResume_quiet {s : State} {ie : Bool} (hb : s.run.intBit = ie) (h : Quiet s.ram s.notices ie)
    (p : Pause) (holder : Byte) :
    Quiet (s.walkerResume p holder).1.ram (s.walkerResume p holder).1.notices ie := by
  unfold State.walkerResume
  try dsimp only
  all_goals simp (maxDischargeDepth := 20) -implicitDefEqProofs [h, hb]

/-! ### Request Scanner and ambient measurement -/

@[simp] theorem notifyDone_quiet {s : State} {ie : Bool} (hb : s.run.intBit = ie) (h : Quiet s.ram s.notices ie)
    (i : Slot) (copy : List Byte) (code : Nat) :
    Quiet (s.notifyDone i copy code).ram (s.notifyDone i copy code).notices ie := by
  unfold State.notifyDone
  try dsimp only
  repeat' split
  all_goals simp (maxDischargeDepth := 20) -implicitDefEqProofs [h, hb]

@[simp] theorem answer_quiet {s : State} {ie : Bool} (hb : s.run.intBit = ie) (h : Quiet s.ram s.notices ie)
    (i : Slot) (copy : List Byte) (reply : Reply) :
    Quiet (s.answer i copy reply).ram (s.answer i copy reply).notices ie := by
  unfold State.answer
  try dsimp only
  repeat' split
  all_goals simp (maxDischargeDepth := 20) -implicitDefEqProofs [h, hb]

@[simp] theorem complete_quiet {s : State} {ie : Bool} (hb : s.run.intBit = ie) (h : Quiet s.ram s.notices ie)
    (i : Slot) (results : List Result) :
    Quiet (s.complete i results).ram (s.complete i results).notices ie := by
  unfold State.complete
  try dsimp only
  repeat' split
  all_goals simp (maxDischargeDepth := 20) -implicitDefEqProofs [h, hb]

@[simp] theorem completeAmbient_quiet {s : State} {ie : Bool} (hb : s.run.intBit = ie) (h : Quiet s.ram s.notices ie)
    (m : Ambient) :
    Quiet (s.completeAmbient m).ram (s.completeAmbient m).notices ie := by
  unfold State.completeAmbient
  try dsimp only
  all_goals simp (maxDischargeDepth := 20) -implicitDefEqProofs [h, hb]

@[simp] theorem abortAmbient_quiet {s : State} {ie : Bool} (hb : s.run.intBit = ie) (h : Quiet s.ram s.notices ie) :
    Quiet (s.abortAmbient).ram (s.abortAmbient).notices ie := by
  unfold State.abortAmbient
  try dsimp only
  all_goals simp (maxDischargeDepth := 20) -implicitDefEqProofs [h, hb]

@[simp] theorem ambientClosure_quiet {s : State} {ie : Bool} (hb : s.run.intBit = ie) (h : Quiet s.ram s.notices ie) :
    Quiet (s.ambientClosure).ram (s.ambientClosure).notices ie := by
  unfold State.ambientClosure
  try dsimp only
  repeat' split
  all_goals simp (maxDischargeDepth := 20) -implicitDefEqProofs [h, hb]

/-! ### Station Poller -/

@[simp] theorem setStationState_quiet {s : State} {ie : Bool} (hb : s.run.intBit = ie) (h : Quiet s.ram s.notices ie)
    (st : Station) (v : StationState) :
    Quiet (s.setStationState st v).ram (s.setStationState st v).notices ie := by
  unfold State.setStationState
  try dsimp only
  repeat' split
  all_goals simp (maxDischargeDepth := 20) -implicitDefEqProofs [h, hb]

@[simp] theorem takeOutcome_quiet {s : State} {ie : Bool} (hb : s.run.intBit = ie) (h : Quiet s.ram s.notices ie)
    (st : Station) (o : SecondOutcome) :
    Quiet (s.takeOutcome st o).ram (s.takeOutcome st o).notices ie := by
  unfold State.takeOutcome
  try dsimp only
  repeat' split
  all_goals simp (maxDischargeDepth := 20) -implicitDefEqProofs [h, hb]

@[simp] theorem reportLoop_quiet {s : State} {ie : Bool} (hb : s.run.intBit = ie) (h : Quiet s.ram s.notices ie)
    (l : Loop) :
    Quiet (s.reportLoop l).ram (s.reportLoop l).notices ie := by
  unfold State.reportLoop
  try dsimp only
  all_goals simp (maxDischargeDepth := 20) -implicitDefEqProofs [h, hb]

@[simp] theorem modLoop_quiet {s : State} {ie : Bool} (hb : s.run.intBit = ie) (h : Quiet s.ram s.notices ie)
    (l : Loop) (f : LoopLine → LoopLine) :
    Quiet (s.modLoop l f).ram (s.modLoop l f).notices ie := by
  unfold State.modLoop
  try dsimp only
  all_goals simp (maxDischargeDepth := 20) -implicitDefEqProofs [h, hb]

@[simp] theorem endProbe_quiet {s : State} {ie : Bool} (hb : s.run.intBit = ie) (h : Quiet s.ram s.notices ie)
    (p : Probe) (f : LoopLine → LoopLine) :
    Quiet (s.endProbe p f).ram (s.endProbe p f).notices ie := by
  unfold State.endProbe
  try dsimp only
  all_goals simp (maxDischargeDepth := 20) -implicitDefEqProofs [h, hb]

@[simp] theorem closeRound_quiet {s : State} {ie : Bool} (hb : s.run.intBit = ie) (h : Quiet s.ram s.notices ie) :
    Quiet (s.closeRound).ram (s.closeRound).notices ie := by
  unfold State.closeRound
  try dsimp only
  all_goals simp (maxDischargeDepth := 20) -implicitDefEqProofs [h, hb]

@[simp] theorem closeByLastOutcome_quiet {s : State} {ie : Bool} (hb : s.run.intBit = ie) (h : Quiet s.ram s.notices ie) :
    Quiet (s.closeByLastOutcome).ram (s.closeByLastOutcome).notices ie := by
  unfold State.closeByLastOutcome
  try dsimp only
  all_goals simp (maxDischargeDepth := 20) -implicitDefEqProofs [h, hb]

@[simp] theorem handMissing_quiet {s : State} {ie : Bool} (hb : s.run.intBit = ie) (h : Quiet s.ram s.notices ie)
    (sts : List Station) :
    Quiet (s.handMissing sts).ram (s.handMissing sts).notices ie := by
  unfold State.handMissing
  refine (foldl_preserves (fun t : State => t.run.intBit = ie ∧ Quiet t.ram t.notices ie) _ ?_ _ _ ⟨hb, h⟩).2
  rintro t a ⟨h1, h2⟩
  simp [h1, h2]

@[simp] theorem closeByDeadline_quiet {s : State} {ie : Bool} (hb : s.run.intBit = ie) (h : Quiet s.ram s.notices ie) :
    Quiet (s.closeByDeadline).ram (s.closeByDeadline).notices ie := by
  unfold State.closeByDeadline
  try dsimp only
  repeat' split
  all_goals simp (maxDischargeDepth := 20) -implicitDefEqProofs [h, hb]

@[simp] theorem proceed_quiet {s : State} {ie : Bool} (hb : s.run.intBit = ie) (h : Quiet s.ram s.notices ie) :
    Quiet (s.proceed).ram (s.proceed).notices ie := by
  unfold State.proceed
  try dsimp only
  repeat' split
  all_goals simp (maxDischargeDepth := 20) -implicitDefEqProofs [h, hb]

@[simp] theorem endExchange_quiet {s : State} {ie : Bool} (hb : s.run.intBit = ie) (h : Quiet s.ram s.notices ie)
    (e : Exchange) (o : SecondOutcome) :
    Quiet (s.endExchange e o).ram (s.endExchange e o).notices ie := by
  unfold State.endExchange
  try dsimp only
  all_goals simp (maxDischargeDepth := 20) -implicitDefEqProofs [h, hb]

@[simp] theorem failAttempt_quiet {s : State} {ie : Bool} (hb : s.run.intBit = ie) (h : Quiet s.ram s.notices ie)
    (e : Exchange) :
    Quiet (s.failAttempt e).ram (s.failAttempt e).notices ie := by
  unfold State.failAttempt
  try dsimp only
  repeat' split
  all_goals simp (maxDischargeDepth := 20) -implicitDefEqProofs [h, hb]

@[simp] theorem openRound_quiet {s : State} {ie : Bool} (hb : s.run.intBit = ie) (h : Quiet s.ram s.notices ie) :
    Quiet (s.openRound).ram (s.openRound).notices ie := by
  unfold State.openRound
  try dsimp only
  all_goals simp (maxDischargeDepth := 20) -implicitDefEqProofs [h, hb]

@[simp] theorem pollerSecond_quiet {s : State} {ie : Bool} (hb : s.run.intBit = ie) (h : Quiet s.ram s.notices ie) :
    Quiet (s.pollerSecond).ram (s.pollerSecond).notices ie := by
  unfold State.pollerSecond
  try dsimp only
  repeat' split
  all_goals simp (maxDischargeDepth := 20) -implicitDefEqProofs [h, hb]

@[simp] theorem completeTest_quiet {s : State} {ie : Bool} (hb : s.run.intBit = ie) (h : Quiet s.ram s.notices ie)
    (t : LoopTest) :
    Quiet (s.completeTest t).ram (s.completeTest t).notices ie := by
  unfold State.completeTest
  try dsimp only
  all_goals simp (maxDischargeDepth := 20) -implicitDefEqProofs [h, hb]

@[simp] theorem endTestFrame_quiet {s : State} {ie : Bool} (hb : s.run.intBit = ie) (h : Quiet s.ram s.notices ie)
    (t : LoopTest) (b : Bool) :
    Quiet (s.endTestFrame t b).ram (s.endTestFrame t b).notices ie := by
  unfold State.endTestFrame
  try dsimp only
  repeat' split
  all_goals simp (maxDischargeDepth := 20) -implicitDefEqProofs [h, hb]

@[simp] theorem frameAtExchange_quiet {s : State} {ie : Bool} (hb : s.run.intBit = ie) (h : Quiet s.ram s.notices ie)
    (l : Loop) (e : Exchange) (r : ReplyKind) :
    Quiet (s.frameAtExchange l e r).ram (s.frameAtExchange l e r).notices ie := by
  unfold State.frameAtExchange
  try dsimp only
  repeat' split
  all_goals simp (maxDischargeDepth := 20) -implicitDefEqProofs [h, hb]

@[simp] theorem frameAtProbe_quiet {s : State} {ie : Bool} (hb : s.run.intBit = ie) (h : Quiet s.ram s.notices ie)
    (l : Loop) (p : Probe) (r : ReplyKind) :
    Quiet (s.frameAtProbe l p r).ram (s.frameAtProbe l p r).notices ie := by
  unfold State.frameAtProbe
  try dsimp only
  repeat' split
  all_goals simp (maxDischargeDepth := 20) -implicitDefEqProofs [h, hb]

@[simp] theorem loopFrame_quiet {s : State} {ie : Bool} (hb : s.run.intBit = ie) (h : Quiet s.ram s.notices ie)
    (l : Loop) (bytes : List Byte) :
    Quiet (s.loopFrame l bytes).ram (s.loopFrame l bytes).notices ie := by
  unfold State.loopFrame
  try dsimp only
  repeat' split
  all_goals simp (maxDischargeDepth := 20) -implicitDefEqProofs [h, hb]

@[simp] theorem replyExpiry_quiet {s : State} {ie : Bool} (hb : s.run.intBit = ie) (h : Quiet s.ram s.notices ie)
    (l : Loop) (b : Bool) :
    Quiet (s.replyExpiry l b).ram (s.replyExpiry l b).notices ie := by
  unfold State.replyExpiry
  try dsimp only
  repeat' split
  all_goals simp (maxDischargeDepth := 20) -implicitDefEqProofs [h, hb]

@[simp] theorem stopTest_quiet {s : State} {ie : Bool} (hb : s.run.intBit = ie) (h : Quiet s.ram s.notices ie) :
    Quiet (s.stopTest).ram (s.stopTest).notices ie := by
  unfold State.stopTest
  try dsimp only
  repeat' split
  all_goals simp (maxDischargeDepth := 20) -implicitDefEqProofs [h, hb]

@[simp] theorem stopRound_quiet {s : State} {ie : Bool} (hb : s.run.intBit = ie) (h : Quiet s.ram s.notices ie) :
    Quiet (s.stopRound).ram (s.stopRound).notices ie := by
  unfold State.stopRound
  try dsimp only
  repeat' split
  all_goals simp (maxDischargeDepth := 20) -implicitDefEqProofs [h, hb]

@[simp] theorem stopStations_quiet {s : State} {ie : Bool} (hb : s.run.intBit = ie) (h : Quiet s.ram s.notices ie) :
    Quiet (s.stopStations).ram (s.stopStations).notices ie := by
  unfold State.stopStations
  refine quiet_forStations _ ?_ ?_ _ (by simp [hb]) (by simp [h]) <;> intros <;> (try dsimp only) <;> (repeat' split) <;> simp (maxDischargeDepth := 20) -implicitDefEqProofs [*]

/-! ### Requests -/

@[simp] theorem exchangeBook_quiet {s : State} {ie : Bool} (hb : s.run.intBit = ie) (h : Quiet s.ram s.notices ie)
    (b : List BookRecord) :
    Quiet (s.exchangeBook b).ram (s.exchangeBook b).notices ie := by
  unfold State.exchangeBook
  try dsimp only
  all_goals simp (maxDischargeDepth := 20) -implicitDefEqProofs [h, hb]

@[simp] theorem clockMoved_quiet {s : State} {ie : Bool} (hb : s.run.intBit = ie) (h : Quiet s.ram s.notices ie)
    (b : Bool) (c : Nat) :
    Quiet (s.clockMoved b c).ram (s.clockMoved b c).notices ie := by
  unfold State.clockMoved
  try dsimp only
  repeat' split
  all_goals simp (maxDischargeDepth := 20) -implicitDefEqProofs [h, hb]

@[simp] theorem putEntry_quiet {s : State} {n : NoticeWriter} {ie : Bool} (h : Quiet s.ram n ie)
    (st : Station) (e : StationEntry) :
    Quiet (s.putEntry st e).ram n ie := by
  unfold State.putEntry
  try dsimp only
  all_goals simp (maxDischargeDepth := 20) -implicitDefEqProofs [h]

@[simp] theorem disableAccount_quiet {s : State} {ie : Bool} (hb : s.run.intBit = ie) (h : Quiet s.ram s.notices ie)
    (st : Station) :
    Quiet (s.disableAccount st).ram (s.disableAccount st).notices ie := by
  unfold State.disableAccount
  try dsimp only
  all_goals simp (maxDischargeDepth := 20) -implicitDefEqProofs [h, hb]

@[simp] theorem disableInRound_quiet {s : State} {ie : Bool} (hb : s.run.intBit = ie) (h : Quiet s.ram s.notices ie)
    (st : Station) :
    Quiet (s.disableInRound st).ram (s.disableInRound st).notices ie := by
  unfold State.disableInRound
  try dsimp only
  repeat' split
  all_goals simp (maxDischargeDepth := 20) -implicitDefEqProofs [h, hb]

@[simp] theorem changeStation_quiet {s : State} {ie : Bool} (hb : s.run.intBit = ie) (h : Quiet s.ram s.notices ie)
    (st : Station) (e f : StationEntry) :
    Quiet (s.changeStation st e f).ram (s.changeStation st e f).notices ie := by
  unfold State.changeStation
  try dsimp only
  repeat' split
  all_goals simp (maxDischargeDepth := 20) -implicitDefEqProofs [h, hb]

/-! ### Run Control -/

@[simp] theorem startWriters_quiet {s : State} {ie : Bool} (hb : s.run.intBit = ie) (h : Quiet s.ram s.notices ie)
    (c : StartConfig) :
    Quiet (s.startWriters c).ram (s.startWriters c).notices ie := by
  exact ((Quiet.writeLe (Quiet.writeLe h _ _ _) _ _ _))

@[simp] theorem takeConfig_quiet {s : State} {ie : Bool} (hb : s.run.intBit = ie) (h : Quiet s.ram s.notices ie)
    (d : StartData) :
    Quiet (s.takeConfig d).ram (s.takeConfig d).notices ie := by
  unfold State.takeConfig
  try dsimp only
  all_goals simp (maxDischargeDepth := 20) -implicitDefEqProofs [h, hb]

@[simp] theorem startWalker_quiet {s : State} {ie : Bool} (hb : s.run.intBit = ie) (h : Quiet s.ram s.notices ie)
    (d : StartData) :
    Quiet (s.startWalker d).ram (s.startWalker d).notices ie := by
  unfold State.startWalker
  try dsimp only
  all_goals simp (maxDischargeDepth := 20) -implicitDefEqProofs [h, hb]

@[simp] theorem stopAmbient_quiet {s : State} {ie : Bool} (hb : s.run.intBit = ie) (h : Quiet s.ram s.notices ie) :
    Quiet (s.stopAmbient).ram (s.stopAmbient).notices ie := by
  unfold State.stopAmbient
  try dsimp only
  repeat' split
  all_goals simp (maxDischargeDepth := 20) -implicitDefEqProofs [h, hb]

@[simp] theorem stopMinute_quiet {s : State} {ie : Bool} (hb : s.run.intBit = ie) (h : Quiet s.ram s.notices ie) :
    Quiet (s.stopMinute).ram (s.stopMinute).notices ie := by
  unfold State.stopMinute
  try dsimp only
  all_goals simp (maxDischargeDepth := 20) -implicitDefEqProofs [h, hb]

end Sys2Proof.Machine
end

