-- ==== Sys2Proof/Laws/Slots.lean ====
section
/-! SUPPORT. What the taking of a slot, its final state and a notice do to shared RAM: the lemmas that a proof about a request
cites in place of unfolding the writes. -/

namespace Sys2Proof.Machine

/-! ### Fields of a record that has been read -/

theorem length_read (m : Memory) (a n : Nat) : (m.read a n).length = n := by
  induction n generalizing a with
  | zero => rfl
  | succ n ih => simp [Memory.read, ih]

theorem read_drop_take (m : Memory) (a len off n : Nat) (h : off + n ≤ len) :
    ((m.read a len).drop off).take n = m.read (a + off) n := by
  induction off generalizing a len with
  | zero =>
    induction n generalizing a len with
    | zero => simp [Memory.read]
    | succ n ih =>
      cases len with
      | zero => omega
      | succ len =>
        have := ih (a + 1) len (by omega)
        simp only [List.drop_zero, Nat.add_zero] at this ⊢
        simp [Memory.read, this]
  | succ off ih =>
    cases len with
    | zero => omega
    | succ len => rw [Memory.read, List.drop_succ_cons, ih (a + 1) len (by omega), show a + 1 + off = a + (off + 1) by omega]

/-- A field of a record is the number at its place in RAM. -/
theorem field_read (m : Memory) (a len off n : Nat) (h : off + n ≤ len) : field (m.read a len) off n = m.readLe (a + off) n := by
  rw [field, read_drop_take m a len off n h, Memory.readLe]

/-- A parameter of the internal copy of a slot (Table 9-8). -/
theorem field_copy (s : State) (i : Slot) (off n : Nat) (h : off + n ≤ 64) :
    field (s.ram.read (slotAddr i) 64) off n = s.param i off n := field_read _ _ _ _ _ h

theorem copyKind_copy (s : State) (i : Slot) : copyKind (s.ram.read (slotAddr i) 64) = s.param i 0x01 1 :=
  field_copy s i _ _ (by omega)

theorem copyNotify_copy (s : State) (i : Slot) : copyNotify (s.ram.read (slotAddr i) 64) = s.notifies i := by
  rw [copyNotify, field_copy s i _ _ (by omega), State.notifies]

/-- A number of one byte. -/
theorem readLe_one (m : Memory) (a : Nat) : m.readLe a 1 = (m.byte a).toNat := by simp [Memory.readLe, Memory.read, leNat]

theorem param_one_lt (s : State) (i : Slot) (off : Nat) : s.param i off 1 < 256 := by
  rw [State.param, readLe_one]; exact (s.ram.byte _).isLt

theorem parityError_iff (m : Memory) (a n : Nat) : m.parityError a n = true ↔ ∃ x, a ≤ x ∧ x < a + n ∧ m.badAt x = true := by
  induction n generalizing a with
  | zero => simp [Memory.parityError]; intro x h1 h2; omega
  | succ n ih =>
    rw [Memory.parityError, Bool.or_eq_true, ih]
    constructor
    · rintro (h | ⟨x, h1, h2, h3⟩)
      · exact ⟨a, le_refl a, by omega, h⟩
      · exact ⟨x, by omega, by omega, h3⟩
    · rintro ⟨x, h1, h2, h3⟩
      by_cases hx : x = a
      · exact .inl (hx ▸ h3)
      · exact .inr ⟨x, by omega, by omega, h3⟩

/-! ### Final states -/

/-- A write of numbers leaves the bytes outside it alone. -/
theorem keeps_writeLe {m : Memory} (h : m.wf = true) (a n v : Nat) :
    keepsOutside (fun x => a ≤ x ∧ x < a + n) m (m.writeLe a n v) := by
  intro x hx
  rw [Memory.writeLe]
  exact ⟨byte_writeBytes_outside h a _ (by rw [length_leBytes]; omega),
    by rw [badAt_writeBytes, length_leBytes, decide_eq_true (by omega), Bool.and_true]⟩

theorem keepsOutside_refl (p : Nat → Prop) (m : Memory) : keepsOutside p m m := fun _ _ => ⟨rfl, rfl⟩

theorem keepsOutside_trans {p q r : Nat → Prop} {m k l : Memory} (h : keepsOutside p m k) (g : keepsOutside q k l)
    (hp : ∀ a, p a → r a) (hq : ∀ a, q a → r a) : keepsOutside r m l := fun a ha =>
  ⟨(g a fun x => ha (hq a x)).1.trans (h a fun x => ha (hp a x)).1,
    (g a fun x => ha (hq a x)).2.trans (h a fun x => ha (hp a x)).2⟩

theorem wf_writeResults {m : Memory} (h : m.wf = true) (i : Slot) (results : List Result) :
    (m.writeResults i results).wf = true := by
  induction results generalizing m with
  | nil => exact h
  | cons r rs ih => exact ih (wf_writeLe h _ _ _)

theorem wf_finishSlot {m : Memory} (h : m.wf = true) (i : Slot) (state code : Nat) (results : List Result) :
    (m.finishSlot i state code results).wf = true := wf_writeLe (wf_writeLe (wf_writeResults h i results) _ _ _) _ _ _

theorem keeps_writeResults {m : Memory} (h : m.wf = true) (i : Slot) (results : List Result) :
    keepsOutside (fun a => ∃ r ∈ results, slotAddr i + r.off ≤ a ∧ a < slotAddr i + r.off + r.size) m
      (m.writeResults i results) := by
  induction results generalizing m with
  | nil => exact keepsOutside_refl _ m
  | cons r rs ih =>
    refine keepsOutside_trans (keeps_writeLe h (slotAddr i + r.off) r.size r.value) (ih (wf_writeLe h _ _ _))
      (fun a ha => ⟨r, List.mem_cons_self, ha⟩) (fun a ⟨q, hq, ha⟩ => ⟨q, List.mem_cons_of_mem _ hq, ha⟩)

/-- The places of results, each after the one before, from offset 4 of the slot to its end. -/
def placed : Nat → List Result → Prop
  | from_, [] => from_ ≤ 64
  | from_, r :: rs => from_ ≤ r.off ∧ placed (r.off + r.size) rs

theorem placed_le {a : Nat} {rs : List Result} (h : placed a rs) : a ≤ 64 := by
  induction rs generalizing a with
  | nil => exact h
  | cons r rs ih => have := ih h.2; have := h.1; omega

theorem placed_mem {a : Nat} {rs : List Result} (h : placed a rs) {r : Result} (hr : r ∈ rs) :
    a ≤ r.off ∧ r.off + r.size ≤ 64 := by
  induction rs generalizing a with
  | nil => cases hr
  | cons q qs ih =>
    rcases List.mem_cons.1 hr with rfl | hr
    · exact ⟨h.1, placed_le h.2⟩
    · have := ih h.2 hr; have := h.1; omega

theorem readLe_writeResults {m : Memory} (h : m.wf = true) (i : Slot) {a : Nat} {results : List Result}
    (hp : placed a results) : ∀ r ∈ results, (m.writeResults i results).readLe (slotAddr i + r.off) r.size = r.value % 256 ^ r.size := by
  induction results generalizing m a with
  | nil => simp
  | cons q qs ih =>
    intro r hr
    rcases List.mem_cons.1 hr with rfl | hr
    · have hk := keeps_writeResults (wf_writeLe h (slotAddr i + r.off) r.size r.value) i qs
      rw [← readLe_writeLe h (slotAddr i + r.off) r.size r.value]
      refine readLe_congr _ _ fun x h1 h2 => (hk x ?_).1
      rintro ⟨q, hq, h3, h4⟩
      have := (placed_mem hp.2 hq).1
      omega
    · exact ih (wf_writeLe h _ _ _) hp.2 r hr

/-- What a final state leaves in its slot, for results placed from offset 4 on. -/
theorem slotHolds_finishSlot {m : Memory} (h : m.wf = true) (i : Slot) (state code : Nat) {results : List Result}
    (hp : placed 4 results) (hs : state < 256) (hc : code < 256) :
    slotHolds (m.finishSlot i state code results) i state code results := by
  have w1 := wf_writeResults h i results
  have w2 := wf_writeLe w1 (slotAddr i + 0x03) 1 code
  refine ⟨?_, ?_, fun r hr => ?_⟩
  · rw [Memory.finishSlot, readLe_writeLe w2]; omega
  · rw [Memory.finishSlot, Memory.writeLe, readLe_writeBytes_outside w2 _ _ (by simp), readLe_writeLe w1]; omega
  · have := (placed_mem hp hr).1
    rw [Memory.finishSlot, Memory.writeLe, readLe_writeBytes_outside w2 _ _ (by rw [length_leBytes]; omega), Memory.writeLe,
      readLe_writeBytes_outside w1 _ _ (by rw [length_leBytes]; omega), readLe_writeResults h i hp r hr]

/-- What a final state leaves as it was. -/
theorem keeps_finishSlot {m : Memory} (h : m.wf = true) (i : Slot) (state code : Nat) (results : List Result) :
    keepsOutside (inResults i results) m (m.finishSlot i state code results) := by
  have w1 := wf_writeResults h i results
  refine keepsOutside_trans (keepsOutside_trans (keeps_writeResults h i results) (keeps_writeLe w1 (slotAddr i + 0x03) 1 code)
    (r := inResults i results) ?_ ?_) (keeps_writeLe (wf_writeLe w1 _ _ _) (slotAddr i) 1 state) (fun _ ha => ha) ?_
  · exact fun a ha => .inr (.inr ha)
  · exact fun a ha => .inr (.inl (by omega))
  · exact fun a ha => .inl (by omega)

/-! ### Notices -/

/-- A notice, written or lost, leaves every byte outside the entry at the head alone. -/
theorem keeps_post {s : State} (h : s.ram.wf = true) (kind subject detail : Nat) :
    keepsOutside (inNextNotice s.notices) s.ram (s.post kind subject detail).ram := by
  intro a ha
  unfold State.post
  split
  · exact ⟨rfl, rfl⟩
  · have hl : (noticeBytes s.notices.seq.toNat kind subject s.clock detail).length = 16 := by simp [noticeBytes]
    unfold inNextNotice at ha
    have hb : Config.noticeBase = 0x2400 := rfl
    exact ⟨byte_writeBytes_outside h _ _ (by rw [hl, hb]; omega),
      by show Memory.badAt (Memory.writeBytes _ _ _) a = _; rw [badAt_writeBytes, hl, hb, decide_eq_true (by omega), Bool.and_true]⟩

theorem inNextNotice_queue {n : NoticeWriter} {a : Nat} (h : inNextNotice n a) : inNoticeQueue a := by
  have := n.head.isLt
  unfold inNextNotice at h
  unfold inNoticeQueue
  omega

/-- No byte of a slot is a byte of the notice queue (Table 9-1). -/
theorem slot_not_queue (i : Slot) {a : Nat} (h : slotAddr i ≤ a) (h2 : a < slotAddr i + 64) : ¬ inNoticeQueue a := by
  have := i.isLt
  have hs : Config.slotBase = 0x1C00 := rfl
  unfold slotAddr at h h2
  unfold inNoticeQueue
  omega

theorem slotHolds_congr {m k : Memory} {i : Slot} {state code : Nat} {results : List Result} (hp : placed 4 results)
    (h : ∀ a, slotAddr i ≤ a → a < slotAddr i + 64 → k.byte a = m.byte a) (hm : slotHolds m i state code results) :
    slotHolds k i state code results := by
  refine ⟨?_, ?_, fun r hr => ?_⟩
  · rw [← hm.1]; exact readLe_congr _ _ fun x h1 h2 => h x h1 (by omega)
  · rw [← hm.2.1]; exact readLe_congr _ _ fun x h1 h2 => h x (by omega) (by omega)
  · rw [← hm.2.2 r hr]
    have := placed_mem hp hr
    exact readLe_congr _ _ fun x h1 h2 => h x (by omega) (by omega)

/-- The notices after a posting depend on the notices and INT_ENABLE alone. -/
theorem post_notices_congr {s t : State} (hn : t.notices = s.notices) (hr : t.run = s.run) (k a d : Nat) :
    (t.post k a d).notices = (s.post k a d).notices := by
  unfold State.post State.driveIrq
  rw [hn, hr]
  split <;> rfl

/-! ### The answer to a request -/

/-- R170, R171: a request that ends within its taking in a block that has left RAM, notices and run values alone. -/
theorem answered_of {s u : State} (h : s.ram.wf = true) (hm : u.ram = s.ram) (hn : u.notices = s.notices) (hr : u.run = s.run)
    (i : Slot) {state code : Nat} {results : List Result} (hp : placed 4 results) (hs : state < 256) (hc : code < 256) :
    s.Answered ((u.setRam (u.ram.finishSlot i state code results)).notifyDone i (s.ram.read (slotAddr i) 64) code) i state code
      results := by
  rw [hm]
  have hw := wf_finishSlot h i state code results
  have hold := slotHolds_finishSlot h i state code hp hs hc
  have keep := keeps_finishSlot h i state code results
  generalize s.ram.finishSlot i state code results = m at hw hold keep ⊢
  unfold State.notifyDone State.Answered
  rw [copyNotify_copy, copyKind_copy]
  cases hv : s.notifies i with
  | false =>
    simp only [Bool.false_eq_true, if_false, false_and, or_false]
    exact ⟨hold, keep, hn⟩
  | true =>
    simp only [if_true, true_and]
    have hq := post_notices_congr (s := s) (t := u.setRam m) hn hr 16 i.val (s.param i 0x01 1 + 256 * code)
    have hk := keeps_post (s := u.setRam m) hw 16 i.val (s.param i 0x01 1 + 256 * code)
    rw [State.postRequestDone, Nat.mod_eq_of_lt (param_one_lt s i 1)]
    refine ⟨slotHolds_congr hp (fun a h1 h2 => (hk a fun hq => slot_not_queue i h1 h2 (inNextNotice_queue hq)).1) hold, ?_, hq⟩
    refine keepsOutside_trans keep hk (fun a ha => .inl ha) (fun a ha => .inr ?_)
    rw [← hn]; exact ha

/-! ### The taking -/

/-- The command of a request kind, where the scan takes that slot next and finds that kind, takes the slot. -/
theorem takeKind_of_takes {s : State} {i : Slot} {p : Scan} {k : RequestKind} (h : s.TakesNext i p k) (o : Open) :
    s.takeKind o (SlotKind.is k) i = s.takeSlot o i p := by
  unfold State.takeKind
  rw [h.1]
  have hk : SlotKind.is k (s.ram.slotKind i) = true := by rw [h.2]; simp [SlotKind.is]
  simp [hk]

/-- The scan moves only in IDLE and RUNNING. -/
theorem takes_run {s : State} {i : Slot} {p : Scan} (h : s.nextTaken = some (i, p)) : s.run.state = .idle ∨ s.run.state = .running := by
  unfold State.nextTaken at h
  split at h
  · assumption
  · cases h

/-- No taking of a request changes the run values or the queue. -/
theorem serve_run (o : Open) (i : Slot) (copy : List Byte) (s : State) (k : RequestKind) :
    (serve o i copy s k).1.run = s.run ∧ (serve o i copy s k).1.pending = s.pending := by
  cases k <;> simp only [serve]
  · unfold serveSetClock; (try dsimp only); repeat' split
    all_goals simp
  · unfold serveRestartSchedule; split <;> simp
  · unfold serveResumeSchedule; repeat' split
    all_goals simp
  · unfold serveSetWatch; (try dsimp only); repeat' split
    all_goals simp
  · unfold serveSwapBook; (try dsimp only); repeat' split
    all_goals simp
  · unfold serveSetFlags; (try dsimp only); repeat' split
    all_goals simp
  · unfold serveHoldStage; (try dsimp only); repeat' split
    all_goals simp
  · unfold serveReleaseStage; (try dsimp only); repeat' split
    all_goals simp
  · unfold serveMeasureAmbient; (try dsimp only); repeat' split
    all_goals simp
  · unfold serveAbortAmbient; (try dsimp only); repeat' split
    all_goals simp
  · unfold serveSetAmbient; (try dsimp only); repeat' split
    all_goals simp
  · unfold serveLoopTest; (try dsimp only); repeat' split
    all_goals simp
  · unfold serveSetStation; (try dsimp only); repeat' split
    all_goals simp
  · unfold serveReadWindow; (try dsimp only); repeat' split
    all_goals simp

theorem markInFlight_run (i : Slot) (copy : List Byte) (r : Reply) (s : State) :
    (s.markInFlight i copy r).run = s.run ∧ (s.markInFlight i copy r).pending = s.pending := by
  unfold State.markInFlight; constructor <;> split <;> rfl

theorem takeSlot_run (o : Open) (i : Slot) (p : Scan) (s : State) :
    (s.takeSlot o i p).run = s.run ∧ (s.takeSlot o i p).pending = s.pending := by
  unfold State.takeSlot
  dsimp only
  cases s.ram.slotKind i <;> simp [markInFlight_run, serve_run]

theorem runScan_run (o : Open) (n : Nat) (s : State) : (s.runScan o n).run = s.run ∧ (s.runScan o n).pending = s.pending := by
  induction n generalizing s with
  | zero => exact ⟨rfl, rfl⟩
  | succ n ih =>
    unfold State.runScan
    split
    · exact ⟨(ih _).1.trans (takeSlot_run o _ _ s).1, (ih _).2.trans (takeSlot_run o _ _ s).2⟩
    · split <;> exact ⟨rfl, rfl⟩

end Sys2Proof.Machine
end

