-- ==== Sys2Proof/Tests/Slice0.lean ====
section
/-! SUPPORT. Tests, each on one small state: the checks of WellFormed, the frames and the commands with results taken from the
manual's worked sequences or worked out from its rules by hand; and, for each statement that has hypotheses, a theorem named
witness_ and the statement's name that shows states and operands that meet them. -/

namespace Sys2Proof.Tests

open Sys2Proof Sys2Proof.Machine

-- One test at a time: tests that wait for the kernel side by side each hold a thread's stack.
set_option Elab.async false

/-! ### Small states -/

/-- The state after a command. -/
def after (c : Instr) (s : State) : State :=
  match exec c s with
  | .next t => t
  | .fault _ => s
  | .refused _ => s

/-- Accounts whose rings list nothing, which keep the tests small. -/
def bare : Accumulator := { Accumulator.reset with accts := Vector.replicate 16 { Account.reset with ring := [] } }

/-- The part in IDLE after a hardware reset. -/
def idle : State :=
  { State.reset with
    run := { state := .idle, resetAsserted := false, error := .none, runBit := false, muteBit := false, intBit := false }
    acc := bare }

/-- The part in STARTING. -/
def starting : State := { idle with run := { idle.run with state := .starting, runBit := true } }

/-- A final LIMIT entry of 300 seconds. -/
def limit : LimitEntry :=
  { index := 1, start := 0, next := 0, final := true, set := 0, w := 300, h := 120, k := 2, ceil := Vector.replicate 4 4096 }

/-- Stations 0 and 1 at addresses 10 and 11. -/
def table : Vector StationEntry 16 := Vector.ofFn fun st : Fin 16 =>
  { enabled := decide (st.val < 2), addr := 10 + st.val, loop := if st.val = 0 then .a else .b }

/-- A record with limit powers 316 and 1000 and shares 160, 64, 8 and 0. -/
def record : BookRecord := { pLimA := 316, pLimC := 1000, shares := #v[160, 64, 8, 0] }

/-- The part in RUNNING: the walker WAITING behind `limit`, four enabled links, two stations. -/
def running : State :=
  { idle with
    run := { idle.run with state := .running, runBit := true }
    clock := 1000
    acc := { bare with w := 300, h := 120, k := 2, primePending := false }
    gain :=
      { stages := Vector.replicate 4 { GainStage.reset with sched := some 4096 }
        cfg := some { dn := 512, up := 256, cMin := 16, fault := 2048, lost := Vector.replicate 4 2800 } }
    poller :=
      { Poller.reset with
        copy := some table, timing := some { timeout := 4, retries := 1, alternate := true }, roundNo := 1000
        states := Vector.ofFn fun st : Fin 16 => if st.val < 2 then .unknown else .disabled }
    links := { lines := Vector.replicate 4 .reset, cfg := some { enabled := Vector.replicate 4 true, stopCeiling := 0 } }
    walker := { state := .waiting, active := some limit, watch := 0, pause := none, links := 0 }
    book := { BookStore.reset with working := some (List.replicate 128 record) }
    log := { LogWriter.reset with minuteOpen := true } }

/-- A scan that reads slot `i` next and last, and finds these bytes there. -/
def posted (i : Slot) (bytes : List Byte) (s : State) : State :=
  { s with
    ram := s.ram.writeBytes (slotAddr i) bytes
    scanner := { s.scanner with scan := some { next := i, left := 1, last := none } } }

/-- The scan's progress once slot `i` of `posted i` has been read. -/
def taken (i : Slot) : Scan := { next := slotAfter i 1, left := 0, last := some i }

/-- The low half of the next register write. -/
def latched (v : Half) (s : State) : State := { s with regs := { s.regs with writeLatch := v } }

/-- A round of station 0's exchange on loop A in the phase given, station 1 listed behind it. -/
def polling (phase : AttemptPhase) (made : Nat) : State :=
  { running with
    poller := { running.poller with
      roundOpen := true, todo := [1]
      exch := some { station := 0, addr := 10, pref := .a, made := made, loop := .a, phase := phase, earlier := [] } } }

/-- The same exchange with no station listed behind it. -/
def last (s : State) : State := { s with poller := { s.poller with todo := [] } }

/-- A probe of the DOWN loop A in the phase given, through station 0, no round open. -/
def probing (phase : AttemptPhase) : State :=
  { running with
    poller := { running.poller with
      loops := upd running.poller.loops 0 { LoopLine.reset with state := .down, fails := 8, probe := 0 }
      probe := some { station := 0, addr := 10, loop := .a, phase := phase } } }

/-- Stage 2 with a command outstanding and its frame sent: sequence number 40, ceiling 3,072 (Table 4-3). -/
def carrying (attempt : Nat) (pend : Option Nat) : State :=
  { running with
    links := { running.links with
      lines := upd running.links.lines 2
        { Link.reset with
          state := .up, limiter := .normal, seq := 41, pend := pend
          out := some { seq := 40, ceiling := 3072, attempt := attempt, phase := .waiting } } } }

/-- Loop B under test, TEST frame `frame` in flight with every frame before it intact. -/
def testing (frame : Nat) : State :=
  { running with
    ram := Memory.cleared.writeBytes (slotAddr 9) [2, 12, 1]
    scanner := { running.scanner with inFlight := [{ slot := 9, copy := [2, 12, 1, 0, 1] }] }
    poller := { running.poller with
      loops := upd running.poller.loops 1 { LoopLine.reset with state := .testing }
      test := some
        { loop := .b, slot := 9, rounds := if frame ≤ 8 then 1 else 2, frame := frame, inFlight := true, intact := frame - 1 } } }

/-- A measurement of station 0 in flight for slot 5, in MEASURING with 3 of 10 rounds left. -/
def measuring : State :=
  { running with
    ram := Memory.cleared.writeBytes (slotAddr 5) [2, 9, 1]
    scanner := { running.scanner with inFlight := [{ slot := 5, copy := [2, 9, 1, 0] }] }
    acc := { running.acc with
      ambient := { phase := .measuring, slot := 5, mask := 1, dur := 10, settle := 0, measure := 3, got := Vector.replicate 16 .zero } }
    gain := { running.gain with
      stages := Vector.replicate 4 { GainStage.reset with sched := some 4096, ambient := some 0, applied := 0 } } }

/-- A schedule of one entry, `limit`, in an otherwise cleared RAM. -/
def scheduled : Memory :=
  (Memory.cleared.writeBytes 0x3404 [1, 0, 1, 0]).writeBytes 0x3420
    [1, 0, 1, 0, 0, 0, 0, 0, 44, 1, 120, 0, 2, 0, 0, 16, 0, 16, 0, 16, 0, 16]

/-! ### WellFormed, Decode -/

theorem test_wf_loop_frame_of_15_bytes : WellFormed.check (.loopFrameReceived .a (List.replicate 15 0)) = false := by decide

theorem test_wf_loop_frame_of_16_bytes : WellFormed.check (.loopFrameReceived .a (List.replicate 16 0)) = true := by decide

theorem test_wf_link_frame_of_7_bytes : WellFormed.check (.linkFrameReceived 0 (List.replicate 7 0)) = false := by decide

theorem test_wf_second_order_repeats : WellFormed.check (.secondEvent [.scanner, .walker, .scanner]) = false := by decide

theorem test_wf_second_order : WellFormed.check (.secondEvent [.scanner, .walker]) = true := by decide

/-- The table gives no row any bits. -/
theorem test_no_row_has_bits : decodeTableWord 0 0 = none := by decide

/-! ### Frames (the manual's worked example of section 3.1) -/

theorem test_poll_frame : pollFrame 5 1000244 = [0xC3, 0x5A, 0x05, 0x34, 0x37, 0x71] := by decide

theorem test_second_frame :
    parseSecond [0x3C, 0xA5, 0x05, 0x34, 0, 0, 0x90, 0x01, 0, 0, 0xB0, 0x04, 0, 0, 0x7E, 0x20] =
      some { addr := 5, echo := 0x34, outcome := .valid 400 1200 false false false false } := by decide

theorem test_second_frame_bit_lost :
    parseSecond [0x3C, 0xA5, 0x05, 0x34, 0, 0, 0x10, 0x01, 0, 0, 0xB0, 0x04, 0, 0, 0x7E, 0x20] = none := by decide

/-! ### The accumulator (Table 1-4, Table 1-3) -/

/-- Table 1-4: a station primed over 300 seconds at 316 + 31. -/
theorem test_priming : let a := Account.reset.prime 300 316 31 1000 0; (a.n, a.a.s) = (300, 104100) := by decide

/-- Table 1-4, the window that grows: nothing but ABSENT lies beyond age 299. -/
theorem test_resum_grows :
    let a := (Account.reset.prime 300 316 31 1000 0).resum 300 900; (a.n, a.a.s) = (300, 104100) := by decide +kernel

/-- Table 1-3, second t+1: 18,000 + 400 − 310. -/
theorem test_advance :
    let x : Sample := { mark := .present, eA := 310, eC := 0 }
    let a : Account := { Account.reset with ring := List.replicate 60 x, n := 60, a := { BandAccount.reset with s := 18000 } }
    ((a.advance 60 { mark := .present, eA := 400, eC := 0 }).n, (a.advance 60 { mark := .present, eA := 400, eC := 0 }).a.s) =
      (60, 18090) := by decide

/-- R12, Table 1-3: the third missing second repeats the sample before, the fourth does not. -/
theorem test_hold :
    let x : Sample := { mark := .held, eA := 380, eC := 7 }
    (sampleFor .missing 3 x, sampleFor .missing 4 x) = (x, Sample.unwritten) := by decide

/-- R32: an overdraft of one unit lowers the allowance by one. -/
theorem test_allowance_floor : allowance (-1) 316 120 2 = 315 := by decide

/-- R36: 256·2,048 − (256 − 160)·4,096 over 160, floored. -/
theorem test_stage_demand : stageDemand 2048 160 = 819 := by decide

/-- R49, the worked sequence of Table 4-4: min(max(1,269, 1,500 − 1,024), 1,500). -/
theorem test_ramp : ramp 1269 1500 1024 256 1500 = 1269 := by decide

/-! ### Commands -/

theorem test_hardware_reset : (after .hardwareReset running).run = RunControl.reset := by decide

theorem test_reset_release : (after .resetRelease State.reset).run.resetAsserted = false := by decide

theorem test_ram_clear_complete :
    let t := after .ramClearComplete (after .resetRelease State.reset)
    (t.run.state, t.notices.head, t.ram.readLe 0x2400 4, t.ram.readLe 0x2408 4) = (.idle, 1, 0x00170000, 0x0100) := by
  decide

/-- R108: the largest value is followed by 0. -/
theorem test_second_event_wraps : (after (.secondEvent []) { idle with clock := 2147483647 }).clock = 0 := by decide

/-- R63: the round takes the clock's new value as its number and begins with the lowest enabled station. -/
theorem test_second_event_round :
    let t := after (.secondEvent []) running
    (t.poller.roundNo, t.poller.exch.map Exchange.station, t.poller.todo) = (1001, some 0, [1]) := by decide +kernel

theorem test_start : (after (.start 0) (latched 1 idle)).run.state = .starting := by decide

/-- Table 7-3: with a cleared RAM the last check fails. -/
theorem test_start_error :
    let t := after .startChecksComplete starting
    (t.run.state, t.run.error, t.run.runBit) = (.idle, .schedule, false) := by decide

/-- R128: the head entry is active and final. -/
theorem test_start_success :
    let t := after .startChecksComplete { starting with ram := scheduled }
    (t.run.state, t.walker.state, t.walker.active.map LimitEntry.index, t.acc.w) = (.running, .final, some 1, 300) := by
  decide +kernel

theorem test_stop : let t := after (.stop 0) running; (t.run.state, t.walker.state) = (.idle, .unstarted) := by decide +kernel

/-- R163: a stop in STARTING is the start error STOPPED. -/
theorem test_stop_in_starting :
    let t := after (.stop 0) starting; (t.run.state, t.run.error) = (.idle, .stopped) := by decide

theorem test_soft_reset :
    let t := after (.softReset 0) (latched 2 running); (t.run.state, t.book.working, t.clock) = (.idle, none, 1000) := by
  decide

/-- Table 4-3: the hard drop of an IMMEDIATE_MUTE abandons command 40 and carries 0 as command 41. -/
theorem test_immediate_mute :
    (after (.immediateMute 0) (latched 5 (carrying 2 none))).links.lines[2].out.map (fun c => (c.seq, c.ceiling, c.attempt)) =
      some (41, 0, 1) := by decide +kernel

theorem test_int_enable :
    (after (.intEnable 0) (latched 8 { idle with notices := { idle.notices with head := 1 } })).notices.irq = true := by
  decide

theorem test_overrun_clear :
    (after (.noticeOverrunClear 1) { idle with notices := { idle.notices with overrun := true } }).notices.overrun = false := by
  decide

theorem test_attention : (after (.attention 0) idle).scanner.scan = some { next := 0, left := 32, last := none } := by
  decide

theorem test_tail_above_255 : (after (.noticeTailWrite 1) (latched 7 idle)).notices.tail = 0 := by decide

theorem test_low_half_write : (after (.registerLowHalfWrite .showClock 0x1234) idle).regs.writeLatch = 0x1234 := by
  decide

theorem test_write_ignored : after (.registerWriteIgnored .ident 7) idle = idle := by decide

theorem test_host_write_enables :
    let t := after (.hostRamAccess 0x10 (.write 0xABCD false true)) idle
    (t.ram.readLe 0x20 1, t.ram.readLe 0x21 1) = (0, 0xAB) := by decide

/-- R192: IDENT reads 0x00014C43. -/
theorem test_ident : let t := after (.registerLowHalfRead .ident) idle; (t.regs.bus, t.regs.readLatch) = (0x4C43, 1) := by
  decide

theorem test_disturbed : let t := after (.ramContentDisturbed 0x200 5) idle; (t.ram.byte 0x200, t.ram.badAt 0x200) = (5, true) := by
  decide

/-- R169: the pointer moves one past the last slot taken; here slot 31, after which comes slot 0. -/
theorem test_request_scan :
    let t := after (.requestScan 0) (posted 31 [1, 6, 0, 0, 4, 0, 4] idle)
    (t.scanner.flags, t.scanner.pointer, t.scanner.scan) = (4, 0, none) := by decide

theorem test_set_clock :
    let t := after (.setClock 0 false) (posted 0 [1, 1, 0, 0, 0x10, 0x27] idle)
    (t.clock, t.ram.readLe 0x1C00 1, t.ram.readLe 0x1C24 4) = (10000, 3, 10000) := by decide

/-- R134, R137: a restart into an empty schedule header is a FIELD fault. -/
theorem test_restart_schedule :
    let t := after (.restartSchedule 0) (posted 0 [1, 2] running)
    (t.walker.state, t.ram.readLe 0x1C23 1, t.ram.readLe 0x0200 1, t.gain.stages[0].applied) = (.faulted, 5, 1, 2048) := by
  decide +kernel

theorem test_resume_schedule_conflict :
    (after (.resumeSchedule 0 0) (posted 0 [1, 3] running)).ram.readLe 0x1C00 4 = 0x05000304 := by decide

theorem test_set_watch :
    let t := after (.setWatch 0) (posted 0 [1, 4, 0, 0, 255] running); (t.walker.watch, t.ram.readLe 0x1C20 1) = (255, 0) := by
  decide

theorem test_swap_book :
    let t := after (.swapBook 0) (posted 0 [1, 5] running); (t.book.area, t.ram.readLe 0x1C20 2) = (1, 0x0100) := by
  decide

theorem test_set_flags_bad_field : (after (.setFlags 0) (posted 0 [1, 6, 0, 0, 0, 1] idle)).ram.readLe 0x1C03 1 = 2 := by
  decide

/-- R172: a hold of 5,000 is clamped to 4,096; one of 1,024 clips. -/
theorem test_hold_stage :
    let t := after (.holdStage 0 0) (posted 0 [1, 7, 0, 0, 2, 0, 0, 4] running)
    (t.gain.stages[2].applied, t.ram.readLe 0x1C24 2, t.ram.readLe 0x1C28 2) = (1024, 1024, 1024) := by decide

theorem test_release_stage :
    (after (.releaseStage 0 0) (posted 0 [1, 8, 0, 0, 2] running)).ram.readLe 0x1C20 2 = 2 := by decide

theorem test_measure_ambient :
    let t := after (.measureAmbient 0) (posted 0 [1, 9, 0, 0, 10, 0, 0, 0, 1] running)
    (t.acc.ambient.phase, t.acc.ambient.settle, t.gain.stages[3].applied, t.ram.readLe 0x1C00 1) = (.settling, 5, 0, 2) := by
  decide +kernel

/-- R153: ABORTED (2), 5 settling rounds, 7 measuring rounds. -/
theorem test_abort_ambient :
    let t := after (.abortAmbient 0) (posted 0 [1, 10] measuring)
    (t.acc.ambient.phase, t.ram.readLe 0x1C20 1, t.ram.readLe 0x1D40 1, t.ram.readLe 0x1D60 4) = (.none, 5, 3, 0x00070502) := by
  decide

theorem test_set_ambient :
    let t := after (.setAmbient 0) (posted 0 [1, 11, 0, 0, 3, 0, 0, 0, 31] idle)
    (t.book.ambA[3], t.ram.readLe 0x1C24 4) = (31, 0) := by decide

theorem test_loop_test :
    let t := after (.loopTest 0) (posted 0 [1, 12, 0, 0, 1] running)
    ((t.loopLine .b).state, t.ram.readLe 0x1C00 1) = (.testing, 2) := by decide

/-- R61: an address in use is refused with CONFLICT. -/
theorem test_set_station_conflict :
    (after (.setStation 0) (posted 0 [1, 13, 0, 0, 1, 2, 0, 10] running)).ram.readLe 0x1C00 4 = 0x05000D04 := by decide

theorem test_set_station_disable :
    let t := after (.setStation 0) (posted 0 [1, 13, 0, 0, 1, 1, 0] running)
    (t.poller.states[1], t.ram.readLe 0x0110 3) = (.disabled, 0x010B00) := by decide

theorem test_read_window :
    let t := after (.readWindow 0) (posted 0 [1, 14, 0, 0, 1] running)
    (t.ram.readLe 0x1C06 2, t.ram.readLe 0x1C3E 2, t.ram.readLe 0x1C04 1) = (4096, 4096, 1) := by decide

theorem test_bad_kind : (after (.requestBadKind 0) (posted 0 [1, 15] idle)).ram.readLe 0x1C00 4 = 0x01000F04 := by
  decide

theorem test_poll_sent :
    let s := polling .sending 1
    let t := after (.pollSent .a) (s.setLoop .a { LoopLine.reset with tx := some [0] })
    (t.poller.exch.map Exchange.phase, (t.loopLine .a).tx) = (some .waiting, none) := by decide

/-- R64: an attempt that was queued on loop A chooses again at its sending, and does not go out on a loop that is TESTING. -/
theorem test_poll_sent_chooses :
    let s := (polling .queued 1).setLoop .a { LoopLine.reset with state := .testing, tx := some [0] }
    let t := after (.pollSent .a) s
    (t.poller.exch.map (fun e => (e.loop, e.phase)), (t.loopLine .a).tx, (t.loopLine .b).tx) =
      (some (.b, .sending), none, some (pollFrame 10 1000)) := by decide

/-- R64, R66: the retry goes to the other loop when alternate-on-retry is set. -/
theorem test_reply_timeout :
    let t := after (.replyTimeout .a false) (polling .waiting 1)
    (t.poller.exch.map (fun e => (e.made, e.loop)), (t.loopLine .a).fails) = (some (2, .b), 1) := by decide

theorem test_loop_frame :
    let t := after (.loopFrameReceived .a (sealFrame [0xA53C, 10 + 256 * 232, 0, 400, 0, 1200, 0])) (polling .waiting 1)
    (t.poller.states[0], t.acc.accts[0].ring, t.poller.exch.map Exchange.station) =
      (.live, [{ mark := .present, eA := 400, eC := 1200 }], some 1) := by decide

theorem test_loop_silence : (after (.loopFrameSilence .a) (polling .waiting 2)).acc.accts[0].missing = 1 := by decide

/-- R72: the fourth missing second makes a LIVE station STALE. -/
theorem test_station_stale :
    let s := polling .waiting 2
    let s := s.setAccount 0 { s.acc.accts[0] with missing := 3 }
    (after (.replyTimeout .a false) { s with poller := { s.poller with states := upd s.poller.states 0 .live } }).poller.states[0] =
      .stale := by decide

/-- R78: a failed probe leaves the loop DOWN with probe count 10. -/
theorem test_probe_fails :
    let t := after (.replyTimeout .a false) (probing .waiting)
    ((t.loopLine .a).state, (t.loopLine .a).fails, (t.loopLine .a).probe, t.poller.probe) = (.down, 9, 10, none) := by decide

theorem test_round_deadline :
    let t := after .roundDeadline (polling .waiting 1)
    (t.poller.roundOpen, t.acc.accts[0].missing, t.acc.accts[1].missing, t.acc.accts[2].missing) = (false, 1, 1, 0) := by
  decide +kernel

theorem test_ceiling_sent :
    let s := carrying 1 none
    let l := s.links.lines[2]
    (after (.ceilingSent 2) (s.setLink 2 { l with tx := some [0], out := l.out.map fun c => { c with phase := .sending } })).links.lines[2].out.map
      Command.phase = some .waiting := by decide

/-- Table 4-3, at 20.16 ms. -/
theorem test_ack_timeout :
    (after (.ackTimeout 2 false) (carrying 1 none)).links.lines[2].out.map (fun c => (c.seq, c.ceiling, c.attempt)) =
      some (40, 3072, 2) := by decide

/-- Table 4-4, at 2.40 ms: the pending value is sent when the command ends. -/
theorem test_link_frame :
    let l := (after (.linkFrameReceived 2 (sealFrame [0xC35A, 2 + 256 * 40, 0])) (carrying 2 (some 1269))).links.lines[2]
    (l.state, l.out.map (fun c => (c.seq, c.ceiling)), l.seq, l.pend) = (.up, some (41, 1269), 42, none) := by decide +kernel

/-- R95: the third failed attempt. -/
theorem test_link_silence :
    let l := (after (.linkFrameSilence 2) (carrying 3 none)).links.lines[2]
    (l.state, l.failed, l.charged, l.out) = (.retrying, 1, true, none) := by decide

/-- R82: 15 of 16 frames intact is FAIL. -/
theorem test_test_frame_timeout :
    let t := after .testFrameTimeout (testing 16)
    ((t.loopLine .b).state, (t.loopLine .b).fails, t.ram.readLe 0x1E60 3) = (.down, 8, 0x0F0201) := by decide

theorem test_test_frame_intact :
    let t := after (.loopFrameReceived .b (testFrame 16)) (testing 16)
    ((t.loopLine .b).state, t.ram.readLe 0x1E60 3) = (.good, 0x100101) := by decide

/-! ### Notices and the log -/

/-- R178: with 255 unread notices the next is lost. -/
theorem test_notice_lost :
    let t := State.post 23 0 0 { idle with notices := { idle.notices with head := 255 } }
    (t.notices.head, t.notices.overrun) = (255, true) := by decide

/-- R187: KEEP_OLDEST drops the record of a full log. -/
theorem test_record_dropped :
    let t := (State.writeRecord (List.replicate 32 7) 0 { running with log := { running.log with writeIdx := 1023 } }).1
    (t.log.writeIdx, t.log.full) = (1023, true) := by decide

/-- The core that the host reads answers on an empty queue. -/
theorem test_empty_queue_idles : step idle = .next idle := rfl

/-! ### Witnesses: states and operands that meet the hypotheses of each statement -/

theorem witness_StepTakesTheFront :
    ({ running with pending := [.attention 0, .roundDeadline] } : State).pending = .attention 0 :: [.roundDeadline] := rfl

theorem witness_PartWritesOnlyItsRegions :
    running.ram.wf = true ∧ ∃ t, exec (.stop 0) running = .next t ∧ t.ram.readLe 0x2400 4 = 0x00170000 :=
  ⟨by decide, after (.stop 0) running, rfl, by decide +kernel⟩

/-- A state with a second event waiting. -/
def ticking : State := { running with pending := [.secondEvent []] }

theorem ticking_steps : ∃ t, step ticking = .next t := ⟨_, rfl⟩

theorem witness_StepKeepsRamAndLine : ticking.Quiet ∧ ∃ t, step ticking = .next t := ⟨⟨by decide, rfl⟩, ticking_steps⟩

theorem witness_StepKeepsCeilingsBounded : ceilingsBounded ticking.gain.stages ∧ ∃ t, step ticking = .next t :=
  ⟨by unfold ceilingsBounded; decide, ticking_steps⟩

/-- The accounts after a hardware reset, a second event waiting. -/
def counting : State := { idle with acc := .reset, pending := [.secondEvent []] }

theorem witness_StepKeepsWindowSums : counting.acc.exact ∧ ∃ t, step counting = .next t := by
  refine ⟨⟨by decide, fun st => ?_⟩, _, rfl⟩
  have h : counting.acc.accts[st] = Account.reset := Vector.getElem_replicate ..
  rw [h]
  refine ⟨by decide +kernel, fun x hx => ?_, by decide +kernel, by decide +kernel, by decide +kernel⟩
  rw [List.eq_of_mem_replicate hx]
  exact ⟨Nat.zero_le _, Nat.zero_le _⟩

theorem ticking_book : ticking.book.Valid := by
  intro w h
  cases h
  refine ⟨by decide +kernel, fun r hr => ?_⟩
  rw [List.eq_of_mem_replicate hr]
  decide

theorem witness_StepKeepsBookValid : ticking.book.Valid ∧ ∃ t, step ticking = .next t := ⟨ticking_book, ticking_steps⟩

theorem ticking_loaded : ticking.Loaded := fun _ => ⟨rfl, rfl, rfl, rfl, rfl⟩

theorem ticking_show : ticking.ShowOver := fun h => absurd rfl h

theorem witness_StepKeepsRunningLoaded :
    (ticking.run.state = .running ∧ ticking.Loaded ∧ ticking.ShowOver ∧ ∃ t, step ticking = .next t) ∧
      counting.run.state ≠ .running ∧ counting.Loaded ∧ counting.ShowOver ∧ ∃ t, step counting = .next t :=
  ⟨⟨rfl, ticking_loaded, ticking_show, ticking_steps⟩, by decide, fun h => absurd h (by decide),
    fun _ => ⟨rfl, rfl, by decide⟩, _, rfl⟩

theorem ticking_walker : ticking.WalkerSound := ⟨by decide, by decide, by decide⟩

theorem witness_StepKeepsOneActiveEntry : ticking.WalkerSound ∧ ∃ t, step ticking = .next t := ⟨ticking_walker, ticking_steps⟩

/-- Station 0 LOST: its shares of stages 0 and 1 reach c_min, those of stages 2 and 3 do not. -/
def losing : State :=
  { ticking with
    poller := { ticking.poller with states := upd ticking.poller.states 0 .lost }
    gain := { ticking.gain with
      stages := Vector.ofFn fun k : Fin 4 =>
        { GainStage.reset with sched := some 4096, lost := if k.val < 2 then some 2800 else none, applied := 2800 } } }

theorem witness_StepKeepsHardBoundTerms :
    (ticking.WalkerSound ∧ ticking.Loaded ∧ ticking.ShowOver ∧ ticking.TermsSound ∧ ∃ t, step ticking = .next t) ∧
      losing.WalkerSound ∧ losing.Loaded ∧ losing.ShowOver ∧ losing.TermsSound ∧ losing.lostHeard 1 = true ∧
        ∃ t, step losing = .next t :=
  ⟨⟨ticking_walker, ticking_loaded, ticking_show, by unfold State.TermsSound; decide +kernel, ticking_steps⟩,
    ⟨by decide, by decide, by decide⟩, fun _ => ⟨rfl, rfl, rfl, rfl, rfl⟩, fun h => absurd rfl h,
    by unfold State.TermsSound; decide +kernel, by decide +kernel, _, rfl⟩

theorem witness_StepKeepsCommandCeilings :
    let s := { carrying 1 (some 4096) with pending := [.ackTimeout 2 false] }
    ceilingsBounded s.gain.stages ∧ s.links.ceilingsInRange ∧ ∃ t, step s = .next t := by
  refine ⟨by unfold ceilingsBounded; decide, ⟨fun k => ?_, fun g h => ?_⟩, _, rfl⟩
  · unfold Link.ceilingsInRange
    fin_cases k <;> exact ⟨fun c h => by cases h <;> decide, fun v h => by cases h <;> decide⟩
  · cases h; decide

theorem witness_StepKeepsNumbersInRange : ticking.NumbersInRange ∧ ∃ t, step ticking = .next t := by
  refine ⟨⟨⟨?_, ?_, ?_, ?_, ?_⟩, ?_, ?_⟩, ticking_steps⟩ <;> try decide
  unfold Account.demandsInRange
  decide

theorem witness_ResetReleaseEndsInIdle :
    State.reset.run.state = .resetBusy ∧ State.reset.run.resetAsserted = true ∧
      (let s := after .resetRelease State.reset
      s.run.state = .resetBusy ∧ s.run.resetAsserted = false ∧ s.run.intBit = false ∧ s.run.error = .none ∧
        s.walker.state = .unstarted ∧ s.notices.head = 0 ∧ s.notices.tail = 0 ∧ s.notices.seq = 0 ∧ s.ram.wf = true) := by
  decide

theorem witness_SecondEventInIdle :
    State.reset.run.state = .resetBusy ∧ idle.run.state = .idle ∧ idle.walker.state = .unstarted ∧
      starting.run.state = .starting ∧ starting.walker.state = .unstarted := by decide

/-- A round to open with station 0 first; no station enabled, the walker FINAL; a round still open; the seconds 1001 and 1020. -/
theorem witness_SecondEventOpensRound :
    (running.run.state = .running ∧ running.poller.roundOpen = false ∧ running.poller.copy = some table ∧
      (allStations.filter fun st => table[st].enabled) = 0 :: [1]) ∧
      (let s := { running with
          poller := { running.poller with copy := some (Vector.replicate 16 { enabled := false, addr := 1, loop := .a }) }
          walker := { running.walker with state := .final } }
      s.run.state = .running ∧ s.poller.roundOpen = false ∧ (∀ st : Station, s.enabledStation st = false) ∧
        s.gain.cfg.isSome = true ∧ s.walker.state ≠ .waiting ∧ s.clock < 2147483647) ∧
      ((polling .waiting 1).poller.roundOpen = true ∧ ∃ u, exec .roundDeadline (polling .waiting 1) = .next u) ∧
      running.ram.wf = true ∧ (1000 + 1) % 60 ≠ 0 ∧ (1019 + 1) % 60 = 0 :=
  ⟨by decide, by decide, ⟨rfl, _, rfl⟩, by decide, by decide, by decide⟩

theorem witness_StartBegins :
    let s := latched 1 idle
    s.ram.wf = true ∧ s.run.state = .idle ∧ s.run.runBit = false ∧ s.WritesControl 0 true s.run.muteBit s.run.intBit := by
  unfold State.WritesControl; decide

/-- Each check of Table 7-3 fails on some RAM: at the ends of the configuration block's fields, in the last byte of a station
entry that is read, at one address held twice, at a ceiling of 4097, at area 2, at the first and the last record of an area, at an
entry count of 0 and of 256, at a head that is a TEST and at one with W 901; and all pass on a schedule of one entry. -/
theorem witness_StartChecksInOrder :
    startCheck (Memory.cleared.disturb 0x1A 0) = .error .parity ∧ startCheck (Memory.cleared.disturb 0x24 0) = .error .parity ∧
      startCheck (Memory.cleared.disturb 0x01F2 0) = .error .parity ∧
      startCheck ((Memory.cleared.writeBytes 0x0100 [1, 62]).writeBytes 0x01F0 [1, 62]) = .error .duplicateAddress ∧
      startCheck (Memory.cleared.writeLe 0x0C 2 4097) = .error .ceiling ∧
      startCheck (Memory.cleared.write 0x0F 2) = .error .bookArea ∧
      startCheck (Memory.cleared.disturb 0x0400 0) = .error .parity ∧
      startCheck ((Memory.cleared.write 0x0F 1).writeLe 0x1BF6 2 257) = .error .book ∧
      startCheck Memory.cleared = .error .schedule ∧ startCheck (scheduled.writeLe 0x3404 2 256) = .error .schedule ∧
      startCheck (scheduled.write 0x3420 2) = .error .schedule ∧ startCheck (scheduled.writeLe 0x3428 2 901) = .error .schedule ∧
      (match startCheck scheduled with | .ok d => decide (d.head = limit) | .error _ => false) = true := by decide +kernel

theorem witness_StartErrorReturnsToIdle :
    starting.ram.wf = true ∧ starting.run.state = .starting ∧ startCheck starting.ram = .error .schedule ∧
      starting.run.runBit = true ∧ starting.WritesControl 0 false starting.run.muteBit starting.run.intBit := by
  refine ⟨by decide, by decide, by decide +kernel, by decide, ?_⟩
  unfold State.WritesControl; decide

theorem witness_StartSucceeds :
    let s := { starting with ram := scheduled }
    s.run.state = .starting ∧ ∃ d, startCheck s.ram = .ok d := by
  refine ⟨rfl, ?_⟩
  have h : (match startCheck scheduled with | .ok _ => true | .error _ => false) = true := by decide +kernel
  show ∃ d, startCheck scheduled = .ok d
  revert h
  cases startCheck scheduled with
  | ok d => exact fun _ => ⟨d, rfl⟩
  | error e => exact fun h => by cases h

theorem witness_StopReturnsToIdle :
    running.run.state = .running ∧ running.run.runBit = true ∧
      running.WritesControl 0 false running.run.muteBit running.run.intBit ∧ ceilingsBounded running.gain.stages ∧
      running.links.cfg = some { enabled := Vector.replicate 4 true, stopCeiling := 0 } := by
  refine ⟨rfl, rfl, ?_, ?_, rfl⟩
  · unfold State.WritesControl; decide
  · unfold ceilingsBounded; decide

theorem witness_SoftResetForgetsAndKeeps :
    (let s := latched 2 measuring
    s.run.state ≠ .resetBusy ∧ bit (s.written 0) 1 = true ∧ s.poller.roundOpen = false ∧ s.ram.wf = true ∧
      (∃ f ∈ s.scanner.inFlight, f.slot = 5) ∧ s.ram.badAt (slotAddr 5) = false ∧ s.ram.readLe (slotAddr 5) 1 = 2) ∧
      (let s := latched 2 (polling .waiting 1)
      s.run.state ≠ .resetBusy ∧ bit (s.written 0) 1 = true ∧ s.poller.roundOpen = true ∧ s.acc.advanced[0] = false) := by
  decide

theorem witness_ImmediateMuteClips :
    (let s := latched 5 running
    s.run.state ≠ .resetBusy ∧ s.run.muteBit = false ∧ s.WritesControl 0 s.run.runBit true s.run.intBit) ∧
      (let s := latched 1 { running with run := { running.run with muteBit := true } }
      s.run.muteBit = true ∧ ceilingsBounded s.gain.stages ∧ s.WritesControl 0 s.run.runBit false s.run.intBit) := by
  unfold State.WritesControl ceilingsBounded; decide

theorem witness_IntEnableDrivesTheLine :
    let s := latched 9 running
    s.run.state ≠ .resetBusy ∧ true ≠ s.run.intBit ∧ s.WritesControl 0 s.run.runBit s.run.muteBit true := by
  unfold State.WritesControl; decide

theorem witness_LowHalvesUseTheLatches :
    State.reset.run.state = .resetBusy ∧ idle.run.state ≠ .resetBusy ∧ Reg.status ≠ .reserved ∧ measuring.run.state ≠ .resetBusy ∧
      ∃ k : Stage, measuring.gain.stages[k].ambient.isSome = true := by decide

theorem witness_WritesThatAreIgnored : State.reset.run.state = .resetBusy := rfl

theorem witness_OverrunClearedByOne : idle.run.state ≠ .resetBusy := by decide

theorem witness_AttentionAsksForAScan : idle.run.state ≠ .resetBusy ∧ starting.run.state = .starting := by decide

theorem witness_TailWriteReplacesTheTail :
    idle.run.state ≠ .resetBusy ∧ (latched 255 idle).written 0 ≤ 255 ∧ 255 < (latched 256 idle).written 0 ∧
      255 < idle.written 1 := by decide

theorem witness_HostAccessToRam :
    idle.ram.wf = true ∧ idle.run.state ≠ .resetBusy ∧ State.reset.ram.wf = true ∧ State.reset.run.state = .resetBusy := by
  decide

theorem witness_DisturbedByteHasBadParity : idle.ram.wf = true := by decide

/-- Slot 0 disturbed in its last byte; kinds 0 and 15; and a kind that needs RUNNING found in IDLE. -/
theorem witness_RequestsRefusedBeforeTheirWork :
    (let s := posted 0 [1, 6] idle
    let d := { s with ram := s.ram.disturb 0x1C3F 0 }
    d.ram.wf = true ∧ d.nextTaken = some (0, taken 0) ∧ d.ram.badAt 0x1C3F = true) ∧
      (posted 0 [1, 0] idle).nextTaken = some (0, taken 0) ∧ (posted 0 [1, 0] idle).param 0 0x01 1 = 0 ∧
      (posted 31 [1, 15] idle).nextTaken = some (31, taken 31) ∧ 14 < (posted 31 [1, 15] idle).param 31 0x01 1 ∧
      (posted 0 [1, 2] idle).run.state = .idle ∧ (posted 0 [1, 2] idle).ram.slotKind 0 = .kind .restartSchedule ∧
      (posted 0 [1, 3] idle).ram.slotKind 0 = .kind .resumeSchedule ∧ (posted 0 [1, 5] idle).ram.slotKind 0 = .kind .swapBook ∧
      (posted 0 [1, 9] idle).ram.slotKind 0 = .kind .measureAmbient ∧
      (posted 0 [1, 12] idle).ram.slotKind 0 = .kind .loopTest := by decide +kernel

theorem witness_RequestScanRunsToItsEnd :
    idle.run.state = .idle ∧ (posted 31 [1, 6] idle).scanner.scan = some { next := 31, left := 1, last := none } ∧
      (posted 31 [1, 6] idle).nextTaken = some (31, taken 31) ∧ (posted 31 [0, 6] idle).nextTaken = none := by decide +kernel

theorem witness_SetClockMovesTheClock :
    (let s := posted 0 [1, 1, 0, 0, 0xFF, 0xFF, 0xFF, 0x7F] running
    s.ram.wf = true ∧ s.TakesNext 0 (taken 0) .setClock ∧ s.param 0 0x04 4 = 2147483647 ∧ s.walker.state = .waiting) ∧
      (let s := posted 0 [1, 1, 0, 0, 0, 0, 0, 0x80] idle
      s.ram.wf = true ∧ s.TakesNext 0 (taken 0) .setClock ∧ s.param 0 0x04 4 = 2147483648) := by
  unfold State.TakesNext; decide +kernel

theorem witness_RestartAndResumeTakeAPass :
    (let s := posted 0 [1, 2] running
    s.ram.wf = true ∧ s.run.state = .running ∧ ceilingsBounded s.gain.stages ∧ s.TakesNext 0 (taken 0) .restartSchedule) ∧
      (let s := posted 0 [1, 3] running
      s.TakesNext 0 (taken 0) .resumeSchedule ∧ s.walker.state ≠ .paused) ∧
      (let s := posted 0 [1, 3]
        { running with walker := { running.walker with state := .paused, pause := some { index := 1, linkerStart := 0 } } }
      s.ram.wf = true ∧ s.run.state = .running ∧ ceilingsBounded s.gain.stages ∧ s.TakesNext 0 (taken 0) .resumeSchedule ∧
        s.walker.state = .paused ∧ s.walker.pause = some { index := 1, linkerStart := 0 }) := by
  unfold State.TakesNext ceilingsBounded; decide +kernel

theorem witness_SetWatchReplacesTheWatch :
    (let s := posted 0 [1, 4, 0, 0, 255, 0] running
    s.ram.wf = true ∧ s.TakesNext 0 (taken 0) .setWatch ∧ s.run.state = .running ∧ s.param 0 0x04 2 = 255) ∧
      (let s := posted 0 [1, 4, 0, 0, 0, 1] running
      s.TakesNext 0 (taken 0) .setWatch ∧ s.param 0 0x04 2 = 256) ∧
      (posted 0 [1, 4] idle).TakesNext 0 (taken 0) .setWatch ∧ idle.run.state ≠ .running := by
  unfold State.TakesNext; decide +kernel

theorem validates {m : Memory} {area : Fin 2} (h : (match validateArea m area with | .ok _ => true | .error _ => false) = true) :
    ∃ b, validateArea m area = .ok b := by
  revert h
  cases validateArea m area with
  | ok b => exact fun _ => ⟨b, rfl⟩
  | error f => exact fun h => by cases h

theorem witness_SwapBookExchangesTheBook :
    (let s := posted 0 [1, 5] running
    s.ram.wf = true ∧ s.run.state = .running ∧ s.TakesNext 0 (taken 0) .swapBook ∧ ∃ b, validateArea s.ram 1 = .ok b) ∧
      (let s := posted 0 [1, 5] { running with ram := Memory.cleared.writeLe 0x1008 2 257 }
      s.ram.wf = true ∧ s.run.state = .running ∧ s.TakesNext 0 (taken 0) .swapBook ∧
        validateArea s.ram 1 = .error { set := 0, station := 0, cause := .shareRange }) := by
  unfold State.TakesNext
  exact ⟨⟨by decide +kernel, by decide +kernel, by decide +kernel, validates (by decide +kernel)⟩, by decide +kernel⟩

theorem witness_SetFlagsFollowsTheMask :
    (let s := posted 0 [1, 6, 0, 0, 255, 0, 255, 0] idle
    s.ram.wf = true ∧ s.TakesNext 0 (taken 0) .setFlags ∧ s.param 0 0x04 2 = 255 ∧ s.param 0 0x06 2 = 255) ∧
      (let s := posted 0 [1, 6, 0, 0, 0, 1, 0, 0] idle
      s.TakesNext 0 (taken 0) .setFlags ∧ s.param 0 0x04 2 = 256) := by
  unfold State.TakesNext; decide +kernel

theorem witness_HoldAndReleaseBoundTheStage :
    (let s := posted 0 [1, 7, 0, 0, 3, 0, 0, 4] running
    s.ram.wf = true ∧ ceilingsBounded s.gain.stages ∧ s.TakesNext 0 (taken 0) .holdStage ∧ s.param 0 0x04 1 = (3 : Stage).val) ∧
      (let s := posted 0 [1, 7, 0, 0, 4] running
      s.TakesNext 0 (taken 0) .holdStage ∧ 3 < s.param 0 0x04 1) ∧
      (let s := posted 0 [1, 8, 0, 0, 0] running
      s.ram.wf = true ∧ ceilingsBounded s.gain.stages ∧ s.TakesNext 0 (taken 0) .releaseStage ∧
        s.param 0 0x04 1 = (0 : Stage).val) ∧
      (let s := posted 0 [1, 8, 0, 0, 4] running
      s.TakesNext 0 (taken 0) .releaseStage ∧ 3 < s.param 0 0x04 1) := by
  unfold State.TakesNext ceilingsBounded; decide +kernel

theorem witness_MeasureAmbientMutesTheStages :
    (let s := posted 0 [1, 9, 0, 0, 10, 0, 0, 0, 0xFF, 0xFF] running
    s.ram.wf = true ∧ s.run.state = .running ∧ s.TakesNext 0 (taken 0) .measureAmbient ∧ s.param 0 0x04 2 = 10 ∧
      s.param 0 0x08 4 = 65535 ∧ s.acc.ambient.phase = .none) ∧
      (let s := posted 0 [1, 9, 0, 0, 45, 1, 0, 0, 1] running
      s.TakesNext 0 (taken 0) .measureAmbient ∧ s.param 0 0x04 2 = 301) ∧
      (let s := posted 0 [1, 9, 0, 0, 44, 1, 0, 0, 1] measuring
      s.TakesNext 0 (taken 0) .measureAmbient ∧ s.param 0 0x04 2 = 300 ∧ s.acc.ambient.phase ≠ .none) := by
  unfold State.TakesNext; decide +kernel

/-- The measurement with `settle` settling rounds to go, or at its last measuring round. -/
def measuringAt (phase : AmbientPhase) (settle measure : Nat) : State :=
  { measuring with
    acc := { measuring.acc with
      ambient := { measuring.acc.ambient with
        phase := phase, settle := settle, measure := measure
        got := upd measuring.acc.ambient.got 0 { count := 5, sumA := 155, sumC := 10 } } } }

/-- R152: a station with 5 samples of 10 rounds qualifies, and takes 155 / 5. -/
theorem test_measurement_completes :
    let t := (measuringAt .measuring 0 1).closeByLastOutcome
    (t.book.ambA[0], t.book.ambC[0], t.acc.ambient.phase, t.ram.readLe 0x1D40 1, t.ram.readLe 0x1D60 6) =
      (31, 2, .none, 3, 0x0001000A0501) := by decide +kernel

theorem witness_AbortAmbientEndsTheMeasurement :
    (let s := posted 0 [1, 10] measuring
    s.ram.wf = true ∧ ceilingsBounded s.gain.stages ∧ s.TakesNext 0 (taken 0) .abortAmbient ∧ s.acc.ambient.phase ≠ .none ∧
      s.scanner.hasInFlight s.acc.ambient.slot = true ∧ s.ram.readLe (slotAddr s.acc.ambient.slot) 1 = 2) ∧
      (let s := posted 0 [1, 10] idle
      s.ram.wf = true ∧ ceilingsBounded s.gain.stages ∧ s.TakesNext 0 (taken 0) .abortAmbient ∧ s.acc.ambient.phase = .none) := by
  unfold State.TakesNext ceilingsBounded; decide +kernel

/-- A closure in each phase of a measurement, at the last settling round and at the last measuring round among them. -/
theorem witness_closures_count_the_measurement :
    (∀ s : State, s.Closes s.closeByLastOutcome) ∧
      (let s := measuringAt .measuring 0 1
      s.ram.wf = true ∧ ceilingsBounded s.gain.stages ∧ s.acc.ambient.phase = .measuring ∧ s.acc.ambient.measure = 1 ∧
        s.scanner.hasInFlight s.acc.ambient.slot = true ∧ s.ram.badAt (slotAddr 5) = false ∧
        s.ram.readLe (slotAddr s.acc.ambient.slot) 1 = 2 ∧ s.acc.ambient.dur ≤ 2 * s.acc.ambient.got[0].count) ∧
      1 < (measuringAt .measuring 0 2).acc.ambient.measure ∧ (measuringAt .settling 1 0).acc.ambient.settle = 1 ∧
      1 < (measuringAt .settling 2 0).acc.ambient.settle ∧ running.acc.ambient.phase = .none := by
  refine ⟨fun s => .inl rfl, ?_⟩
  unfold ceilingsBounded; decide +kernel

theorem witness_SetAmbientReplacesTheEntries :
    (let s := posted 0 [1, 11, 0, 0, 15] idle
    s.ram.wf = true ∧ s.TakesNext 0 (taken 0) .setAmbient ∧ s.param 0 0x04 1 = (15 : Station).val) ∧
      (let s := posted 0 [1, 11, 0, 0, 16] idle
      s.TakesNext 0 (taken 0) .setAmbient ∧ 15 < s.param 0 0x04 1) ∧
      (let s := posted 0 [1, 11, 0, 0, 0] measuring
      s.TakesNext 0 (taken 0) .setAmbient ∧ s.acc.ambient.phase ≠ .none ∧ s.acc.ambient.mask.getLsbD 0 = true) := by
  unfold State.TakesNext; decide +kernel

theorem witness_LoopTestTakesTheLoop :
    (let s := posted 0 [1, 12, 0, 0, 1] running
    s.ram.wf = true ∧ s.run.state = .running ∧ s.TakesNext 0 (taken 0) .loopTest ∧ s.param 0 0x04 1 = 1 ∧
      s.poller.test.isSome = false ∧ (s.loopLine .a).state = .good) ∧
      (let s := posted 0 [1, 12, 0, 0, 2] running
      s.TakesNext 0 (taken 0) .loopTest ∧ 1 < s.param 0 0x04 1) ∧
      (let s := posted 0 [1, 12, 0, 0, 0] (testing 3)
      s.TakesNext 0 (taken 0) .loopTest ∧ s.poller.test.isSome = true) ∧
      (let s := posted 0 [1, 12, 0, 0, 0] (running.setLoop .b { LoopLine.reset with state := .suspect })
      s.TakesNext 0 (taken 0) .loopTest ∧ s.poller.test.isSome = false ∧ (s.loopLine .b).state ≠ .good) := by
  unfold State.TakesNext; decide +kernel

/-- Each outcome of a SET_STATION: a bad field at each end, a mask of 0, a disable of station 1, an enable of station 15 at
address 62, a conflict with address 10, and a parity error where no copy is held. -/
theorem witness_SetStationChangesTheEntry :
    (let s := posted 0 [1, 13, 0, 0, 16] running
    s.ram.wf = true ∧ s.TakesNext 0 (taken 0) .setStation ∧ 15 < s.param 0 0x04 1) ∧
      (let s := posted 0 [1, 13, 0, 0, 15, 2, 0, 63] running
      s.TakesNext 0 (taken 0) .setStation ∧ bit (s.param 0 0x05 1) 1 = true ∧ 62 < s.param 0 0x07 1) ∧
      (let s := posted 0 [1, 13, 0, 0, 1, 0] running
      s.TakesNext 0 (taken 0) .setStation ∧ s.param 0 0x05 1 = 0) ∧
      (let s := posted 0 [1, 13, 0, 0, 1, 1, 0] running
      s.TakesNext 0 (taken 0) .setStation ∧ s.entries[1].enabled = true ∧ s.poller.exch = none) ∧
      (let s := posted 0 [1, 13, 0, 0, 15, 3, 1, 62] running
      s.TakesNext 0 (taken 0) .setStation ∧ s.entries[15].enabled = false ∧ s.acc.accts[15].n = 0 ∧
        s.book.working.isSome = true) ∧
      (let s := posted 0 [1, 13, 0, 0, 1, 2, 0, 10] running
      s.TakesNext 0 (taken 0) .setStation ∧ s.entries[0].enabled = true ∧ s.entries[0].addr = 10) ∧
      (let s := posted 0 [1, 13, 0, 0, 1, 4, 0, 0, 1] { idle with ram := Memory.cleared.disturb 0x01F2 0 }
      s.ram.wf = true ∧ s.TakesNext 0 (taken 0) .setStation ∧ s.poller.copy = none ∧ s.ram.badAt 0x01F2 = true) ∧
      (let s := posted 0 [1, 13, 0, 0, 0, 1, 0] (polling .waiting 1)
      s.TakesNext 0 (taken 0) .setStation ∧ s.poller.roundOpen = true ∧ s.poller.exch.map Exchange.station = some 0 ∧
        s.poller.todo = 1 :: []) ∧
      (let s := posted 0 [1, 13, 0, 0, 0, 1, 0] (last (polling .waiting 1))
      s.TakesNext 0 (taken 0) .setStation ∧ s.poller.roundOpen = true ∧ s.poller.exch.map Exchange.station = some 0 ∧
        s.poller.todo = []) := by
  unfold State.TakesNext; decide +kernel

theorem witness_ReadWindowReportsTheAccount :
    (let s := posted 0 [1, 14, 0, 0, 15] idle
    s.ram.wf = true ∧ s.TakesNext 0 (taken 0) .readWindow ∧ s.param 0 0x04 1 = (15 : Station).val) ∧
      (let s := posted 0 [1, 14, 0, 0, 16] idle
      s.TakesNext 0 (taken 0) .readWindow ∧ 15 < s.param 0 0x04 1) := by
  unfold State.TakesNext; decide +kernel

/-- An attempt queued on loop A, which chooses A, or B with its line free, or B with a frame on its line; a probe queued on a loop
that is DOWN or is DOWN no more; and frames of links. -/
theorem witness_SentFrameStartsTheTimer :
    (idle.loopLine .a).tx = none ∧ idle.links.lines[2].tx = none ∧
      (let s := (polling .queued 1).setLoop .a { LoopLine.reset with tx := some [0] }
      (s.loopLine .a).tx.isSome = true ∧ s.poller.exch.map (fun e => (e.loop, e.phase, e.earlier)) = some (.a, .queued, []) ∧
        s.firstLoop .a = .a) ∧
      (let s := (polling .queued 1).setLoop .a { LoopLine.reset with state := .testing, tx := some [0] }
      s.firstLoop .a = .b ∧ (s.loopLine .b).tx = none ∧
        ((s.setLoop .b { LoopLine.reset with tx := some [0] }).loopLine .b).tx.isSome = true) ∧
      (let s := (probing .queued).setLoop .a { LoopLine.reset with state := .down, tx := some [0] }
      s.poller.exch = none ∧ s.poller.probe.map (fun b => (b.loop, b.phase)) = some (.a, .queued) ∧
        (s.loopLine .a).state = .down ∧ s.poller.probeDue = [] ∧
        ((s.setLoop .a { LoopLine.reset with tx := some [0] }).loopLine .a).state ≠ .down) ∧
      (let s := carrying 1 none
      s.links.lines[2].out.map Command.phase = some .waiting) := by decide

/-- A timeout with a retry left; an incomplete frame at the last attempt, the timer expired, with a station listed and with none; and
a probe. -/
theorem witness_FailedAttemptIsRetried :
    (let s := polling .waiting 1
    let e : Exchange := { station := 0, addr := 10, pref := .a, made := 1, loop := .a, phase := .waiting, earlier := [] }
    s.poller.loopedBack .a = none ∧ (s.loopLine .a).tx = none ∧ s.poller.exch = some e ∧
      s.poller.failsWait .a e.addr e.phase (.replyTimeout .a false) ∧ e.made < s.timing.retries + 1) ∧
      (let s := polling .expired 2
      let e : Exchange := { station := 0, addr := 10, pref := .a, made := 2, loop := .a, phase := .expired, earlier := [] }
      s.poller.loopedBack .a = none ∧ (s.loopLine .a).tx = none ∧ s.poller.exch = some e ∧
        s.poller.failsWait .a e.addr e.phase (.loopFrameSilence .a) ∧ ¬ e.made < s.timing.retries + 1 ∧
        s.run.state = .running ∧ s.acc.advanced[e.station] = false ∧ s.poller.todo = 1 :: [] ∧
        s.poller.copy = some table ∧ (last s).poller.exch = some e ∧ (last s).poller.todo = []) ∧
      (let s := probing .waiting
      s.poller.loopedBack .a = none ∧ (s.loopLine .a).tx = none ∧ s.poller.exch = none ∧
        s.poller.probe = some { station := 0, addr := 10, loop := .a, phase := .waiting } ∧
        s.poller.failsWait .a 10 .waiting (.replyTimeout .a false) ∧ (s.loopLine .a).state = .down) := by
  refine ⟨⟨by decide, by decide, by decide, .inl ⟨rfl, rfl⟩, by decide⟩,
    ⟨by decide, by decide, by decide, .inr (.inl rfl), by decide, by decide, by decide, by decide, by decide, by decide,
      by decide⟩, by decide, by decide, by decide, by decide, .inl ⟨rfl, rfl⟩, by decide⟩

/-- A stray reply, from the station at address 11, which has its outcome in round 1,000. -/
theorem witness_stray_reply :
    let s := polling .waiting 1
    ({ s.poller with settled := [(1, 11)] } : Poller).strayFor 10 (secondFrame 11 1000 0 400 1200) :=
  ⟨{ addr := 11, echo := 232, outcome := .valid 400 1200 false false false false }, by decide, by decide, by decide, (1, 11),
    by decide, rfl⟩

theorem witness_ValidReplyEndsTheExchange :
    (let s := polling .waiting 1
    let e : Exchange := { station := 0, addr := 10, pref := .a, made := 1, loop := .a, phase := .waiting, earlier := [] }
    s.poller.loopedBack .a = none ∧ (s.loopLine .a).tx = none ∧ s.poller.exch = some e ∧
      (e.loop = .a ∧ (e.phase = .waiting ∨ e.phase = .expired) ∨ e.loop ≠ .a ∧ .a ∈ e.earlier) ∧ s.run.state = .running ∧
      s.poller.todo = 1 :: [] ∧ s.poller.copy = some table ∧ s.acc.advanced[e.station] = false ∧ e.addr < 256 ∧
      65535 < 65536 ∧ 4294967295 < 4294967296 ∧ (last s).poller.exch = some e ∧ (last s).poller.todo = [] ∧
      (s.bookRecord e.station).isSome = true) ∧
      (let s := probing .expired
      s.poller.loopedBack .a = none ∧ (s.loopLine .a).tx = none ∧ s.poller.exch = none ∧
        s.poller.probe = some { station := 0, addr := 10, loop := .a, phase := .expired }) := by decide

theorem witness_DeadlineClosesTheRound :
    let s := polling .waiting 1
    s.run.state = .running ∧ s.poller.roundOpen = true ∧ s.gain.cfg.isSome = true ∧ running.poller.roundOpen = false := by decide

theorem witness_TestFramesJudgeTheLoop :
    (let s := testing 16
    s.ram.wf = true ∧ s.poller.test = some { loop := .b, slot := 9, rounds := 2, frame := 16, inFlight := true, intact := 15 } ∧
      s.scanner.hasInFlight 9 = true ∧ s.ram.readLe (slotAddr 9) 1 = 2) ∧
      (let s := testing 8
      s.ram.wf = true ∧
        s.poller.test = some { loop := .b, slot := 9, rounds := 1, frame := 8, inFlight := true, intact := 7 }) ∧
      running.poller.test = none := by decide +kernel

theorem witness_AcknowledgementEndsTheCommand :
    let l := (carrying 1 (some 1269)).links.lines[2]
    let c : Command := { seq := 40, ceiling := 3072, attempt := 1, phase := .waiting }
    65535 < 65536 ∧ l.tx = none ∧ l.out = some c ∧ c.phase = .waiting ∧ (41 : Byte) ≠ c.seq ∧ idle.links.lines[2].out = none := by
  decide

/-- The same command once its timer has expired while a frame was being received: an ACK of another number fails it. -/
theorem witness_expired_command :
    let c : Command := { seq := 40, ceiling := 3072, attempt := 3, phase := .expired }
    let l := { (carrying 3 none).links.lines[2] with out := some c }
    l.tx = none ∧ c.phase = .expired ∧ 3 ≤ c.attempt ∧
      parseAck 2 (sealFrame [0xC35A, 2 + 256 * 41, 0]) = some { echo := 41, limiter := .normal } ∧ (41 : Byte) ≠ c.seq := by
  decide

theorem witness_CommandIsResentThenCharged :
    (let l := (carrying 2 none).links.lines[2]
    let c : Command := { seq := 40, ceiling := 3072, attempt := 2, phase := .waiting }
    l.tx = none ∧ l.out = some c ∧ c.phase = .waiting ∧ c.attempt < 3) ∧
      (let l := (carrying 3 (some 1269)).links.lines[2]
      let c : Command := { seq := 40, ceiling := 3072, attempt := 3, phase := .waiting }
      l.tx = none ∧ l.out = some c ∧ c.phase = .waiting ∧ 3 ≤ c.attempt) := by decide

theorem witness_WindowSumsFollowTheRing :
    let a := Account.reset.prime 60 316 31 1000 0
    a.exact 60 ∧ ({ mark := .present, eA := 4294967295, eC := 0 } : Sample).inRange := by
  refine ⟨⟨by decide +kernel, fun x hx => ?_, by decide +kernel, by decide +kernel, by decide +kernel⟩, by decide, by decide⟩
  rcases List.mem_append.1 hx with hx | hx
  · rw [List.eq_of_mem_replicate hx]; exact ⟨by decide, by decide⟩
  · rw [List.eq_of_mem_replicate (List.mem_of_mem_drop hx)]; exact ⟨by decide, by decide⟩

theorem witness_AllowanceAndDemands :
    10 ≤ running.acc.h ∧ 1 ≤ running.acc.k ∧ running.acc.accts[0].qs = 4096 ∧ running.reducibleShare 0 ≤ 256 := by decide +kernel

/-- A link in the start hold, one with no command, one with a command; and loop A due for a probe through station 0, or nobody. -/
theorem witness_ClosureMovesTheCeiling :
    (let g := running.gain.stages[0]
    g.applied ≤ g.bound ∧ 1269 < g.applied ∧ g.applied ≤ 4096) ∧
      (let s := carrying 1 none
      s.gain.cfg.isSome = true ∧ ceilingsBounded s.gain.stages ∧ s.Closes s.closeByLastOutcome ∧
        s.links.lines[0].state ≠ .disabled ∧ s.links.lines[0].hold = false ∧ s.links.lines[0].out = none ∧
        s.links.lines[0].pend = none ∧ s.links.lines[2].hold = false ∧ s.links.lines[2].out.isSome = true) ∧
      (let s := (probing .waiting)
      s.poller.copy = some table ∧ table[(0 : Station)].enabled = true ∧ (∀ o : Station, o < 0 → table[o].enabled = false) ∧
        (s.loopLine .a).state = .down ∧ (s.loopLine .a).probe ≤ 1 ∧ ¬ (s.loopLine .b).state = .down) := by
  refine ⟨by decide, ⟨rfl, ?_, .inl rfl, by decide, by decide, by decide, by decide, by decide, by decide⟩, by decide⟩
  unfold ceilingsBounded; decide

theorem witness_NoticesAreWrittenOrLost :
    running.ram.wf = true ∧ running.notices.head + 1 ≠ running.notices.tail ∧
      (let n := { running.notices with head := 255 }
      n.head + 1 = n.tail) ∧ running.notices.conds[0][3] ≠ true := by decide

theorem witness_RecordsFillTheLog :
    running.ram.wf = true ∧ (List.replicate 32 (7 : Byte)).length = 32 ∧ running.log.minuteOpen = true ∧
      running.log.folded = 0 ∧ (1023 : BitVec 10) + 1 = BitVec.ofNat 10 (running.ram.readLe 0x0242 2) ∧
      running.log.writeIdx + 1 ≠ BitVec.ofNat 10 (running.ram.readLe 0x0242 2) ∧
      (let s := { running with log := { running.log with folded := 1, writeIdx := 1021 } }
      s.log.folded ≠ 0 ∧ s.ram.badAt 0x0242 = false ∧ s.ram.badAt 0x0243 = false ∧ s.ram.readLe 0x0242 2 ≤ 1023 ∧
        (s.log.writeIdx - BitVec.ofNat 10 (s.ram.readLe 0x0242 2)).toNat +
          (allStations.filter fun st => s.enabledStation st).length ≤ 1023) := by decide

theorem witness_BookAreaValidated :
    (∃ b, validateArea Memory.cleared 0 = .ok b) ∧
      validateArea ((Memory.cleared.writeLe 0x0FF0 2 256).writeLe 0x0FF2 2 1) 0 =
        .error { set := 7, station := 15, cause := .shareSum } ∧
      validateArea (Memory.cleared.disturb 0x100F 0) 1 = .error { set := 0, station := 0, cause := .parity } :=
  ⟨validates (by decide +kernel), by decide +kernel, by decide +kernel⟩

/-- The header and the head entry of a schedule of one entry; one with an entry count of 0; and a second event in WAITING and in
FINAL, at the clock's largest value among others. -/
theorem witness_PassKeepsItsRules :
    (scheduled.readLe 0x3404 2 = 1 ∧ scheduled.readLe 0x3406 2 = 1 ∧ scheduled.bad = [] ∧
      scheduled.readLe (entryAddr 1) 1 = 1 ∧ limitAt scheduled 1 = limit) ∧
      Memory.cleared.readLe 0x3404 2 = 0 ∧
      (running.run.state ≠ .resetBusy ∧ running.clock < 2147483647 ∧ running.walker.state = .waiting ∧
        running.walker.active = some limit ∧ ∃ t, exec (.secondEvent [.walker]) running = .next t) ∧
      (let s := { running with clock := 2147483647, walker := { running.walker with state := .final } }
      2147483647 ≤ s.clock ∧ s.walker.state = .final ∧ ∃ t, exec (.secondEvent [.walker]) s = .next t) ∧
      Memory.cleared.wf = true ∧ Memory.cleared.badAt 0x0200 = false ∧
      (Memory.cleared.write 0x0200 1).readLe 0x0200 1 = 1 := by
  refine ⟨by decide, by decide, ⟨by decide, by decide, by decide, by decide, _, rfl⟩, ⟨by decide, by decide, _, rfl⟩, by decide,
    by decide, by decide⟩

/-- Table 5-7: an entry whose W is 901 is a FIELD fault of the pass from the head, and a TEST there a KIND fault. -/
theorem test_pass_faults :
    let at' := fun (m : Memory) => ({ running with ram := m }.passFromHead).ending
    (at' (scheduled.writeLe 0x3428 2 901), at' (scheduled.write 0x3420 2), at' (scheduled.writeLe 0x3406 2 300)) =
      (.fault .field 1 1, .fault .kind 1 1, .fault .linkRange 0 255) := by decide

end Sys2Proof.Tests
end

/-! SUPPORT. The window sums over a ring (R3, R16, R17, R19, R21): an advance, a re-sum and a priming keep N and S exact. -/

namespace Sys2Proof.Machine

/-! ### Sums over the ages of a ring -/

/-- A count or sum over samples that adds over appended lists. -/
def Additive (φ : List Sample → Nat) : Prop := ∀ xs ys, φ (xs ++ ys) = φ xs + φ ys

theorem additive_countedIn : Additive countedIn := fun _ _ => List.countP_append

theorem additive_sumAIn : Additive sumAIn := fun _ _ => by simp [sumAIn]

theorem additive_sumCIn : Additive sumCIn := fun _ _ => by simp [sumCIn]

/-- The ages 0 to `hi` − 1 are those below `lo` and then those from `lo` on. -/
theorem ages_append (ring : List Sample) {lo hi : Nat} (h : lo ≤ hi) :
    ages ring 0 hi = ages ring 0 lo ++ ages ring lo hi := by
  unfold ages
  rw [List.drop_zero, Nat.sub_zero, Nat.sub_zero, ← List.take_add, Nat.add_sub_cancel' h]

/-- A sum over a longer window is that over a shorter one and that over the ages between. -/
theorem Additive.ages {φ : List Sample → Nat} (hφ : Additive φ) (ring : List Sample) {lo hi : Nat} (h : lo ≤ hi) :
    φ (ages ring 0 hi) = φ (ages ring 0 lo) + φ (ages ring lo hi) := by
  rw [ages_append ring h, hφ]

/-- R3: after an advance the window holds the new sample and all but the oldest of the window before. -/
theorem ages_advance (ring : List Sample) (x : Sample) {w : Nat} (h1 : 1 ≤ w) (h2 : w ≤ 900) :
    ages ((x :: ring).take Config.ringLength) 0 w = [x] ++ ages ring 0 (w - 1) := by
  obtain ⟨v, rfl⟩ := Nat.exists_eq_add_of_le' h1
  have hr : min (v + 1) Config.ringLength = v + 1 := Nat.min_eq_left h2
  simp [ages, List.take_take, hr]

/-- R17: a window sum moved by an advance. -/
theorem Additive.advance {φ : List Sample → Nat} (hφ : Additive φ) (ring : List Sample) (x : Sample) {w : Nat}
    (h1 : 1 ≤ w) (h2 : w ≤ 900) :
    φ (Machine.ages ring 0 w) - φ (Machine.ages ring (w - 1) w) + φ [x] =
      φ (Machine.ages ((x :: ring).take Config.ringLength) 0 w) := by
  rw [ages_advance ring x h1 h2, hφ, hφ.ages ring (Nat.sub_le w 1)]
  omega

/-- R19: a window sum moved by a re-sum to a shorter window. -/
theorem Additive.shorten {φ : List Sample → Nat} (hφ : Additive φ) (ring : List Sample) {w1 w2 : Nat} (h : w2 ≤ w1) :
    φ (Machine.ages ring 0 w1) - φ (Machine.ages ring w2 w1) = φ (Machine.ages ring 0 w2) := by
  rw [hφ.ages ring h, Nat.add_sub_cancel]

/-- R21: the window of a primed ring holds primed samples alone. -/
theorem ages_primed (ring : List Sample) (x : Sample) (w : Nat) :
    ages (List.replicate w x ++ ring.drop w) 0 w = List.replicate w x := by
  simp [ages]

theorem countedIn_replicate (w : Nat) {x : Sample} (h : x.mark.counted = true) : countedIn (List.replicate w x) = w := by
  simp [countedIn, List.countP_replicate, h]

theorem sumAIn_replicate (w : Nat) {x : Sample} (h : x.mark.counted = true) : sumAIn (List.replicate w x) = w * x.eA := by
  simp [sumAIn, h]

theorem sumCIn_replicate (w : Nat) {x : Sample} (h : x.mark.counted = true) : sumCIn (List.replicate w x) = w * x.eC := by
  simp [sumCIn, h]

/-! ### The three moves of an account -/

/-- R3, R17: an advance keeps the account exact over the window. -/
theorem exact_advance {a : Account} {w : Nat} (h1 : 60 ≤ w) (h2 : w ≤ 900) (h : a.exact w) {x : Sample} (hx : x.inRange) :
    (a.advance w x).exact w := by
  obtain ⟨hlen, hrange, hn, hA, hC⟩ := h
  have hw : 1 ≤ w := by omega
  refine ⟨?_, fun y hy => ?_, ?_, ?_, ?_⟩
  · simp [Account.advance, hlen]
  · rcases List.mem_cons.1 (List.mem_of_mem_take hy) with rfl | hy
    · exact hx
    · exact hrange y hy
  · simp only [Account.advance]; rw [hn, additive_countedIn.advance a.ring x hw h2]
  · simp only [Account.advance]; rw [hA, additive_sumAIn.advance a.ring x hw h2]
  · simp only [Account.advance]; rw [hC, additive_sumCIn.advance a.ring x hw h2]

/-- R19: a re-sum makes the account exact over the new window. -/
theorem exact_resum {a : Account} {w1 : Nat} (w2 : Nat) (h : a.exact w1) : (a.resum w1 w2).exact w2 := by
  obtain ⟨hlen, hrange, hn, hA, hC⟩ := h
  unfold Account.resum
  split
  · next hlt =>
    refine ⟨hlen, hrange, ?_, ?_, ?_⟩ <;> dsimp only
    · rw [hn, additive_countedIn.shorten a.ring hlt.le]
    · rw [hA, additive_sumAIn.shorten a.ring hlt.le]
    · rw [hC, additive_sumCIn.shorten a.ring hlt.le]
  · next hge =>
    have hle : w1 ≤ w2 := Nat.not_lt.1 hge
    refine ⟨hlen, hrange, ?_, ?_, ?_⟩ <;> dsimp only
    · rw [hn, additive_countedIn.ages a.ring hle]
    · rw [hA, additive_sumAIn.ages a.ring hle]
    · rw [hC, additive_sumCIn.ages a.ring hle]

/-- R21: a priming makes the account exact over the window. -/
theorem exact_prime {a : Account} {w : Nat} (hw : w ≤ 900) (h : a.exact w) (pLimA pAmbA pLimC pAmbC : Nat) :
    (a.prime w pLimA pAmbA pLimC pAmbC).exact w := by
  obtain ⟨hlen, hrange, -, -, -⟩ := h
  have hr : Config.ringLength = 900 := rfl
  refine ⟨?_, fun y hy => ?_, ?_, ?_, ?_⟩
  · simp only [Account.prime, List.length_append, List.length_replicate, List.length_drop, hlen]; omega
  · rcases List.mem_append.1 hy with hy | hy
    · rw [List.eq_of_mem_replicate hy]
      exact ⟨Nat.min_le_left _ _, Nat.min_le_left _ _⟩
    · exact hrange y (List.mem_of_mem_drop hy)
  · simp only [Account.prime]; rw [ages_primed, countedIn_replicate w rfl]
  · simp only [Account.prime]; rw [ages_primed, sumAIn_replicate w rfl]
  · simp only [Account.prime]; rw [ages_primed, sumCIn_replicate w rfl]

/-- R19: a re-sum changes N and S alone. -/
theorem resum_frame (a : Account) (w1 w2 : Nat) :
    ∃ n sA sC, a.resum w1 w2 = { a with n := n, a := { a.a with s := sA }, c := { a.c with s := sC } } := by
  unfold Account.resum
  split
  · exact ⟨_, _, _, rfl⟩
  · exact ⟨_, _, _, rfl⟩

@[simp] theorem resum_ring (a : Account) (w1 w2 : Nat) : (a.resum w1 w2).ring = a.ring := by
  obtain ⟨n, sA, sC, h⟩ := resum_frame a w1 w2
  rw [h]

/-- Settles O54. -/
theorem windowSumsFollowTheRing : Obligations.WindowSumsFollowTheRing := by
  intro a w h1 h2 h
  refine ⟨fun x hx => ⟨exact_advance h1 h2 h hx, rfl⟩, fun w2 _ _ => ⟨exact_resum w2 h, resum_frame a w w2⟩, fun _ _ _ _ => ?_⟩
  exact ⟨exact_prime h2 h _ _ _ _, rfl⟩

end Sys2Proof.Machine

/-! SUPPORT. One traversal of the part's operations for every invariant that speaks of each station's account by itself, together
with the ranges of the counters outside the accounts: the invariant of R16 and that of the numbers are two cases of it. -/

namespace Sys2Proof.Machine

/-! ### Rules of an account -/

/-- What an advance may store: a sample whose energies are counts, or one that repeats the energies of the newest sample (R12). -/
def Account.admits (a : Account) (x : Sample) : Prop :=
  x.inRange ∨ (x.eA = (sampleAt a.ring 0).eA ∧ x.eC = (sampleAt a.ring 0).eC)

/-- A property of an account under a window length that every operation on accounts keeps. -/
structure AccountRule where
  holds : Nat → Account → Prop
  advance : ∀ {w a x}, holds w a → a.admits x → holds w (a.advance w x)
  resum : ∀ {w1 w2 a}, 60 ≤ w2 → w2 ≤ 900 → holds w1 a → holds w2 (a.resum w1 w2)
  prime : ∀ {w a} (pLimA pAmbA pLimC pAmbC : Nat), holds w a → holds w (a.prime w pLimA pAmbA pLimC pAmbC)
  missing : ∀ {w a n}, n ≤ Config.missingMax → holds w a → holds w { a with missing := n }
  compute : ∀ {w a} (eA eC : Nat) (r : BookRecord) (pAmbA pAmbC h k : Nat), holds w a →
    holds w (a.compute eA eC r pAmbA pAmbC h k)
  demand : ∀ {w a} (cr : Nat) (u : Bool), holds w a → holds w { a with gs := stageDemand a.qs cr, unctl := u }
  disable : ∀ {w a}, holds w a →
    holds w
      { a with missing := 0, a := { a.a with overdrawn := false }, c := { a.c with overdrawn := false }, unctl := false }
  softReset : ∀ {w a}, holds w a → holds w a.softReset
  reset : holds 900 .reset

/-- R76, R78: the counts of a loop are in range. -/
def LoopLine.counts (v : LoopLine) : Prop := v.fails ≤ 255 ∧ v.probe ≤ 10

/-- The counters outside the accounts and the show clock are in their ranges. -/
def State.CountersHold (s : State) : Prop :=
  (∀ i : Fin 2, s.poller.loops[i].counts) ∧ (∀ k : Stage, s.links.lines[k].failed ≤ 3) ∧ s.walker.links ≤ Config.linkMax ∧
    s.walker.watch ≤ 255 ∧ s.clock ≤ Config.clockMax

/-- Every station's account meets the rule, and, where `q` says so, the counters are in range. -/
def State.Meets (R : AccountRule) (q : Prop) (s : State) : Prop :=
  (∀ st : Station, R.holds s.acc.w s.acc.accts[st]) ∧ (q → s.CountersHold)

variable {R : AccountRule} {q : Prop} {s t : State}

namespace State.Meets

/-- The rule and the counters read nothing but these parts. -/
theorem congr (h : s.Meets R q) (hw : t.acc.w = s.acc.w := by simp) (ha : t.acc.accts = s.acc.accts := by simp)
    (hp : t.poller.loops = s.poller.loops := by simp) (hl : t.links.lines = s.links.lines := by simp)
    (hk : t.walker.links = s.walker.links := by simp) (hi : t.walker.watch = s.walker.watch := by simp)
    (hc : t.clock = s.clock := by simp) : t.Meets R q := by
  unfold State.Meets State.CountersHold
  rw [hw, ha, hp, hl, hk, hi, hc]
  exact h

/-! ### Notices and the log -/

theorem post (h : s.Meets R q) (kind sub detail : Nat) : (s.post kind sub detail).Meets R q := h.congr

theorem report (h : s.Meets R q) (cls : CondClass) (sub : Fin 16) (now : Bool) (v : Nat) :
    (s.report cls sub now v).Meets R q := h.congr

theorem logSample (h : s.Meets R q) (st : Station) (x : Sample) : (s.logSample st x).Meets R q := h.congr

theorem logExceed (h : s.Meets R q) (st : Station) (b : Bool) : (s.logExceed st b).Meets R q := h.congr

theorem logClip (h : s.Meets R q) (k : Stage) (v : Nat) : (s.logClip k v).Meets R q := h.congr

theorem logClosure (h : s.Meets R q) : s.logClosure.Meets R q := h.congr

theorem readOccupancy (h : s.Meets R q) : s.readOccupancy.Meets R q := h.congr

theorem closeMinute (h : s.Meets R q) (minute : Nat) (f : RecordFlags) : (s.closeMinute minute f).Meets R q := h.congr

/-! ### Exposure Accumulator -/

theorem setAccount (h : s.Meets R q) (st : Station) {a : Account} (ha : R.holds s.acc.w a) : (s.setAccount st a).Meets R q := by
  refine ⟨fun o => ?_, h.2⟩
  rw [setAccount_acc_accts, upd_get]
  split
  · exact ha
  · exact h.1 o

theorem handExceed (h : s.Meets R q) (st : Station) : (s.handExceed st).Meets R q := h.congr

theorem prime (h : s.Meets R q) (st : Station) : (s.prime st).Meets R q := by
  unfold State.prime
  split
  · exact h.setAccount st (R.prime _ _ _ _ (h.1 st))
  · exact h

theorem stageFive (h : s.Meets R q) (st : Station) : (s.stageFive st).Meets R q :=
  (h.setAccount st (R.demand _ _ (h.1 st))).report _ _ _ _

theorem takeControllability (h : s.Meets R q) (k : Stage) (now : Bool) : (s.takeControllability k now).Meets R q := by
  refine forStations_preserves (State.Meets R q) _ (fun st t ht => ?_) _ (h.congr rfl rfl rfl rfl rfl rfl rfl)
  split
  · exact ht.stageFive st
  · exact ht

theorem compute (h : s.Meets R q) (st : Station) (x : Sample) : (s.compute st x).Meets R q := by
  unfold State.compute
  split
  · next r _ =>
    exact ((h.setAccount st (R.compute x.eA x.eC r _ _ _ _ (h.1 st))).handExceed st).stageFive st
  · exact h

theorem advance (h : s.Meets R q) (st : Station) {x : Sample} (hx : s.acc.accts[st].admits x) : (s.advance st x).Meets R q :=
  (h.setAccount st (R.advance (h.1 st) hx)).congr rfl rfl rfl rfl rfl rfl rfl

theorem unwritten_inRange : Sample.unwritten.inRange := ⟨Nat.zero_le _, Nat.zero_le _⟩

theorem advanceSilent (h : s.Meets R q) (st : Station) : (s.advanceSilent st).Meets R q :=
  (h.advance st (.inl unwritten_inRange)).logSample _ _

theorem advanceRest (h : s.Meets R q) : s.advanceRest.Meets R q := by
  refine forStations_preserves (State.Meets R q) _ (fun st t ht => ?_) _ h
  split
  · exact ht
  · exact ht.advanceSilent st

theorem advanceAll (h : s.Meets R q) : s.advanceAll.Meets R q :=
  forStations_preserves (State.Meets R q) _ (fun st _ ht => ht.advanceSilent st) _ h

end State.Meets

/-- R1, R68: the energies of an outcome are counts. -/
def SecondOutcome.inRange (o : SecondOutcome) : Prop := o.energies.1 ≤ Config.energyMax ∧ o.energies.2 ≤ Config.energyMax

theorem missing_inRange : SecondOutcome.missing.inRange := ⟨Nat.zero_le _, Nat.zero_le _⟩

/-- R10 to R12: what an outcome stores is admitted by the account. -/
theorem sampleFor_admits {o : SecondOutcome} (ho : o.inRange) (a b : Account) (hb : b.ring = a.ring) (missing : Nat) :
    b.admits (sampleFor o missing (sampleAt a.ring 0)) := by
  unfold sampleFor
  split
  · exact .inl ho
  · exact .inl ⟨le_refl _, le_refl _⟩
  · exact .inl ⟨Nat.zero_le _, Nat.zero_le _⟩
  · split
    · exact .inr (by rw [hb]; exact ⟨rfl, rfl⟩)
    · exact .inl State.Meets.unwritten_inRange

/-- R13: the consecutive-missing count stays within 16 bits. -/
theorem missingAfter_le (c : OutcomeClass) (n : Nat) : missingAfter c n ≤ Config.missingMax := by
  unfold missingAfter
  split
  · exact Nat.min_le_left _ _
  · exact Nat.zero_le _

/-- The words of received bytes have 16 bits. -/
theorem wordsOf_isWords (bytes : List Byte) : isWords (wordsOf bytes) := by
  fun_induction wordsOf bytes with
  | case1 lo hi rest ih =>
    intro w hw
    rcases List.mem_cons.1 hw with rfl | hw
    · have := lo.isLt; have := hi.isLt; omega
    · exact ih w hw
  | case2 => intro w hw; cases hw

/-- R68: the energies of a SECOND frame are counts. -/
theorem parseSecond_inRange {bytes : List Byte} {f : SecondFrame} (h : parseSecond bytes = some f) : f.outcome.inRange := by
  have hword : ∀ i, (wordsOf bytes).getD i 0 < 65536 := by
    intro i
    rw [List.getD_eq_getElem?_getD]
    cases hi : (wordsOf bytes)[i]? with
    | none => simp
    | some w => exact wordsOf_isWords bytes w (List.mem_of_getElem? hi)
  unfold parseSecond at h
  dsimp only at h
  split at h
  · obtain rfl := Option.some.inj h
    have h3 := hword 3; have h4 := hword 4; have h5 := hword 5; have h6 := hword 6
    have he : Config.energyMax = 4294967295 := rfl
    constructor <;> simp only [SecondOutcome.energies] <;> omega
  · cases h

/-- R58, R59: the outcome of a frame judged valid. -/
theorem judge_inRange {p : Poller} {addr : Nat} {bytes : List Byte} {o : SecondOutcome} (h : p.judge addr bytes = .valid o) :
    o.inRange := by
  unfold Poller.judge at h
  cases hf : parseSecond bytes with
  | none => rw [hf] at h; cases h
  | some f =>
    rw [hf] at h
    dsimp only at h
    split at h
    · split at h
      · cases h; exact parseSecond_inRange hf
      · split at h <;> cases h
    · cases h

namespace State.Meets

theorem storeOutcome (h : s.Meets R q) (st : Station) {o : SecondOutcome} (ho : o.inRange) : (s.storeOutcome st o).Meets R q := by
  unfold State.storeOutcome
  split
  · exact h
  · dsimp only
    have h1 := h.setAccount st (R.missing (missingAfter_le o.cls s.acc.accts[st].missing) (h.1 st))
    have h2 := h1.advance st (x := sampleFor o (missingAfter o.cls s.acc.accts[st].missing) (sampleAt s.acc.accts[st].ring 0))
      (sampleFor_admits ho _ _ (by rw [setAccount_acc_accts, upd_same]) _)
    split
    · exact ((h2.compute st _).logSample st _).congr rfl rfl rfl rfl rfl rfl rfl
    · exact (h2.logSample st _).congr rfl rfl rfl rfl rfl rfl rfl

theorem putInForce (h : s.Meets R q) {w : Nat} (hw : 60 ≤ w ∧ w ≤ 900) (set : Fin 8) (hz kf : Nat) :
    (s.putInForce w set hz kf).Meets R q := by
  refine ⟨fun st => ?_, h.2⟩
  unfold State.putInForce
  dsimp only
  split
  · next e => subst e; exact h.1 st
  · rw [ofFn_get]; exact R.resum hw.1 hw.2 (h.1 st)

theorem disableAccount (h : s.Meets R q) (st : Station) : (s.disableAccount st).Meets R q :=
  ((h.setAccount st (R.disable (h.1 st))).handExceed st).report _ _ _ _

/-! ### Stage Link Controller -/

theorem setLink (h : s.Meets R q) (k : Stage) {l : Link} (hl : q → l.failed ≤ 3) : (s.setLink k l).Meets R q := by
  refine ⟨h.1, fun hq => ?_⟩
  obtain ⟨hp, hf, hrest⟩ := h.2 hq
  refine ⟨hp, fun j => ?_, hrest⟩
  rw [setLink_links_lines, upd_get]
  split
  · exact hl hq
  · exact hf j

theorem modLink (h : s.Meets R q) (k : Stage) {f : Link → Link} (hf : ∀ l : Link, l.failed ≤ 3 → (f l).failed ≤ 3) :
    (s.modLink k f).Meets R q := h.setLink k fun hq => hf _ ((h.2 hq).2.1 k)

end State.Meets

/-! R95: what changes a link keeps its failed-second count within 3. -/

@[simp] theorem begin_failed (k : Stage) (v : Nat) (l : Link) : (l.begin k v).failed = l.failed := rfl

@[simp] theorem clear_failed (l : Link) : l.clear.failed = l.failed := rfl

@[simp] theorem offer_failed (k : Stage) (v : Nat) (l : Link) : (l.offer k v).failed = l.failed := by
  unfold Link.offer; repeat' split
  all_goals rfl

@[simp] theorem closureOffer_failed (k : Stage) (v : Nat) (l : Link) : (l.closureOffer k v).failed = l.failed := by
  unfold Link.closureOffer; repeat' split
  · rfl
  · rfl
  · exact offer_failed k v l

@[simp] theorem hardDrop_failed (b : Bool) (k : Stage) (v : Nat) (l : Link) : (l.hardDrop b k v).failed = l.failed := by
  unfold Link.hardDrop; repeat' split
  all_goals rfl

@[simp] theorem sendPending_failed (b : Bool) (k : Stage) (l : Link) : (l.sendPending b k).failed = l.failed := by
  unfold Link.sendPending; repeat' split
  all_goals rfl

@[simp] theorem holdValue_failed (v : Nat) (l : Link) : (l.holdValue v).failed = l.failed := by
  unfold Link.holdValue; split <;> rfl

@[simp] theorem resend_failed (k : Stage) (c : Command) (l : Link) : (l.resend k c).failed = l.failed := rfl

@[simp] theorem sent_failed (k : Stage) (l : Link) : (l.sent k).failed = l.failed := by
  unfold Link.sent; repeat' split
  all_goals rfl

@[simp] theorem stop_failed (k : Stage) (v : Nat) (l : Link) : (l.stop k v).failed = l.failed := by
  unfold Link.stop; split <;> rfl

theorem charge_failed_le {l : Link} (h : l.failed ≤ 3) : l.charge.failed ≤ 3 := by
  simp only [Link.charge]
  split
  · exact h
  · exact Nat.min_le_left _ _

theorem startEnabled_failed_le {l : Link} (h : l.failed ≤ 3) : l.startEnabled.failed ≤ 3 := by
  simp only [Link.startEnabled]
  split
  · exact h
  · exact Nat.zero_le _

namespace State.Meets

theorem reevaluateLink (h : s.Meets R q) (k : Stage) : (s.reevaluateLink k).Meets R q := by
  refine State.Meets.report ?_ _ _ _ _
  split
  · exact h
  · exact h.takeControllability k _

theorem acknowledge (h : s.Meets R q) (k : Stage) (m : LimiterState) : (s.acknowledge k m).Meets R q :=
  ((h.modLink k fun _ _ => Nat.zero_le _).reevaluateLink k).modLink k fun l hl => by simpa using hl

theorem exhaust (h : s.Meets R q) (k : Stage) : (s.exhaust k).Meets R q := by
  unfold State.exhaust
  refine modLink (reevaluateLink (h.modLink k fun l hl => ?_) k) k fun l hl => ?_
  · exact charge_failed_le hl
  · simpa using hl

theorem failCommand (h : s.Meets R q) (k : Stage) (c : Command) : (s.failCommand k c).Meets R q := by
  unfold State.failCommand
  split
  · exact h.modLink k fun _ hl => hl
  · exact h.exhaust k

theorem judgeAck (h : s.Meets R q) (k : Stage) (f : Option AckFrame) : (s.judgeAck k f).Meets R q := by
  unfold State.judgeAck
  repeat' split
  · exact h
  · exact h
  · exact h
  · exact h
  · exact h.failCommand k _
  · exact h.acknowledge k _
  · exact h
  · exact h.failCommand k _
  · exact h.acknowledge k _
  · exact h.failCommand k _

theorem ackExpiry (h : s.Meets R q) (k : Stage) (b : Bool) : (s.ackExpiry k b).Meets R q := by
  unfold State.ackExpiry
  repeat' split
  · exact h
  · exact h.modLink k fun _ hl => hl
  · exact h.failCommand k _
  · exact h

theorem clearCharged (h : s.Meets R q) : s.clearCharged.Meets R q := by
  refine ⟨h.1, fun hq => ?_⟩
  obtain ⟨hp, hf, hrest⟩ := h.2 hq
  refine ⟨hp, fun k => ?_, hrest⟩
  unfold State.clearCharged
  dsimp only
  rw [ofFn_get]
  exact hf k

theorem offerStopCeiling (h : s.Meets R q) : s.offerStopCeiling.Meets R q := by
  unfold State.offerStopCeiling
  split
  · exact forStages_preserves (State.Meets R q) _ (fun k t ht => ht.modLink k fun l hl => by simpa using hl) _ h
  · exact h

theorem startLinks (h : s.Meets R q) (cfg : LinkConfig) : (s.startLinks cfg).Meets R q := by
  refine forStages_preserves (State.Meets R q) _ (fun k t ht => ?_) _ (h.congr rfl rfl rfl rfl rfl rfl rfl)
  refine State.Meets.reevaluateLink (ht.modLink k fun l hl => ?_) k
  split
  · exact startEnabled_failed_le hl
  · exact Nat.zero_le _

theorem stopLinks (h : s.Meets R q) : s.stopLinks.Meets R q := by
  unfold State.stopLinks
  split
  · exact forStages_preserves (State.Meets R q) _ (fun k t ht => ht.modLink k fun l hl => by simpa using hl) _ h
  · exact h

/-! ### Gain Allocator -/

theorem hardDrop (h : s.Meets R q) (k : Stage) (v : Nat) : (s.hardDrop k v).Meets R q :=
  h.modLink k fun l hl => by simpa using hl

theorem setGain (h : s.Meets R q) (k : Stage) (g : GainStage) : (s.setGain k g).Meets R q := h.congr

theorem stageConditions (h : s.Meets R q) (k : Stage) : (s.stageConditions k).Meets R q := h.congr

theorem clipStage (h : s.Meets R q) (k : Stage) : (s.clipStage k).Meets R q := by
  unfold State.clipStage
  dsimp only
  split
  · exact (((h.setGain k _).hardDrop k _).logClip k _).stageConditions k
  · exact h

theorem changeTerms (h : s.Meets R q) (f : Stage → GainStage → GainStage) : (s.changeTerms f).Meets R q :=
  forStages_preserves (State.Meets R q) _ (fun k _ ht => ht.clipStage k) _ (h.congr rfl rfl rfl rfl rfl rfl rfl)

theorem evaluateLost (h : s.Meets R q) : s.evaluateLost.Meets R q := h.changeTerms _

theorem setAmbientMute (h : s.Meets R q) (b : Bool) : (s.setAmbientMute b).Meets R q := h.changeTerms _

theorem rampAll (h : s.Meets R q) : s.rampAll.Meets R q := h.congr

theorem driveGain (h : s.Meets R q) : s.driveGain.Meets R q := by
  refine forStages_preserves (State.Meets R q) _ (fun k t ht => ht.stageConditions k) _ (logClosure ?_)
  exact forStages_preserves (State.Meets R q) _ (fun k t ht => ht.modLink k fun l hl => by simpa using hl) _ h.rampAll

theorem startGain (h : s.Meets R q) : s.startGain.Meets R q := by
  refine forStages_preserves (State.Meets R q) _ (fun k t ht => ?_) _ (h.congr rfl rfl rfl rfl rfl rfl rfl)
  exact ((ht.modLink k fun l hl => by simpa using hl).logClip k _).stageConditions k

end State.Meets

/-! ### Schedule Walker -/

/-- R18, R121, R124: a pass counts at most 64 links, and the entry that it may activate has a window length in range. -/
def Pass.sound (p : Pass) : Prop := p.links ≤ Config.linkMax ∧ ∀ e, p.last = some e → 60 ≤ e.w ∧ e.w ≤ 900

/-- R121: a LIMIT entry that is valid has a window length in range. -/
theorem validate_window {n : Nat} {atHead : Bool} {e : RawEntry} {l : LimitEntry} (h : e.validate n atHead = .ok (.limit l)) :
    60 ≤ l.w ∧ l.w ≤ 900 := by
  unfold RawEntry.validate at h
  split at h
  · split at h
    · next hr =>
      cases h
      simp only [RawEntry.limitInRange, Bool.and_eq_true, decide_eq_true_eq] at hr
      exact hr.1.1.1.2
    · cases h
  · repeat' split at h
    all_goals cases h

theorem early_sound (r : FaultReason) (entry link : Nat) : (Pass.early r entry link).sound :=
  ⟨Nat.zero_le _, fun _ h => by cases h⟩

theorem follow_sound (s : State) (count left : Nat) {last : Option LimitEntry} (linker linkerStart link : Nat)
    (hl : ∀ e, last = some e → 60 ≤ e.w ∧ e.w ≤ 900) : (s.follow count left last linker linkerStart link).sound := by
  induction left generalizing last linker linkerStart link with
  | zero =>
    unfold State.follow
    dsimp only
    repeat' split
    all_goals exact ⟨Nat.sub_le _ _, hl⟩
  | succ left ih =>
    unfold State.follow
    dsimp only
    repeat' split
    · exact ⟨Nat.sub_le _ _, hl⟩
    · exact ⟨Nat.sub_le _ _, hl⟩
    · exact ⟨Nat.sub_le _ _, hl⟩
    · exact ⟨Nat.sub_le _ _, hl⟩
    · exact ⟨Nat.sub_le _ _, hl⟩
    · exact ⟨Nat.sub_le _ _, hl⟩
    · exact ⟨Nat.sub_le _ _, hl⟩
    · exact ih _ _ _ hl
    · exact ih _ _ _ hl
    · next hv _ => exact ⟨Nat.sub_le _ _, fun e he => by cases he; exact validate_window hv⟩
    · next hv _ => exact ih _ _ _ fun e he => by cases he; exact validate_window hv

theorem processFirst_sound (s : State) (count : Nat) (atHead : Bool) (n : Nat) (e : RawEntry) :
    (s.processFirst count atHead n e).sound := by
  unfold State.processFirst
  split
  · exact early_sound _ _ _
  · exact follow_sound _ _ _ _ _ _ (by simp)
  · next l hv =>
    have hw : ∀ e, some l = some e → 60 ≤ e.w ∧ e.w ≤ 900 := fun e he => by cases he; exact validate_window hv
    split
    · exact ⟨Nat.zero_le _, hw⟩
    · exact follow_sound _ _ _ _ _ _ hw

theorem withHeader_sound (s : State) {f : Header → Pass} (hf : ∀ h, (f h).sound) : (s.withHeader f).sound := by
  unfold State.withHeader
  repeat' split
  · exact early_sound _ _ _
  · exact early_sound _ _ _
  · exact hf _

theorem passFromHead_sound (s : State) : s.passFromHead.sound := by
  refine withHeader_sound s fun h => ?_
  repeat' split
  · exact early_sound _ _ _
  · exact early_sound _ _ _
  · exact early_sound _ _ _
  · exact processFirst_sound _ _ _ _ _

theorem passFromSuccessor_sound (s : State) (e : LimitEntry) : (s.passFromSuccessor e).sound :=
  withHeader_sound s fun _ => follow_sound _ _ _ _ _ _ (by simp)

theorem passFromPause_sound (s : State) (p : Pause) (holder : Byte) : (s.passFromPause p holder).sound := by
  refine withHeader_sound s fun h => ?_
  repeat' split
  · exact early_sound _ _ _
  · exact early_sound _ _ _
  · exact early_sound _ _ _
  · exact processFirst_sound _ _ _ _ _

theorem passAtStart_sound (s : State) (count : Nat) {head : LimitEntry} (h : 60 ≤ head.w ∧ head.w ≤ 900) :
    (s.passAtStart count head).sound := by
  have hw : ∀ e, some head = some e → 60 ≤ e.w ∧ e.w ≤ 900 := fun e he => by cases he; exact h
  unfold State.passAtStart
  split
  · exact ⟨Nat.zero_le _, hw⟩
  · exact follow_sound _ _ _ _ _ _ hw

/-! What the end of a pass does, one equation for each way it ends. -/

/-- R120, R124: the link count of a pass taken, with no pause. -/
def State.countLinks (n : Nat) (s : State) : State := { s with walker := { s.walker with links := n, pause := none } }

/-- R122, R123: the last LIMIT that a pass reached, activated. -/
def State.takeLast (cause : PassCause) (p : Pass) (s : State) : State :=
  match p.last with
  | some e => s.activate cause false e
  | none => s

/-- R134: the fault-ceiling term, with the entry that the start's first pass reached. -/
def State.takeFault (cause : PassCause) (starting : Bool) (p : Pass) (s : State) : State :=
  match starting, p.last with
  | true, some e => s.activate cause true e
  | _, _ => s.changeTerms fun _ g => { g with fault := s.faultTerm true }

/-- The walker's state replaced. -/
def State.goTo (w : WalkerState) (s : State) : State := { s with walker := { s.walker with state := w } }

/-- R130: the walker paused. -/
def State.pauseAt (p : Pause) (s : State) : State := { s with walker := { s.walker with state := .paused, pause := some p } }

section

variable (cause : PassCause) (starting : Bool) (found : WalkerState) (s : State) {p : Pass}

theorem endPass_notDue (h : p.ending = .notDue) :
    s.endPass cause starting found p = ((s.countLinks p.links).takeLast cause p).goTo .waiting := by
  unfold State.endPass
  simp only [h]
  rfl

theorem endPass_final (h : p.ending = .final) :
    s.endPass cause starting found p = ((s.countLinks p.links).takeLast cause p).goTo .final := by
  unfold State.endPass
  simp only [h]
  rfl

theorem endPass_watch {pause : Pause} (h : p.ending = .watch pause) :
    s.endPass cause starting found p =
      (((s.countLinks p.links).takeLast cause p).pauseAt pause).postWatchReached pause.index
        ((((s.countLinks p.links).takeLast cause p).walker.active.map LimitEntry.index).getD 0) := by
  unfold State.endPass
  simp only [h]
  rfl

theorem endPass_fault {reason : FaultReason} {entry link : Nat} (h : p.ending = .fault reason entry link) :
    s.endPass cause starting found p =
      (((s.countLinks p.links).takeFault cause starting p).goTo .faulted).reportFault reason entry link found := by
  unfold State.endPass
  simp only [h]
  rfl

end

namespace State.Meets

theorem activate (h : s.Meets R q) (cause : PassCause) (b : Bool) {e : LimitEntry} (he : 60 ≤ e.w ∧ e.w ≤ 900) :
    (s.activate cause b e).Meets R q := by
  unfold State.activate
  have h1 : State.Meets R q { s with walker := { s.walker with active := some e } } := h.congr rfl rfl rfl rfl rfl rfl rfl
  exact ((h1.putInForce he e.set e.h e.k).changeTerms _).post _ _ _

/-- Only the links and the watch index of the walker are counters. -/
theorem walker (h : s.Meets R q) (w : Walker) (hl : w.links ≤ Config.linkMax) (hi : w.watch = s.walker.watch) :
    State.Meets R q { s with walker := w } := by
  refine ⟨h.1, fun hq => ?_⟩
  obtain ⟨hp, hf, -, hw, hc⟩ := h.2 hq
  exact ⟨hp, hf, hl, by rw [hi]; exact hw, hc⟩

theorem reportFault (h : s.Meets R q) (reason : FaultReason) (entry link : Nat) (found : WalkerState) :
    (s.reportFault reason entry link found).Meets R q := h.congr

theorem takeLast (h : s.Meets R q) (cause : PassCause) {p : Pass} (hp : p.sound) : (s.takeLast cause p).Meets R q := by
  unfold State.takeLast
  split
  · next e he => exact h.activate cause false (hp.2 e he)
  · exact h

theorem goTo (h : s.Meets R q) (w : WalkerState) : (s.goTo w).Meets R q := h.congr rfl rfl rfl rfl rfl rfl rfl

theorem pauseAt (h : s.Meets R q) (p : Pause) : (s.pauseAt p).Meets R q := h.congr rfl rfl rfl rfl rfl rfl rfl

theorem endPass (h : s.Meets R q) (cause : PassCause) (starting : Bool) (found : WalkerState) {p : Pass} (hp : p.sound) :
    (s.endPass cause starting found p).Meets R q := by
  have h0 : (s.countLinks p.links).Meets R q := h.walker _ hp.1 rfl
  cases he : p.ending with
  | notDue => rw [endPass_notDue _ _ _ _ he]; exact (h0.takeLast cause hp).goTo _
  | final => rw [endPass_final _ _ _ _ he]; exact (h0.takeLast cause hp).goTo _
  | watch pause => rw [endPass_watch _ _ _ _ he]; exact ((h0.takeLast cause hp).pauseAt _).post _ _ _
  | fault reason entry link =>
    rw [endPass_fault _ _ _ _ he]
    refine (State.Meets.goTo ?_ _).reportFault _ _ _ _
    unfold State.takeFault
    split
    · next e he => exact h0.activate cause true (hp.2 e he)
    · exact h0.changeTerms _

theorem walkerSecond (h : s.Meets R q) : s.walkerSecond.Meets R q := by
  unfold State.walkerSecond
  repeat' split
  · exact h.endPass _ _ _ (passFromSuccessor_sound _ _)
  · exact h
  · exact h

theorem walkerMoved (h : s.Meets R q) : s.walkerMoved.Meets R q := by
  unfold State.walkerMoved
  split
  · exact h.endPass _ _ _ (passFromHead_sound _)
  · exact h

theorem leaveFaulted (h : s.Meets R q) : s.leaveFaulted.Meets R q := by
  unfold State.leaveFaulted
  split
  · exact h.changeTerms _
  · exact h

theorem walkerRestart (h : s.Meets R q) : s.walkerRestart.1.Meets R q := by
  unfold State.walkerRestart
  dsimp only
  exact h.leaveFaulted.endPass _ _ _ (passFromHead_sound _)

theorem walkerResume (h : s.Meets R q) (p : Pause) (holder : Byte) : (s.walkerResume p holder).1.Meets R q := by
  unfold State.walkerResume
  dsimp only
  exact h.endPass _ _ _ (passFromPause_sound _ _ _)

/-! ### Ambient measurement -/

theorem complete (h : s.Meets R q) (i : Slot) (rs : List Result) : (s.complete i rs).Meets R q := h.congr

theorem withAmbient (h : s.Meets R q) (m : Ambient) : State.Meets R q { s with acc := { s.acc with ambient := m } } :=
  h.congr rfl rfl rfl rfl rfl rfl rfl

theorem endAmbient (h : s.Meets R q) : s.endAmbient.Meets R q := h.withAmbient _

theorem completeAmbient (h : s.Meets R q) (m : Ambient) : (s.completeAmbient m).Meets R q := by
  unfold State.completeAmbient
  have h1 : State.Meets R q { s with book := s.book.takeAmbient m } := h.congr rfl rfl rfl rfl rfl rfl rfl
  exact ((h1.setAmbientMute false).complete _ _).endAmbient

theorem abortAmbient (h : s.Meets R q) : s.abortAmbient.Meets R q := by
  unfold State.abortAmbient
  exact ((h.setAmbientMute false).complete _ _).endAmbient

theorem ambientClosure (h : s.Meets R q) : s.ambientClosure.Meets R q := by
  unfold State.ambientClosure
  dsimp only
  repeat' split
  · exact h
  · exact h.withAmbient _
  · exact h.withAmbient _
  · exact (h.withAmbient _).completeAmbient _
  · exact h.withAmbient _

end State.Meets

end Sys2Proof.Machine

namespace Sys2Proof.Machine

variable {R : AccountRule} {q : Prop} {s t : State}

/-! R76, R78: what changes a loop keeps its counts in range. -/

theorem failed_counts {v : LoopLine} (h : v.counts) : v.failed.counts := by
  obtain ⟨hf, hp⟩ := h
  unfold LoopLine.failed
  dsimp only
  repeat' split
  · exact ⟨hf, hp⟩
  · exact ⟨Nat.min_le_left _ _, hp⟩
  · exact ⟨Nat.min_le_left _ _, le_refl _⟩
  · exact ⟨Nat.min_le_left _ _, hp⟩

theorem answered_counts {v : LoopLine} (h : v.counts) : v.answered.counts := by
  unfold LoopLine.answered
  split
  · exact h
  · exact ⟨Nat.zero_le _, h.2⟩

theorem probed_counts {v : LoopLine} (h : v.counts) : v.probed.counts := by
  unfold LoopLine.probed
  split
  · exact h
  · exact ⟨h.1, le_refl _⟩

theorem countDown_counts {v : LoopLine} (h : v.counts) : v.countDown.counts := by
  unfold LoopLine.countDown
  split
  · exact ⟨h.1, (Nat.sub_le _ _).trans h.2⟩
  · exact h

theorem afterTest_counts (pass : Bool) {v : LoopLine} (h : v.counts) : (v.afterTest pass).counts := by
  unfold LoopLine.afterTest
  split
  · exact ⟨Nat.zero_le _, h.2⟩
  · exact ⟨by simp, le_refl _⟩

namespace State.Meets

/-! ### Station Poller -/

/-- Of the Poller the counters are those of its loops. -/
theorem withPoller (h : s.Meets R q) {p : Poller} (hp : p.loops = s.poller.loops := by rfl) :
    State.Meets R q { s with poller := p } := h.congr rfl rfl hp rfl rfl rfl rfl

theorem setStationState (h : s.Meets R q) (st : Station) (v : StationState) : (s.setStationState st v).Meets R q := by
  have h1 : State.Meets R q { s with poller := { s.poller with states := upd s.poller.states st v } } := h.withPoller
  unfold State.setStationState
  dsimp only
  split
  · exact (h1.report _ _ _ _).report _ _ _ _
  · exact ((h1.report _ _ _ _).report _ _ _ _).evaluateLost

theorem takeOutcome (h : s.Meets R q) (st : Station) {o : SecondOutcome} (ho : o.inRange) : (s.takeOutcome st o).Meets R q := by
  unfold State.takeOutcome
  split
  · exact h
  · exact (h.storeOutcome st ho).setStationState _ _

theorem loopLine (h : s.Meets R q) (hq : q) (l : Loop) : (s.loopLine l).counts := (h.2 hq).1 (loopIx l)

theorem setLoop (h : s.Meets R q) (l : Loop) {v : LoopLine} (hv : q → v.counts) : (s.setLoop l v).Meets R q := by
  refine ⟨h.1, fun hq => ?_⟩
  obtain ⟨hp, hrest⟩ := h.2 hq
  refine ⟨fun i => ?_, hrest⟩
  rw [setLoop_poller_loops, upd_get]
  split
  · exact hv hq
  · exact hp i

theorem modLoop (h : s.Meets R q) (l : Loop) {f : LoopLine → LoopLine} (hf : ∀ v : LoopLine, v.counts → (f v).counts) :
    (s.modLoop l f).Meets R q := (h.setLoop l fun hq => hf _ (h.loopLine hq l)).report _ _ _ _

theorem putPoll (h : s.Meets R q) (l : Loop) (addr : Nat) : (s.putPoll l addr).1.Meets R q := by
  unfold State.putPoll
  dsimp only
  split
  · exact h
  · exact h.setLoop l fun hq => h.loopLine hq l

theorem sendAttempt (h : s.Meets R q) (e : Exchange) : (s.sendAttempt e).Meets R q := (h.putPoll _ _).withPoller

theorem beginExchange (h : s.Meets R q) (st : Station) (e : StationEntry) : (s.beginExchange st e).Meets R q := h.sendAttempt _

theorem retry (h : s.Meets R q) (e : Exchange) : (s.retry e).Meets R q := h.sendAttempt _

theorem beginProbe (h : s.Meets R q) : s.beginProbe.Meets R q := by
  unfold State.beginProbe
  split
  · exact (h.putPoll _ _).withPoller
  · exact h.withPoller

theorem endProbe (h : s.Meets R q) (p : Probe) {f : LoopLine → LoopLine} (hf : ∀ v : LoopLine, v.counts → (f v).counts) :
    (s.endProbe p f).Meets R q := by
  have h1 : State.Meets R q { s with poller := { s.poller with probe := none } } := h.withPoller
  exact (h1.modLoop p.loop fun v hv => probed_counts (hf v hv)).beginProbe

theorem abandonProbe (h : s.Meets R q) : s.abandonProbe.Meets R q := by
  unfold State.abandonProbe
  split
  · exact (h.setLoop _ fun hq => probed_counts (h.loopLine hq _)).withPoller
  · exact h.withPoller

theorem countProbes (h : s.Meets R q) : s.countProbes.Meets R q := by
  have h1 := h.setLoop .a fun hq => countDown_counts (h.loopLine hq .a)
  exact h1.setLoop .b fun hq => countDown_counts (h1.loopLine hq .b)

theorem takeProbes (h : s.Meets R q) : s.takeProbes.Meets R q := beginProbe h.withPoller

theorem closeRound (h : s.Meets R q) : s.closeRound.Meets R q := by
  have h1 : State.Meets R q { s with poller := { s.poller with roundOpen := false, exch := none, todo := [] } } := h.withPoller
  exact h1.advanceRest.ambientClosure.driveGain.countProbes

theorem closeByLastOutcome (h : s.Meets R q) : s.closeByLastOutcome.Meets R q := h.closeRound.takeProbes

theorem handMissing (h : s.Meets R q) (sts : List Station) : (s.handMissing sts).Meets R q :=
  foldl_preserves (State.Meets R q) _ (fun _ st ht => ht.takeOutcome st missing_inRange) sts s h

theorem closeByDeadline (h : s.Meets R q) : s.closeByDeadline.Meets R q := by
  have h1 : State.Meets R q { s with poller := { s.poller with exch := none, todo := [] } } := h.withPoller
  unfold State.closeByDeadline
  dsimp only
  split
  · exact (h1.handMissing _).closeRound.post _ _ _
  · exact (h1.handMissing _).closeRound

theorem proceed (h : s.Meets R q) : s.proceed.Meets R q := by
  unfold State.proceed
  split
  · exact beginExchange h.withPoller _ _
  · exact h.closeByLastOutcome

theorem settle (h : s.Meets R q) (e : Exchange) : (s.settle e).Meets R q := h.withPoller

theorem endExchange (h : s.Meets R q) (e : Exchange) {o : SecondOutcome} (ho : o.inRange) : (s.endExchange e o).Meets R q :=
  ((h.settle e).takeOutcome e.station ho).proceed

theorem failAttempt (h : s.Meets R q) (e : Exchange) : (s.failAttempt e).Meets R q := by
  have h1 := h.modLoop e.loop fun v hv => failed_counts hv
  unfold State.failAttempt
  dsimp only
  split
  · exact h1.retry e
  · exact h1.endExchange e missing_inRange

theorem openRound (h : s.Meets R q) : s.openRound.Meets R q := proceed (h.congr rfl rfl rfl rfl rfl rfl rfl)

theorem pollerSecond (h : s.Meets R q) : s.pollerSecond.Meets R q := by
  unfold State.pollerSecond
  dsimp only
  split
  · exact h.closeByDeadline.abandonProbe.openRound
  · exact h.abandonProbe.openRound

theorem completeTest (h : s.Meets R q) (t : LoopTest) : (s.completeTest t).Meets R q := by
  have h1 : State.Meets R q { s with poller := { s.poller with test := none } } := h.withPoller
  exact (h1.complete _ _).modLoop t.loop fun v hv => afterTest_counts _ hv

theorem endTestFrame (h : s.Meets R q) (t : LoopTest) (b : Bool) : (s.endTestFrame t b).Meets R q := by
  unfold State.endTestFrame
  dsimp only
  split
  · exact h.completeTest _
  · exact h.withPoller

theorem frameAtExchange (h : s.Meets R q) (l : Loop) (e : Exchange) {kind : ReplyKind} (hk : ∀ o, kind = .valid o → o.inRange) :
    (s.frameAtExchange l e kind).Meets R q := by
  have hvalid : ∀ o, kind = .valid o → State.Meets R q ((s.modLoop l LoopLine.answered).endExchange e o) := fun o ho =>
    (h.modLoop l fun v hv => answered_counts hv).endExchange e (hk o ho)
  unfold State.frameAtExchange
  split
  · split
    · split
      · exact hvalid _ rfl
      · split
        · exact h.failAttempt e
        · exact h
      · exact h.failAttempt e
    · exact h
  · split
    · split
      · exact hvalid _ rfl
      · exact h
      · exact h
    · exact h

theorem frameAtProbe (h : s.Meets R q) (l : Loop) (p : Probe) (kind : ReplyKind) : (s.frameAtProbe l p kind).Meets R q := by
  unfold State.frameAtProbe
  split
  · split
    · exact h.endProbe p fun v hv => answered_counts hv
    · split
      · exact h.endProbe p fun v hv => failed_counts hv
      · exact h
    · exact h.endProbe p fun v hv => failed_counts hv
  · exact h

theorem loopFrame (h : s.Meets R q) (l : Loop) (bytes : List Byte) : (s.loopFrame l bytes).Meets R q := by
  unfold State.loopFrame
  split
  · split
    · exact h.endTestFrame _ _
    · exact h
  · split
    · exact h
    · split
      · exact h.frameAtExchange l _ fun o ho => judge_inRange ho
      · exact h.frameAtProbe l _ _
      · exact h

theorem replyExpiry (h : s.Meets R q) (l : Loop) (b : Bool) : (s.replyExpiry l b).Meets R q := by
  unfold State.replyExpiry
  split
  · split
    · split
      · exact h.withPoller
      · exact h.failAttempt _
    · exact h
  · split
    · split
      · exact h.withPoller
      · exact h.endProbe _ fun v hv => failed_counts hv
    · exact h
  · exact h

theorem attemptSent (h : s.Meets R q) (e : Exchange) : (s.attemptSent e).Meets R q := by
  unfold State.attemptSent
  split
  · exact h.sendAttempt e
  · exact h.withPoller
  · exact h
  · exact h

theorem probeSent (h : s.Meets R q) (b : Probe) : (s.probeSent b).Meets R q := by
  unfold State.probeSent
  split
  · split
    · exact (h.putPoll _ _).withPoller
    · exact beginProbe h.withPoller
  · exact h.withPoller
  · exact h
  · exact h

theorem pollSent (h : s.Meets R q) (l : Loop) : (s.pollSent l).Meets R q := by
  have h1 := h.setLoop l (v := { s.loopLine l with tx := none }) fun hq => h.loopLine hq l
  unfold State.pollSent
  dsimp only
  repeat' split
  · exact h
  · exact h1.attemptSent _
  · exact h1
  · exact h1.probeSent _
  · exact h1
  · exact h1

theorem testExpiry (h : s.Meets R q) : s.testExpiry.Meets R q := by
  unfold State.testExpiry
  repeat' split
  · exact h.endTestFrame _ _
  · exact h
  · exact h

theorem stopTest (h : s.Meets R q) : s.stopTest.Meets R q := by
  unfold State.stopTest
  split
  · next t _ =>
    have h1 : State.Meets R q { s with poller := { s.poller with test := none } } := h.withPoller
    exact (h1.complete _ _).modLoop t.loop fun v hv => ⟨by simp, hv.2⟩
  · exact h

theorem stopRound (h : s.Meets R q) : s.stopRound.Meets R q := by
  have h1 : State.Meets R q { s with poller := { s.poller with exch := none, probe := none, probeDue := [], todo := [] } } :=
    h.withPoller
  unfold State.stopRound
  dsimp only
  split
  · have h2 := (h1.handMissing s.poller.unresolved).advanceRest
    generalize State.advanceRest _ = u at h2 ⊢
    exact h2.withPoller
  · exact h1

theorem stopStations (h : s.Meets R q) : s.stopStations.Meets R q := by
  refine forStations_preserves (State.Meets R q) _ (fun st t ht => ?_) _ ⟨fun st => ?_, h.2⟩
  · exact (ht.withPoller.report _ _ _ _).report _ _ _ _
  · dsimp only
    rw [ofFn_get]
    exact R.missing (Nat.zero_le _) (h.1 st)

/-! ### Requests -/

theorem withScanner (h : s.Meets R q) (c : Scanner) : State.Meets R q { s with scanner := c } := h.congr rfl rfl rfl rfl rfl rfl rfl

theorem withBook (h : s.Meets R q) (b : BookStore) : State.Meets R q { s with book := b } := h.congr rfl rfl rfl rfl rfl rfl rfl

theorem exchangeBook (h : s.Meets R q) (b : List BookRecord) : (s.exchangeBook b).Meets R q := evaluateLost (h.withBook _)

theorem setRam (h : s.Meets R q) (m : Memory) : (s.setRam m).Meets R q := h.congr rfl rfl rfl rfl rfl rfl rfl

theorem withClock (h : s.Meets R q) {c : Nat} (hc : c ≤ Config.clockMax) : State.Meets R q { s with clock := c } := by
  refine ⟨h.1, fun hq => ?_⟩
  obtain ⟨hp, hf, hl, hw, -⟩ := h.2 hq
  exact ⟨hp, hf, hl, hw, hc⟩

theorem clockMoved (h : s.Meets R q) (logFirst : Bool) (before : Nat) : (s.clockMoved logFirst before).Meets R q := by
  unfold State.clockMoved
  dsimp only
  repeat' split
  · exact (h.closeMinute _ _).walkerMoved
  · exact h.walkerMoved
  · exact h.walkerMoved.closeMinute _ _
  · exact h.walkerMoved

theorem putEntry (h : s.Meets R q) (st : Station) (e : StationEntry) : (s.putEntry st e).Meets R q :=
  h.congr rfl rfl rfl rfl rfl rfl rfl

theorem disableInRound (h : s.Meets R q) (st : Station) : (s.disableInRound st).Meets R q := by
  unfold State.disableInRound
  repeat' split
  · exact (h.settle _).proceed
  · exact h.withPoller
  · exact h
  · exact h

theorem changeStation (h : s.Meets R q) (st : Station) (e f : StationEntry) : (s.changeStation st e f).Meets R q := by
  have h1 := h.putEntry st f
  unfold State.changeStation
  dsimp only
  repeat' split
  · exact ((h1.disableAccount st).setStationState st _).disableInRound st
  · exact (h1.setStationState st _).prime st
  · exact h1.setStationState st _
  · exact h1

theorem serveSetClock (h : s.Meets R q) (b : Bool) (copy : List Byte) : (Machine.serveSetClock b copy s).1.Meets R q := by
  unfold Machine.serveSetClock
  dsimp only
  repeat' split
  · dsimp only; exact h
  · next hv _ => dsimp only; exact h.withClock (Nat.not_lt.1 hv)
  · next hv _ => dsimp only; exact (h.withClock (Nat.not_lt.1 hv)).clockMoved _ _

theorem serveRestartSchedule (h : s.Meets R q) (copy : List Byte) : (Machine.serveRestartSchedule copy s).1.Meets R q := by
  unfold Machine.serveRestartSchedule
  dsimp only
  split
  · dsimp only; exact h
  · dsimp only; exact h.walkerRestart

theorem serveResumeSchedule (h : s.Meets R q) (holder : Byte) (copy : List Byte) : (Machine.serveResumeSchedule holder copy s).1.Meets R q := by
  unfold Machine.serveResumeSchedule
  dsimp only
  repeat' split
  · dsimp only; exact h
  · dsimp only; exact h.walkerResume _ _
  · dsimp only; exact h

theorem serveSetWatch (h : s.Meets R q) (copy : List Byte) : (Machine.serveSetWatch copy s).1.Meets R q := by
  unfold Machine.serveSetWatch
  dsimp only
  repeat' split
  · dsimp only; exact h
  · dsimp only; exact h
  · next hv =>
    refine ⟨h.1, fun hq => ?_⟩
    obtain ⟨hp, hf, hl, -, hc⟩ := h.2 hq
    exact ⟨hp, hf, hl, Nat.not_lt.1 hv, hc⟩

theorem serveSwapBook (h : s.Meets R q) (copy : List Byte) : (Machine.serveSwapBook copy s).1.Meets R q := by
  unfold Machine.serveSwapBook
  dsimp only
  split
  · dsimp only; exact h
  · cases validateArea s.ram (otherArea s.book.area) with
    | ok b => dsimp only; exact h.exchangeBook b
    | error f => dsimp only; exact h

theorem serveSetFlags (h : s.Meets R q) (copy : List Byte) : (Machine.serveSetFlags copy s).1.Meets R q := by
  unfold Machine.serveSetFlags
  dsimp only
  split
  · dsimp only; exact h
  · dsimp only; exact h.withScanner _

theorem serveHoldStage (h : s.Meets R q) (u : Half) (copy : List Byte) : (Machine.serveHoldStage u copy s).1.Meets R q := by
  unfold Machine.serveHoldStage
  split
  · dsimp only; exact h
  · dsimp only; exact h.changeTerms _

theorem serveReleaseStage (h : s.Meets R q) (u : Half) (copy : List Byte) : (Machine.serveReleaseStage u copy s).1.Meets R q := by
  unfold Machine.serveReleaseStage
  split
  · dsimp only; exact h
  · dsimp only; exact h.changeTerms _

theorem serveMeasureAmbient (h : s.Meets R q) (i : Slot) (copy : List Byte) : (Machine.serveMeasureAmbient i copy s).1.Meets R q := by
  unfold Machine.serveMeasureAmbient
  dsimp only
  repeat' split
  · dsimp only; exact h
  · dsimp only; exact h
  · dsimp only; exact h
  · dsimp only; exact (h.withAmbient _).setAmbientMute true

theorem serveAbortAmbient (h : s.Meets R q) (copy : List Byte) : (Machine.serveAbortAmbient copy s).1.Meets R q := by
  unfold Machine.serveAbortAmbient
  split
  · dsimp only; exact h.abortAmbient
  · dsimp only; exact h

theorem serveSetAmbient (h : s.Meets R q) (copy : List Byte) : (Machine.serveSetAmbient copy s).1.Meets R q := by
  unfold Machine.serveSetAmbient
  repeat' split
  · dsimp only; exact h
  · dsimp only; exact h
  · dsimp only; exact h.withBook _

theorem serveLoopTest (h : s.Meets R q) (i : Slot) (copy : List Byte) : (Machine.serveLoopTest i copy s).1.Meets R q := by
  unfold Machine.serveLoopTest
  repeat' split
  · dsimp only; exact h
  · dsimp only; exact h
  · dsimp only; exact h
  · dsimp only; exact h
  · next l _ _ _ => dsimp only; exact (h.modLoop l (f := fun v => { v with state := .testing }) fun _ hv => hv).withPoller

theorem serveSetStation (h : s.Meets R q) (copy : List Byte) : (Machine.serveSetStation copy s).1.Meets R q := by
  unfold Machine.serveSetStation
  dsimp only
  repeat' split
  · dsimp only; exact h
  · dsimp only; exact h
  · dsimp only; exact h
  · dsimp only; exact h
  · dsimp only; exact h.changeStation _ _ _

theorem serveReadWindow (h : s.Meets R q) (copy : List Byte) : (Machine.serveReadWindow copy s).1.Meets R q := by
  unfold Machine.serveReadWindow
  split <;> (dsimp only; exact h)

/-- R170: a request served by its owner. -/
theorem serve (h : s.Meets R q) (o : Open) (i : Slot) (copy : List Byte) (k : RequestKind) :
    (Machine.serve o i copy s k).1.Meets R q := by
  cases k with
  | setClock => exact h.serveSetClock _ copy
  | restartSchedule => exact h.serveRestartSchedule copy
  | resumeSchedule => exact h.serveResumeSchedule _ copy
  | setWatch => exact h.serveSetWatch copy
  | swapBook => exact h.serveSwapBook copy
  | setFlags => exact h.serveSetFlags copy
  | holdStage => exact h.serveHoldStage _ copy
  | releaseStage => exact h.serveReleaseStage _ copy
  | measureAmbient => exact h.serveMeasureAmbient i copy
  | abortAmbient => exact h.serveAbortAmbient copy
  | setAmbient => exact h.serveSetAmbient copy
  | loopTest => exact h.serveLoopTest _ copy
  | setStation => exact h.serveSetStation copy
  | readWindow => exact h.serveReadWindow copy

theorem answer (h : s.Meets R q) (i : Slot) (copy : List Byte) (r : Reply) : (s.answer i copy r).Meets R q := h.congr

theorem takeSlot (h : s.Meets R q) (o : Open) (i : Slot) (p : Scan) : (s.takeSlot o i p).Meets R q := by
  have hmark : ∀ (u : State) (copy : List Byte) (r : Reply), u.Meets R q → (u.markInFlight i copy r).Meets R q := by
    intro u copy r hu
    unfold State.markInFlight
    split
    · exact hu.withScanner _
    · exact hu
  unfold State.takeSlot
  dsimp only
  refine hmark _ _ _ (State.Meets.answer ?_ _ _ _)
  split
  · exact (h.withScanner _).serve o i _ _
  · exact h.withScanner _

theorem takeKind (h : s.Meets R q) (o : Open) (want : SlotKind → Bool) (i : Slot) : (s.takeKind o want i).Meets R q := by
  unfold State.takeKind
  repeat' split
  · exact h.takeSlot _ _ _
  · exact h
  · exact h

theorem runScan (h : s.Meets R q) (o : Open) (n : Nat) : (s.runScan o n).Meets R q := by
  induction n generalizing s with
  | zero => exact h
  | succ n ih =>
    unfold State.runScan
    repeat' split
    · exact ih (h.takeSlot _ _ _)
    · exact h.withScanner _
    · exact h

theorem scanToEnd (h : s.Meets R q) (o : Open) : (s.scanToEnd o).Meets R q := by
  unfold State.scanToEnd
  repeat' split
  · exact h.runScan _ _
  · exact h
  · exact h

/-! ### Run Control -/

theorem withRun (h : s.Meets R q) (r : RunControl) : State.Meets R q { s with run := r } := h.congr rfl rfl rfl rfl rfl rfl rfl

theorem startWriters (h : s.Meets R q) (c : StartConfig) : (s.startWriters c).Meets R q := h.congr

theorem takeConfig (h : s.Meets R q) (d : StartData) : (s.takeConfig d).Meets R q := by
  have h1 : State.Meets R q
      { s with
        poller := { s.poller with copy := some d.copy, timing := some d.config.timing }
        gain := { s.gain with cfg := some d.config.gain } } := h.congr rfl rfl rfl rfl rfl rfl rfl
  exact (h1.startLinks d.config.link).startWriters d.config

theorem withPrimed (h : s.Meets R q) (b : Bool) : State.Meets R q { s with acc := { s.acc with primePending := b } } :=
  h.congr rfl rfl rfl rfl rfl rfl rfl

theorem startPriming (h : s.Meets R q) : s.startPriming.Meets R q := by
  refine withPrimed (forStations_preserves (State.Meets R q) _ (fun st t ht => ?_) s h) false
  split
  · exact ht.prime st
  · exact ht

theorem startWalker (h : s.Meets R q) {d : StartData} (hh : 60 ≤ d.head.w ∧ d.head.w ≤ 900) (hw : d.config.watch ≤ 255) :
    (s.startWalker d).Meets R q := by
  have h1 : State.Meets R q { s with walker := { s.walker with watch := d.config.watch } } := by
    refine ⟨h.1, fun hq => ?_⟩
    obtain ⟨hp, hf, hl, -, hc⟩ := h.2 hq
    exact ⟨hp, hf, hl, hw, hc⟩
  exact h1.endPass _ _ _ (passAtStart_sound _ _ hh)

end State.Meets

/-- R128, R162: what start checks that pass have read: the clamped watch index and a valid head entry. -/
theorem startCheck_sound {m : Memory} {d : StartData} (h : startCheck m = .ok d) :
    (60 ≤ d.head.w ∧ d.head.w ≤ 900) ∧ d.config.watch ≤ 255 := by
  have hwatch : (readConfig m).watch ≤ 255 := by
    simp only [readConfig]
    split <;> omega
  have hhead : ∀ count head, readHead m = some (count, head) → 60 ≤ head.w ∧ head.w ≤ 900 := by
    intro count head hr
    unfold readHead at hr
    repeat' split at hr
    all_goals cases hr
    next hv => exact validate_window hv
  unfold startCheck at h
  dsimp only at h
  repeat' split at h
  all_goals cases h
  next hr => exact ⟨hhead _ _ hr, hwatch⟩

namespace State.Meets

theorem startStations (h : s.Meets R q) : s.startStations.Meets R q := h.withPoller

theorem succeedStart (h : s.Meets R q) {d : StartData} (hd : startCheck s.ram = .ok d) : (s.succeedStart d).Meets R q := by
  obtain ⟨hh, hw⟩ := startCheck_sound hd
  have h1 := ((h.takeConfig d).withBook { (s.takeConfig d).book with working := some d.book, area := d.area }).startGain
  have h2 := ((h1.startWalker hh hw).startPriming).startStations
  unfold State.succeedStart
  dsimp only
  generalize State.startStations _ = u at h2 ⊢
  have h3 := (h2.withRun { u.run with state := .running, error := .none }).post
  exact withScanner (h3 _ _ _) _

theorem failStart (h : s.Meets R q) (e : StartError) : (s.failStart e).Meets R q := by
  have h1 := (h.withRun { s.run with state := .idle, error := e, runBit := false }).post
  exact withScanner (h1 _ _ _) _

theorem completeStart (h : s.Meets R q) : s.completeStart.Meets R q := by
  unfold State.completeStart
  repeat' split
  · next hd => exact h.succeedStart hd
  · exact h.failStart _
  · exact h

theorem stopAmbient (h : s.Meets R q) : s.stopAmbient.Meets R q := by
  unfold State.stopAmbient
  split
  · exact h.abortAmbient
  · exact h

theorem stopMinute (h : s.Meets R q) : s.stopMinute.Meets R q := h.congr

theorem stopGain (h : s.Meets R q) : s.stopGain.Meets R q := h.congr

theorem stopShow (h : s.Meets R q) : s.stopShow.Meets R q := by
  have h1 := h.withRun { s.run with state := .idle, runBit := false }
  have h2 := h1.stopAmbient.stopRound.stopTest.stopMinute.stopStations.stopGain.stopLinks
  unfold State.stopShow
  dsimp only
  generalize State.stopLinks _ = u at h2 ⊢
  exact (State.Meets.congr (t := { u with walker := u.walker.stop }) h2 rfl rfl rfl rfl rfl rfl rfl).post _ _ _

theorem resetRound (h : s.Meets R q) : s.resetRound.Meets R q := by
  unfold State.resetRound
  split
  · exact h.advanceRest
  · exact h

/-- R79, R105, R118: the counters after a reset are 0, the probe interval counts 10. -/
theorem softReset (h : s.Meets R q) : s.softReset.Meets R q := by
  have h1 := h.resetRound
  unfold State.softReset
  dsimp only
  generalize s.resetRound = u at h1 ⊢
  refine post ⟨fun st => ?_, fun hq => ?_⟩ _ _ _
  · simp only [Accumulator.softReset]
    rw [ofFn_get]
    exact R.softReset (h1.1 st)
  · obtain ⟨-, -, -, -, hc⟩ := h1.2 hq
    refine ⟨fun i => ?_, fun k => ?_, Nat.zero_le _, Nat.zero_le _, hc⟩
    · simp only [Poller.softReset]
      rw [ofFn_get]
      exact ⟨Nat.zero_le _, le_refl _⟩
    · dsimp only
      rw [ofFn_get]
      exact Nat.zero_le _

theorem assertReset : s.assertReset.Meets R q := by
  refine ⟨fun st => ?_, fun _ => ⟨fun i => ?_, fun k => ?_, Nat.zero_le _, Nat.zero_le _, Nat.zero_le _⟩⟩
  · simp only [State.assertReset, State.reset, Accumulator.reset]
    rw [replicate_get]
    exact R.reset
  · simp only [State.assertReset, State.reset, Poller.reset]
    rw [replicate_get]
    exact ⟨Nat.zero_le _, le_refl _⟩
  · simp only [State.assertReset, State.reset]
    rw [replicate_get]
    exact Nat.zero_le _

theorem releaseReset (h : s.Meets R q) : s.releaseReset.Meets R q := by
  unfold State.releaseReset
  split
  · exact h.congr rfl rfl rfl rfl rfl rfl rfl
  · exact h

theorem endClearing (h : s.Meets R q) : s.endClearing.Meets R q := by
  unfold State.endClearing
  split
  · exact (h.withRun _).post _ _ _
  · exact h

/-! ### The bus and the timebase -/

theorem writeMute (h : s.Meets R q) (v : Bool) : (s.writeMute v).Meets R q := by
  unfold State.writeMute
  split
  · exact h
  · exact (h.withRun _).changeTerms _

theorem writeIntEnable (h : s.Meets R q) (v : Bool) : (s.writeIntEnable v).Meets R q := by
  unfold State.writeIntEnable
  split
  · exact h
  · exact h.congr

theorem writeRun (h : s.Meets R q) (v : Bool) : (s.writeRun v).Meets R q := by
  unfold State.writeRun
  repeat' split
  · exact h
  · exact (h.withRun _).post _ _ _
  · exact h.stopShow
  · exact h.failStart _
  · exact h.withRun _

theorem writeControl (h : s.Meets R q) (v : Nat) : (s.writeControl v).Meets R q := by
  unfold State.writeControl
  split
  · exact h.softReset
  · exact ((h.writeMute _).writeIntEnable _).writeRun _

theorem withNotices (h : s.Meets R q) (n : NoticeWriter) : State.Meets R q { s with notices := n } :=
  h.congr rfl rfl rfl rfl rfl rfl rfl

theorem withRegs (h : s.Meets R q) (r : Registers) : State.Meets R q { s with regs := r } := h.congr rfl rfl rfl rfl rfl rfl rfl

theorem writeRegister (h : s.Meets R q) (reg : Reg) (high : Half) : (s.writeRegister reg high).Meets R q := by
  unfold State.writeRegister
  dsimp only
  split
  · exact h
  · cases reg <;> dsimp only
    case control => exact h.writeControl _
    case status =>
      unfold State.writeStatus
      split
      · exact h.withNotices _
      · exact h
    case attention =>
      unfold State.writeAttention
      split
      · exact h
      · exact h.withScanner _
      · exact h.withScanner _
      · exact h.withScanner _
    case noticeTail =>
      unfold State.writeNoticeTail
      split
      · exact h.congr
      · exact h
    all_goals exact h

theorem hostAccess (h : s.Meets R q) (word : BitVec 15) (access : RamAccess) : (s.hostAccess word access).Meets R q := by
  unfold State.hostAccess
  cases access with
  | read => exact h.withRegs _
  | write data low high =>
    dsimp only
    split
    · exact h
    · exact h.setRam _

theorem secondWork (h : s.Meets R q) (wrapped : Bool) (w : SecondWork) : (s.secondWork wrapped w).Meets R q := by
  cases w <;> simp only [State.secondWork]
  case accumulator =>
    split
    · exact h.advanceAll
    · exact h
  case poller =>
    split
    · exact h.pollerSecond
    · exact h
  case linkSecond => exact h.clearCharged
  case linkOffer =>
    split
    · exact h.offerStopCeiling
    · exact h
  case scanner =>
    split
    · exact h.withScanner _
    · exact h
  case walker =>
    split
    · exact h.walkerSecond.walkerMoved
    · exact h.walkerSecond
  case minute =>
    split
    · exact h.closeMinute _ _
    · exact h
  case occupancy => exact h.readOccupancy

/-- R106: the clock after a second is in its range. -/
theorem clockAfter_le (c : Nat) : clockAfter c ≤ Config.clockMax := by
  unfold clockAfter
  split <;> omega

theorem secondEvent (h : s.Meets R q) (order : List SecondWork) : (s.secondEvent order).Meets R q := by
  unfold State.secondEvent
  split
  · exact h
  · exact foldl_preserves (State.Meets R q) _ (fun _ w ht => ht.secondWork _ w) _ _ (h.withClock (clockAfter_le _))

theorem roundDeadline (h : s.Meets R q) : s.roundDeadline.Meets R q := by
  unfold State.roundDeadline
  split
  · exact h.closeByDeadline
  · exact h

/-- Every command keeps the rule of the accounts and the ranges of the counters. -/
theorem exec (h : s.Meets R q) (c : Instr) (ht : Machine.exec c s = .next t) : t.Meets R q := by
  cases c <;> cases ht
  case hardwareReset => exact assertReset
  case resetRelease => exact h.releaseReset
  case ramClearComplete => exact h.endClearing
  case secondEvent => exact h.secondEvent _
  case startChecksComplete => exact h.completeStart
  case start | stop | softReset | immediateMute | intEnable | noticeOverrunClear | attention | noticeTailWrite
      | registerWriteIgnored => exact h.writeRegister _ _
  case registerLowHalfWrite =>
    unfold State.writeLowHalf
    split
    · exact h
    · exact h.withRegs _
  case hostRamAccess => exact h.hostAccess _ _
  case requestScan => exact h.scanToEnd _
  case setClock | restartSchedule | resumeSchedule | setWatch | swapBook | setFlags | holdStage | releaseStage
      | measureAmbient | abortAmbient | setAmbient | loopTest | setStation | readWindow | requestBadKind =>
    exact h.takeKind _ _ _
  case pollSent => exact h.pollSent _
  case replyTimeout => exact h.replyExpiry _ _
  case loopFrameReceived => exact h.loopFrame _ _
  case loopFrameSilence => exact h.loopFrame _ _
  case roundDeadline => exact h.roundDeadline
  case ceilingSent => exact h.modLink _ fun l hl => by simpa using hl
  case ackTimeout => exact h.ackExpiry _ _
  case linkFrameReceived => exact h.judgeAck _ _
  case linkFrameSilence => exact h.judgeAck _ _
  case testFrameTimeout => exact h.testExpiry
  case registerLowHalfRead => exact h.withRegs _
  case ramContentDisturbed => exact h.setRam _

theorem step (h : s.Meets R q) (ht : Machine.step s = .next t) : t.Meets R q := by
  unfold Machine.step at ht
  split at ht
  · cases ht; exact h
  · next c rest _ => exact exec (h.congr (t := { s with pending := rest }) rfl rfl rfl rfl rfl rfl rfl) c ht

end State.Meets

/-! ### The two invariants -/

theorem sampleAt_mem {ring : List Sample} (h : ring ≠ []) : sampleAt ring 0 ∈ ring := by
  cases ring with
  | nil => exact absurd rfl h
  | cons x xs => exact List.mem_cons_self

/-- R1, R12: what an exact account admits has counts for energies. -/
theorem admits_inRange {a : Account} {w : Nat} (h : a.exact w) {x : Sample} (hx : a.admits x) : x.inRange := by
  obtain ⟨hlen, hrange, -⟩ := h
  rcases hx with hx | ⟨hA, hC⟩
  · exact hx
  · have hne : a.ring ≠ [] := fun e => by rw [e] at hlen; cases hlen
    obtain ⟨rA, rC⟩ := hrange _ (sampleAt_mem hne)
    exact ⟨hA ▸ rA, hC ▸ rC⟩

/-- R16, R18: N and S exact over a window length in range, as a rule of one account. -/
def exactRule : AccountRule where
  holds w a := (60 ≤ w ∧ w ≤ 900) ∧ a.exact w
  advance h hx := ⟨h.1, exact_advance h.1.1 h.1.2 h.2 (admits_inRange h.2 hx)⟩
  resum h1 h2 h := ⟨⟨h1, h2⟩, exact_resum _ h.2⟩
  prime _ _ _ _ h := ⟨h.1, exact_prime h.1.2 h.2 _ _ _ _⟩
  missing _ h := h
  compute _ _ _ _ _ _ _ h := h
  demand _ _ h := h
  disable h := h
  softReset h := h
  reset := by
    refine ⟨by decide, List.length_replicate, fun x hx => ?_, by decide +kernel, by decide +kernel, by decide +kernel⟩
    rw [List.eq_of_mem_replicate hx]
    exact State.Meets.unwritten_inRange

theorem exact_iff (s : State) : s.acc.exact ↔ s.Meets exactRule False :=
  ⟨fun h => ⟨fun st => ⟨h.1, h.2 st⟩, False.elim⟩, fun h => ⟨(h.1 0).1, fun st => (h.1 st).2⟩⟩

/-- Settles O6. -/
theorem stepKeepsWindowSums : Obligations.StepKeepsWindowSums := fun s t h ht =>
  (exact_iff t).2 (((exact_iff s).1 h).step ht)

/-- R33: a band demand is a scale. -/
theorem bandDemand_le (allow m : Nat) : bandDemand allow m ≤ Config.fullScale := by
  unfold bandDemand
  split
  · exact le_refl _
  · exact Nat.min_le_left _ _

/-- R36: a stage demand is a scale. -/
theorem stageDemand_le (qs cr : Nat) : stageDemand qs cr ≤ Config.fullScale := by
  unfold stageDemand
  split
  · exact le_refl _
  · exact Nat.min_le_left _ _

/-- R13, R33, R34, R36: the missing count and the demands in range, as a rule of one account. -/
def rangeRule : AccountRule where
  holds _ a := a.missing ≤ Config.missingMax ∧ a.demandsInRange
  advance h _ := h
  resum {w1 w2 a} _ _ h := by
    obtain ⟨n, sA, sC, e⟩ := resum_frame a w1 w2
    rw [e]
    exact h
  prime _ _ _ _ h := h
  missing hn h := ⟨hn, h.2⟩
  compute _ _ _ _ _ _ _ h :=
    ⟨h.1, bandDemand_le _ _, bandDemand_le _ _, (Nat.min_le_left _ _).trans (bandDemand_le _ _), h.2.2.2.2⟩
  demand _ _ h := ⟨h.1, h.2.1, h.2.2.1, h.2.2.2.1, stageDemand_le _ _⟩
  disable h := ⟨Nat.zero_le _, h.2⟩
  softReset _ := ⟨Nat.zero_le _, le_refl _, le_refl _, le_refl _, le_refl _⟩
  reset := ⟨Nat.zero_le _, le_refl _, le_refl _, le_refl _, le_refl _⟩

theorem numbersInRange_iff (s : State) : s.NumbersInRange ↔ s.Meets rangeRule True := by
  constructor
  · rintro ⟨⟨hp, hf, hm, hl, hw⟩, hd, hc⟩
    exact ⟨fun st => ⟨hm st, hd st⟩, fun _ => ⟨hp, hf, hl, hw, hc⟩⟩
  · rintro ⟨ha, hq⟩
    obtain ⟨hp, hf, hl, hw, hc⟩ := hq trivial
    exact ⟨⟨hp, hf, fun st => (ha st).1, hl, hw⟩, fun st => (ha st).2, hc⟩

/-- Settles O12. -/
theorem stepKeepsNumbersInRange : Obligations.StepKeepsNumbersInRange := fun s t h ht =>
  (numbersInRange_iff t).2 (((numbersInRange_iff s).1 h).step ht)

end Sys2Proof.Machine

/-! SUPPORT. The values after the RESET input is asserted (R159). -/

namespace Sys2Proof.Machine

/-- Settles O14: the state after the input is `State.reset` but for the RAM, the data on the bus and the queue. -/
theorem hardwareResetValues : Obligations.HardwareResetValues := by
  intro s
  have hl : ∀ l : Loop, (s.assertReset.loopLine l) = LoopLine.reset := fun l => by
    unfold State.loopLine
    exact replicate_get _ _
  refine ⟨s.assertReset, rfl, ⟨rfl, rfl, rfl, rfl, rfl⟩, rfl, rfl, rfl, rfl, rfl, ⟨rfl, rfl, rfl, rfl, rfl, rfl⟩, ?_, ?_, rfl, ?_, ?_,
    rfl, rfl, rfl, ?_, rfl, rfl, rfl, ?_, rfl, rfl, rfl, rfl, ⟨rfl, rfl, rfl, rfl, rfl⟩, ?_, rfl, rfl, rfl, rfl, rfl⟩
  · exact fun k => replicate_get _ _
  · intro st
    have ha : s.assertReset.acc.accts[st] = Account.reset := replicate_get _ _
    rw [ha]
    exact ⟨rfl, rfl, rfl, rfl, rfl, rfl, rfl, rfl, replicate_get _ _⟩
  · exact fun k => replicate_get GainStage.reset _
  · intro l
    rw [hl]
    exact ⟨rfl, rfl, rfl⟩
  · intro k
    have hk : s.assertReset.links.lines[k] = Link.reset := replicate_get _ _
    rw [hk]
    exact ⟨rfl, rfl, rfl, rfl, rfl, rfl, rfl, rfl⟩
  · exact fun st => ⟨replicate_get _ _, replicate_get _ _⟩
  · intro i
    refine ⟨replicate_get _ _, fun sub => ?_⟩
    have hi : s.assertReset.notices.conds[i] = Vector.replicate 16 false := replicate_get _ _
    rw [hi]
    exact replicate_get _ _

end Sys2Proof.Machine

/-! SUPPORT. Folds over lists without repetition, station by station, stage by stage and piece by piece of a second event: what
one step alone changes is changed once. -/

namespace Sys2Proof.Machine

/-! ### Folds in which one step changes a component -/

section

variable {σ α β : Type} (P : σ → Prop) (f : σ → α → σ)

/-- A component that only the step `a` changes: after the fold it is as that step left it, in a state that it took. -/
theorem foldl_once (hP : ∀ s b, P s → P (f s b)) (g : σ → β) (a : α) (hne : ∀ s b, P s → b ≠ a → g (f s b) = g s)
    {l : List α} (hn : l.Nodup) (ha : a ∈ l) {s : σ} (hs : P s) : ∃ u, P u ∧ g u = g s ∧ g (l.foldl f s) = g (f u a) := by
  have hrest : ∀ (m : List α) (t : σ), P t → a ∉ m → g (m.foldl f t) = g t := by
    intro m
    induction m with
    | nil => intros; rfl
    | cons b m ih =>
      intro t ht hm
      rw [List.mem_cons, not_or] at hm
      rw [List.foldl_cons, ih _ (hP t b ht) hm.2, hne t b ht (Ne.symm hm.1)]
  induction l generalizing s with
  | nil => cases ha
  | cons b l ih =>
    obtain ⟨hb, hl⟩ := List.nodup_cons.1 hn
    rcases List.mem_cons.1 ha with rfl | ha
    · exact ⟨s, hs, rfl, hrest l _ (hP s a hs) hb⟩
    · have hba : b ≠ a := fun e => hb (e ▸ ha)
      obtain ⟨u, hu, hg, hl⟩ := ih hl ha (hP s b hs)
      exact ⟨u, hu, hg.trans (hne s b hs hba), hl⟩

/-- A family of components, each changed by its own step alone, is changed in every place. -/
theorem foldl_each (hP : ∀ s b, P s → P (f s b)) (g : σ → α → β) (F : α → β → β) (hsame : ∀ s a, P s → g (f s a) a = F a (g s a))
    (hne : ∀ s b a, P s → b ≠ a → g (f s b) a = g s a) {l : List α} (hn : l.Nodup) {s : σ} (hs : P s) {a : α} (ha : a ∈ l) :
    g (l.foldl f s) a = F a (g s a) := by
  obtain ⟨u, hu, hg, hl⟩ := foldl_once P f hP (fun s => g s a) a (fun s b hs hb => hne s b a hs hb) hn ha hs
  exact hl.trans ((hsame u a hu).trans (congrArg (F a) hg))

end

theorem allStations_nodup : allStations.Nodup := by decide

theorem allStages_nodup : allStages.Nodup := by decide

/-- `foldl_each` over the stations. -/
theorem forStations_each {β : Type} (P : State → Prop) {f : Station → State → State} (hP : ∀ st s, P s → P (f st s))
    (g : State → Station → β) (F : Station → β → β) (hsame : ∀ st s, P s → g (f st s) st = F st (g s st))
    (hne : ∀ st o s, P s → o ≠ st → g (f st s) o = g s o) {s : State} (hs : P s) (st : Station) :
    g (forStations f s) st = F st (g s st) :=
  foldl_each P (fun t st => f st t) (fun s b h => hP b s h) g F (fun s a h => hsame a s h)
    (fun s b a h hb => hne b a s h (Ne.symm hb)) allStations_nodup hs (mem_allStations st)

/-- `foldl_each` over the stages. -/
theorem forStages_each {β : Type} (P : State → Prop) {f : Stage → State → State} (hP : ∀ k s, P s → P (f k s))
    (g : State → Stage → β) (F : Stage → β → β) (hsame : ∀ k s, P s → g (f k s) k = F k (g s k))
    (hne : ∀ k j s, P s → j ≠ k → g (f k s) j = g s j) {s : State} (hs : P s) (k : Stage) :
    g (forStages f s) k = F k (g s k) :=
  foldl_each P (fun t k => f k t) (fun s b h => hP b s h) g F (fun s a h => hsame a s h)
    (fun s b a h hb => hne b a s h (Ne.symm hb)) allStages_nodup hs (mem_allStages k)

/-! ### Links -/

@[simp] theorem modLink_line (k j : Stage) (f : Link → Link) (s : State) :
    (s.modLink k f).links.lines[j] = if j = k then f s.links.lines[k] else s.links.lines[j] :=
  upd_get _ _ _ _

/-- Each stage's link changed by its own function, which may read a part that the changes keep. -/
theorem forStages_modLink {γ : Type} (p : State → γ) (hp : ∀ k f s, p (State.modLink k f s) = p s) (F : γ → Stage → Link → Link)
    (s : State) (k : Stage) :
    (forStages (fun k t => t.modLink k (F (p t) k)) s).links.lines[k] = F (p s) k s.links.lines[k] := by
  refine forStages_each (fun t => p t = p s) (fun k t ht => (hp _ _ _).trans ht) (fun t k => t.links.lines[k]) (F (p s))
    (fun k t ht => ?_) (fun k j t _ hj => ?_) rfl k
  · rw [modLink_line, if_pos rfl, ht]
  · rw [modLink_line, if_neg hj]

@[simp] theorem modLink_cfg (k : Stage) (f : Link → Link) (s : State) : (s.modLink k f).links.cfg = s.links.cfg := rfl

/-! ### Advances with no outcome -/

/-- R14: what an advance with no outcome makes of the accumulator. -/
theorem advanceSilent_acc (st : Station) (s : State) :
    (s.advanceSilent st).acc =
      { s.acc with
        accts := upd s.acc.accts st (s.acc.accts[st].advance s.acc.w .unwritten)
        advanced := upd s.acc.advanced st true } := by
  unfold State.advanceSilent
  rw [(logSample_keeps _ _ _).2.2.2.2.1]
  rfl

/-- The accumulator apart from the accounts and the marks of the round. -/
def Accumulator.frame (c : Accumulator) : Nat × Fin 8 × Nat × Nat × Bool × Vector Bool 4 × Ambient :=
  (c.w, c.set, c.h, c.k, c.primePending, c.ctrl, c.ambient)

theorem frame_iff {c d : Accumulator} : c.frame = d.frame ↔
    c.w = d.w ∧ c.set = d.set ∧ c.h = d.h ∧ c.k = d.k ∧ c.primePending = d.primePending ∧ c.ctrl = d.ctrl ∧
      c.ambient = d.ambient := by
  simp [Accumulator.frame]

@[simp] theorem advanceSilent_frame (st : Station) (s : State) : (s.advanceSilent st).acc.frame = s.acc.frame := by
  rw [advanceSilent_acc]; rfl

@[simp] theorem advanceAll_frame (s : State) : s.advanceAll.acc.frame = s.acc.frame :=
  forStations_keeps (fun t => t.acc.frame) _ (fun st t => advanceSilent_frame st t) s

/-- R5: every station advances. -/
theorem advanceAll_account (s : State) (st : Station) :
    s.advanceAll.acc.accts[st] = s.acc.accts[st].advance s.acc.w .unwritten := by
  refine forStations_each (fun t => t.acc.w = s.acc.w) (fun st t ht => ?_) (fun t st => t.acc.accts[st])
    (fun _ a => a.advance s.acc.w .unwritten) (fun st t ht => ?_) (fun st o t _ ho => ?_) rfl st
  · exact (frame_iff.1 (advanceSilent_frame st t)).1.trans ht
  · rw [advanceSilent_acc]
    dsimp only
    rw [upd_same, ht]
  · rw [advanceSilent_acc]
    exact upd_other _ _ _ _ ho

/-- The log apart from the minute accumulators. -/
def LogWriter.frame (g : LogWriter) : BitVec 10 × LogMode × Bool × Bool × Nat × Bool :=
  (g.writeIdx, g.mode, g.full, g.half, g.folded, g.minuteOpen)

theorem logFrame_iff {g h : LogWriter} : g.frame = h.frame ↔
    g.writeIdx = h.writeIdx ∧ g.mode = h.mode ∧ g.full = h.full ∧ g.half = h.half ∧ g.folded = h.folded ∧
      g.minuteOpen = h.minuteOpen := by
  simp [LogWriter.frame]

@[simp] theorem logSample_logFrame (st : Station) (x : Sample) (s : State) : (s.logSample st x).log.frame = s.log.frame := by
  unfold State.logSample
  split <;> rfl

@[simp] theorem advanceSilent_logFrame (st : Station) (s : State) : (s.advanceSilent st).log.frame = s.log.frame := by
  unfold State.advanceSilent
  rw [logSample_logFrame]
  rfl

@[simp] theorem advanceAll_logFrame (s : State) : s.advanceAll.log.frame = s.log.frame :=
  forStations_keeps (fun t => t.log.frame) _ (fun st t => advanceSilent_logFrame st t) s

@[simp] theorem advanceAll_keeps (s : State) :
    s.advanceAll.run = s.run ∧ s.advanceAll.clock = s.clock ∧ s.advanceAll.regs = s.regs ∧ s.advanceAll.ram = s.ram ∧
      s.advanceAll.gain = s.gain ∧ s.advanceAll.poller = s.poller ∧ s.advanceAll.links = s.links ∧
      s.advanceAll.walker = s.walker ∧ s.advanceAll.book = s.book ∧ s.advanceAll.scanner = s.scanner ∧
      s.advanceAll.notices = s.notices ∧ s.advanceAll.pending = s.pending := by
  unfold State.advanceAll
  refine ⟨forStations_keeps State.run _ ?_ _, forStations_keeps State.clock _ ?_ _, forStations_keeps State.regs _ ?_ _,
    forStations_keeps State.ram _ ?_ _, forStations_keeps State.gain _ ?_ _, forStations_keeps State.poller _ ?_ _,
    forStations_keeps State.links _ ?_ _, forStations_keeps State.walker _ ?_ _, forStations_keeps State.book _ ?_ _,
    forStations_keeps State.scanner _ ?_ _, forStations_keeps State.notices _ ?_ _, forStations_keeps State.pending _ ?_ _⟩ <;>
  simp

@[simp] theorem readOccupancy_writeIdx (s : State) : s.readOccupancy.log.writeIdx = s.log.writeIdx := by
  simp [State.readOccupancy]

/-! ### The order of a second event -/

/-- A piece of work added to those listed, once. -/
def addOnce (done : List SecondWork) (w : SecondWork) : List SecondWork := if done.contains w then done else done ++ [w]

theorem fullOrder_eq (order : List SecondWork) : fullOrder order = secondOrder.foldl addOnce (order.foldl addOnce []) := rfl

theorem addOnce_nodup {done : List SecondWork} (h : done.Nodup) (w : SecondWork) : (addOnce done w).Nodup := by
  unfold addOnce
  split
  · exact h
  · next hw =>
    rw [List.contains_iff_mem] at hw
    rw [← List.concat_eq_append]
    exact List.Nodup.concat hw h

theorem mem_addOnce {done : List SecondWork} {w x : SecondWork} : x ∈ addOnce done w ↔ x ∈ done ∨ x = w := by
  unfold addOnce
  split
  · next hw =>
    rw [List.contains_iff_mem] at hw
    exact ⟨.inl, fun h => h.elim id fun e => e ▸ hw⟩
  · rw [List.mem_append, List.mem_singleton]

theorem mem_foldl_addOnce {l done : List SecondWork} {x : SecondWork} : x ∈ l.foldl addOnce done ↔ x ∈ done ∨ x ∈ l := by
  induction l generalizing done with
  | nil => simp
  | cons w l ih => rw [List.foldl_cons, ih, mem_addOnce, List.mem_cons, or_assoc]

/-- Every piece of work of a second event is done, and once. -/
theorem fullOrder_nodup (order : List SecondWork) : (fullOrder order).Nodup :=
  foldl_preserves List.Nodup addOnce (fun _ w h => addOnce_nodup h w) _ _
    (foldl_preserves List.Nodup addOnce (fun _ w h => addOnce_nodup h w) _ _ List.nodup_nil)

theorem mem_fullOrder (order : List SecondWork) (w : SecondWork) : w ∈ fullOrder order := by
  rw [fullOrder_eq, mem_foldl_addOnce]
  exact .inr (by cases w <;> decide)

/-- The piece named first is done first. -/
theorem fullOrder_cons (w : SecondWork) (order : List SecondWork) : ∃ rest, fullOrder (w :: order) = w :: rest := by
  have key : ∀ (l done : List SecondWork), ∃ rest, l.foldl addOnce (w :: done) = w :: rest := by
    intro l
    induction l with
    | nil => exact fun done => ⟨done, rfl⟩
    | cons x l ih =>
      intro done
      rw [List.foldl_cons]
      unfold addOnce
      split
      · exact ih done
      · exact ih (done ++ [x])
  obtain ⟨rest, h⟩ := key order []
  obtain ⟨rest', h'⟩ := key secondOrder rest
  exact ⟨rest', by rw [fullOrder_eq]; exact (congrArg (secondOrder.foldl addOnce) h).trans h'⟩

/-! ### A second event with no show running -/

theorem walkerSecond_of_ne {s : State} (h : s.walker.state ≠ .waiting) : s.walkerSecond = s := if_neg h

theorem walkerMoved_unstarted {s : State} (h : s.walker.state = .unstarted) : s.walkerMoved = s := by
  unfold State.walkerMoved
  rw [if_neg (by simp [h])]

/-- What every piece of work of a second event keeps while no show runs. -/
structure IdleKept (s t : State) : Prop where
  run : t.run = s.run
  clock : t.clock = s.clock
  regs : t.regs = s.regs
  gain : t.gain = s.gain
  poller : t.poller = s.poller
  walker : t.walker = s.walker
  book : t.book = s.book
  cfg : t.links.cfg = s.links.cfg
  frame : t.acc.frame = s.acc.frame
  writeIdx : t.log.writeIdx = s.log.writeIdx

theorem IdleKept.refl (s : State) : IdleKept s s := ⟨rfl, rfl, rfl, rfl, rfl, rfl, rfl, rfl, rfl, rfl⟩

theorem IdleKept.trans {s t u : State} (h : IdleKept s t) (g : IdleKept t u) : IdleKept s u :=
  ⟨g.run.trans h.run, g.clock.trans h.clock, g.regs.trans h.regs, g.gain.trans h.gain, g.poller.trans h.poller,
    g.walker.trans h.walker, g.book.trans h.book, g.cfg.trans h.cfg, g.frame.trans h.frame, g.writeIdx.trans h.writeIdx⟩

theorem offerStopCeiling_cfg (s : State) : s.offerStopCeiling.links.cfg = s.links.cfg := by
  unfold State.offerStopCeiling
  split
  · exact forStages_keeps (fun t => t.links.cfg) _ (fun _ _ => rfl) s
  · rfl

/-- R102: the offer of the stop ceiling at each link. -/
theorem offerStopCeiling_some {s : State} {c : LinkConfig} (h : s.links.cfg = some c) (k : Stage) :
    s.offerStopCeiling.links.lines[k] = Link.offer k c.stopCeiling s.links.lines[k] := by
  unfold State.offerStopCeiling
  rw [h]
  exact forStages_modLink (fun _ => ()) (fun _ _ _ => rfl) (fun _ k => Link.offer k c.stopCeiling) s k

theorem offerStopCeiling_none {s : State} (h : s.links.cfg = none) : s.offerStopCeiling = s := by
  unfold State.offerStopCeiling
  rw [h]

section

variable {s : State} (hrun : s.run.state = .idle ∨ s.run.state = .starting) (hw : s.walker.state = .unstarted) (wrapped : Bool)

include hrun in
theorem notRunning : s.run.state ≠ .running := by rcases hrun with h | h <;> simp [h]

include hw in
/-- R118: the walker takes nothing of a second event while it is UNSTARTED. -/
theorem secondWork_walker : s.secondWork wrapped .walker = s := by
  have h1 : s.walkerSecond = s := walkerSecond_of_ne (by simp [hw])
  simp only [State.secondWork]
  split
  · rw [h1, walkerMoved_unstarted hw]
  · exact h1

include hrun in
theorem secondWork_accumulator : s.secondWork wrapped .accumulator = s.advanceAll := if_pos hrun

include hrun in
theorem secondWork_poller : s.secondWork wrapped .poller = s := if_neg (notRunning hrun)

include hrun in
theorem secondWork_minute : s.secondWork wrapped .minute = s := if_neg fun h => notRunning hrun h.1

include hrun hw in
theorem secondWork_idleKept (w : SecondWork) : IdleKept s (s.secondWork wrapped w) := by
  cases w with
  | accumulator =>
    rw [secondWork_accumulator hrun]
    refine ⟨?_, ?_, ?_, ?_, ?_, ?_, ?_, ?_, advanceAll_frame s, (logFrame_iff.1 (advanceAll_logFrame s)).1⟩ <;> simp
  | poller => rw [secondWork_poller hrun]; exact .refl s
  | linkSecond => exact ⟨rfl, rfl, rfl, rfl, rfl, rfl, rfl, rfl, rfl, rfl⟩
  | linkOffer =>
    simp only [State.secondWork]
    split
    · exact ⟨by simp, by simp, by simp, by simp, by simp, by simp, by simp, offerStopCeiling_cfg s, by simp, by simp⟩
    · exact .refl s
  | scanner =>
    simp only [State.secondWork]
    split
    · exact ⟨rfl, rfl, rfl, rfl, rfl, rfl, rfl, rfl, rfl, rfl⟩
    · exact .refl s
  | walker => rw [secondWork_walker hw]; exact .refl s
  | minute => rw [secondWork_minute hrun]; exact .refl s
  | occupancy => constructor <;> simp [State.secondWork]

end

/-- A link but for its charged flag, which a second event clears (R95). -/
def Link.uncharged (l : Link) : Link := { l with charged := false }

theorem uncharged_offer (k : Stage) (v : Nat) (l : Link) : (l.offer k v).uncharged = l.uncharged.offer k v := by
  unfold Link.offer
  by_cases h : l.state = .disabled
  · rw [if_pos h, if_pos (show l.uncharged.state = .disabled from h)]
  · rw [if_neg h, if_neg (show ¬ l.uncharged.state = .disabled from h)]
    by_cases ho : l.out.isSome = true
    · rw [if_pos ho, if_pos (show l.uncharged.out.isSome = true from ho)]; rfl
    · rw [if_neg ho, if_neg (show ¬ l.uncharged.out.isSome = true from ho)]; rfl

theorem offer_charged (k : Stage) (v : Nat) (l : Link) : (l.offer k v).charged = l.charged := by
  unfold Link.offer
  repeat' split
  all_goals rfl

theorem uncharged_eq {l : Link} (h : l.charged = false) : l.uncharged = l := by
  cases l
  cases h
  rfl

section

variable {s : State} (hrun : s.run.state = .idle ∨ s.run.state = .starting) (hw : s.walker.state = .unstarted) (wrapped : Bool)
  {l : List SecondWork} (hn : l.Nodup)

/-- The offer that a second event makes at a stage: in IDLE, when the controller holds configuration values. -/
def State.idleOffer (s : State) (k : Stage) (l : Link) : Link :=
  if s.run.state = .idle then (s.links.cfg.map fun c => Link.offer k c.stopCeiling l).getD l else l

theorem secondWork_offer (u : State) (k : Stage) :
    (u.secondWork wrapped .linkOffer).links.lines[k] = u.idleOffer k u.links.lines[k] := by
  have hwork : u.secondWork wrapped .linkOffer = if u.run.state = .idle then u.offerStopCeiling else u := rfl
  rw [hwork]
  unfold State.idleOffer
  split
  · cases h : u.links.cfg with
    | some c => exact offerStopCeiling_some h k
    | none => rw [offerStopCeiling_none h]; rfl
  · rfl

theorem clearCharged_line (u : State) (k : Stage) : u.clearCharged.links.lines[k] = u.links.lines[k].uncharged := by
  unfold State.clearCharged
  exact ofFn_get _ _

theorem idleOffer_uncharged (u : State) (k : Stage) (l : Link) : (u.idleOffer k l).uncharged = u.idleOffer k l.uncharged := by
  unfold State.idleOffer
  split
  · cases u.links.cfg with
    | none => rfl
    | some c => exact uncharged_offer _ _ _
  · rfl

theorem idleOffer_charged (u : State) (k : Stage) (l : Link) : (u.idleOffer k l).charged = l.charged := by
  unfold State.idleOffer
  split
  · cases u.links.cfg with
    | none => rfl
    | some c => exact offer_charged _ _ _
  · rfl

include hrun hw in
/-- Of the work of a second event in IDLE and STARTING only the pieces of the links touch a link. -/
theorem secondWork_idle_links {w : SecondWork} (h1 : w ≠ .linkSecond) (h2 : w ≠ .linkOffer) :
    (s.secondWork wrapped w).links = s.links := by
  cases w with
  | accumulator => rw [secondWork_accumulator hrun]; simp
  | poller => rw [secondWork_poller hrun]
  | linkSecond => exact absurd rfl h1
  | linkOffer => exact absurd rfl h2
  | scanner => simp only [State.secondWork]; split <;> rfl
  | walker => rw [secondWork_walker hw]
  | minute => rw [secondWork_minute hrun]
  | occupancy => simp [State.secondWork]

include hrun hw in
/-- The accounts are the accumulator's alone. -/
theorem secondWork_idle_accts {w : SecondWork} (h : w ≠ .accumulator) : (s.secondWork wrapped w).acc = s.acc := by
  cases w with
  | accumulator => exact absurd rfl h
  | poller => rw [secondWork_poller hrun]
  | linkSecond => rfl
  | linkOffer => simp only [State.secondWork]; split <;> simp
  | scanner => simp only [State.secondWork]; split <;> rfl
  | walker => rw [secondWork_walker hw]
  | minute => rw [secondWork_minute hrun]
  | occupancy => simp [State.secondWork]

include hrun hw in
/-- The scan is the scanner's alone. -/
theorem secondWork_idle_scanner {w : SecondWork} (h : w ≠ .scanner) : (s.secondWork wrapped w).scanner = s.scanner := by
  cases w with
  | accumulator => rw [secondWork_accumulator hrun]; simp
  | poller => rw [secondWork_poller hrun]
  | linkSecond => rfl
  | linkOffer => simp only [State.secondWork]; split <;> simp
  | scanner => exact absurd rfl h
  | walker => rw [secondWork_walker hw]
  | minute => rw [secondWork_minute hrun]
  | occupancy => simp [State.secondWork]

include hrun hw

/-- In whatever order, each piece of work finds what it reads as the second event found it. -/
theorem idle_step (u : State) (w : SecondWork) (hu : IdleKept s u) : IdleKept s (u.secondWork wrapped w) := by
  refine hu.trans (secondWork_idleKept ?_ ?_ wrapped w)
  · rw [hu.run]; exact hrun
  · rw [hu.walker]; exact hw

include hn

/-- R5: the accounts after a second event in IDLE or STARTING. -/
theorem idle_account (hl : SecondWork.accumulator ∈ l) (st : Station) :
    (l.foldl (State.secondWork wrapped) s).acc.accts[st] = s.acc.accts[st].advance s.acc.w .unwritten := by
  obtain ⟨u, hu, hg, he⟩ := foldl_once (IdleKept s) (State.secondWork wrapped) (idle_step hrun hw wrapped)
    (fun t => t.acc.accts[st]) .accumulator
    (fun u w hu hne => by rw [secondWork_idle_accts (hu.run ▸ hrun) (hu.walker ▸ hw) wrapped hne]) hn hl (.refl s)
  rw [he, secondWork_accumulator (hu.run ▸ hrun), advanceAll_account, (frame_iff.1 hu.frame).1]
  exact congrArg (Account.advance s.acc.w .unwritten) hg

/-- R95, R102: a link after a second event in IDLE or STARTING: the charged flag is cleared and the offer made, in either order. -/
theorem idle_link (hs : SecondWork.linkSecond ∈ l) (ho : SecondWork.linkOffer ∈ l) (k : Stage) :
    (l.foldl (State.secondWork wrapped) s).links.lines[k] = s.idleOffer k s.links.lines[k].uncharged := by
  have hkeep : ∀ u w, IdleKept s u → w ≠ .linkSecond → w ≠ .linkOffer → (u.secondWork wrapped w).links = u.links :=
    fun u w hu => secondWork_idle_links (hu.run ▸ hrun) (hu.walker ▸ hw) wrapped
  have hoffer : ∀ u v, IdleKept s u → u.idleOffer k v = s.idleOffer k v := fun u v hu => by
    unfold State.idleOffer
    rw [hu.run, hu.cfg]
  obtain ⟨u, hu, -, hcharged⟩ := foldl_once (IdleKept s) (State.secondWork wrapped) (idle_step hrun hw wrapped)
    (fun t => t.links.lines[k].charged) .linkSecond
    (fun u w hu hne => by
      by_cases h : w = .linkOffer
      · subst h; rw [secondWork_offer, idleOffer_charged]
      · rw [hkeep u w hu hne h]) hn hs (.refl s)
  obtain ⟨v, hv, hg, hrest⟩ := foldl_once (IdleKept s) (State.secondWork wrapped) (idle_step hrun hw wrapped)
    (fun t => t.links.lines[k].uncharged) .linkOffer
    (fun u w hu hne => by
      by_cases h : w = .linkSecond
      · subst h; exact (congrArg Link.uncharged (clearCharged_line u k)).trans rfl
      · rw [hkeep u w hu h hne]) hn ho (.refl s)
  have hfalse : (l.foldl (State.secondWork wrapped) s).links.lines[k].charged = false :=
    hcharged.trans (congrArg Link.charged (clearCharged_line u k))
  rw [← uncharged_eq hfalse]
  refine hrest.trans ?_
  rw [secondWork_offer, idleOffer_uncharged, hoffer v _ hv]
  exact congrArg (s.idleOffer k) hg

/-- R161, R169: the scan after a second event in IDLE or STARTING. -/
theorem idle_scanner (hl : SecondWork.scanner ∈ l) :
    (l.foldl (State.secondWork wrapped) s).scanner = if s.run.state = .idle then s.scanner.beginScan else s.scanner := by
  obtain ⟨u, hu, hg, he⟩ := foldl_once (IdleKept s) (State.secondWork wrapped) (idle_step hrun hw wrapped)
    State.scanner .scanner
    (fun u w hu hne => secondWork_idle_scanner (hu.run ▸ hrun) (hu.walker ▸ hw) wrapped hne) hn hl (.refl s)
  rw [he, ← hg]
  simp only [State.secondWork, hu.run, notRunning hrun, or_false]
  split <;> rfl

omit hn in
theorem idle_kept : IdleKept s (l.foldl (State.secondWork wrapped) s) :=
  foldl_preserves (IdleKept s) _ (idle_step hrun hw wrapped) l s (.refl s)

end

/-- R106 to R108: the clock after a second. -/
theorem clockAfter_eq (c : Nat) : clockAfter c = if c < 2147483647 then c + 1 else 0 := by
  have : Config.clockMax = 2147483647 := rfl
  unfold clockAfter
  split_ifs <;> omega

theorem exec_secondEvent (order : List SecondWork) {s : State} (h : s.run.state ≠ .resetBusy) :
    exec (.secondEvent order) s =
      .next ((fullOrder order).foldl (State.secondWork (decide (Config.clockMax ≤ s.clock))) { s with clock := clockAfter s.clock }) :=
  congrArg Host.Outcome.next (if_neg h)

/-- O16 over the state with the clock already moved. -/
theorem second_idle_outcome {now : State} (hrun : now.run.state = .idle ∨ now.run.state = .starting)
    (hw : now.walker.state = .unstarted) (wrapped : Bool) (order : List SecondWork) :
    let u := (fullOrder order).foldl (State.secondWork wrapped) now
    IdleKept now u ∧ (∀ st : Station, u.acc.accts[st] = now.acc.accts[st].advance now.acc.w .unwritten) ∧
      (∀ k : Stage, u.links.lines[k] = now.idleOffer k now.links.lines[k].uncharged) ∧
      u.scanner = if now.run.state = .idle then now.scanner.beginScan else now.scanner :=
  have hn := fullOrder_nodup order
  have hm := mem_fullOrder order
  ⟨idle_kept hrun hw wrapped, idle_account hrun hw wrapped hn (hm _), idle_link hrun hw wrapped hn (hm _) (hm _),
    idle_scanner hrun hw wrapped hn (hm _)⟩

/-- Settles O16. -/
theorem secondEventInIdle : Obligations.SecondEventInIdle := by
  intro s order
  refine ⟨fun h => congrArg Host.Outcome.next (if_pos h), fun hrun hw => ?_⟩
  have hbusy : s.run.state ≠ .resetBusy := by rcases hrun with h | h <;> simp [h]
  rw [exec_secondEvent order hbusy]
  generalize decide (Config.clockMax ≤ s.clock) = wrapped
  have h := second_idle_outcome (now := { s with clock := clockAfter s.clock }) hrun hw wrapped order
  dsimp only at h
  generalize (fullOrder order).foldl (State.secondWork wrapped) _ = u at h ⊢
  obtain ⟨hk, hacct, hlink, hscan⟩ := h
  obtain ⟨hw', hset, hh, hkf, -, -, hamb⟩ := frame_iff.1 hk.frame
  refine ⟨_, rfl, hk.clock.trans (clockAfter_eq _), hacct, fun k => ?_, ?_, hk.run, hk.regs, hk.gain, hk.poller, hk.walker, hk.book,
    hk.cfg, hw', hset, hh, hkf, hamb, hk.writeIdx⟩
  · rw [hlink k]
    unfold State.idleOffer
    rcases hrun with h | h <;> simp only [h]
    · cases s.links.cfg <;> rfl
    · rfl
  · rw [hscan]
    rcases hrun with h | h <;> simp [h]

end Sys2Proof.Machine

/-! SUPPORT. What a round does to the accumulator, the Gain Allocator, the links, the conditions and the Poller, one equation for
each operation: the storing of an outcome (R9 to R15, R28), a station's state (R72, R74), the driving closure (R40, R49, R50) and the
closure of a round (R69, R78). -/

namespace Sys2Proof.Machine

/-! ### Conditions -/

@[simp] theorem post_conds (kind subject detail : Nat) (s : State) : (s.post kind subject detail).notices.conds = s.notices.conds := by
  unfold State.post
  split <;> rfl

@[simp] theorem post_edges (kind subject detail : Nat) (s : State) : (s.post kind subject detail).notices.edges = s.notices.edges := by
  unfold State.post
  split <;> rfl

/-- R180: a report sets its own subject's place of its own class, and no other. -/
theorem report_cond (cls : CondClass) (sub : Fin 16) (now : Bool) (v : Nat) (s : State) (i : Fin 9) (x : Fin 16) :
    (s.report cls sub now v).notices.conds[i][x] = if i = cls.ix ∧ x = sub then now else s.notices.conds[i][x] := by
  have hset : (upd s.notices.conds cls.ix (upd s.notices.conds[cls.ix] sub now))[i][x] =
      if i = cls.ix ∧ x = sub then now else s.notices.conds[i][x] := by
    by_cases hi : i = cls.ix
    · subst hi
      rw [upd_same, upd_get]
      simp
    · rw [upd_other _ _ _ _ hi, if_neg fun h => hi h.1]
  unfold State.report
  split
  · next h =>
    split
    · next hx => obtain ⟨rfl, rfl⟩ := hx; exact h
    · rfl
  · dsimp only
    split
    · simpa only [post_conds] using hset
    · exact hset

theorem report_cond_same (cls : CondClass) (sub : Fin 16) (now : Bool) (v : Nat) (s : State) :
    (s.report cls sub now v).notices.conds[cls.ix][sub] = now := by
  rw [report_cond, if_pos ⟨rfl, rfl⟩]

theorem report_cond_class {cls : CondClass} {i : Fin 9} (h : i ≠ cls.ix) (sub : Fin 16) (now : Bool) (v : Nat) (s : State)
    (x : Fin 16) : (s.report cls sub now v).notices.conds[i][x] = s.notices.conds[i][x] := by
  rw [report_cond, if_neg fun hx => h hx.1]

@[simp] theorem report_edges (cls : CondClass) (sub : Fin 16) (now : Bool) (v : Nat) (s : State) :
    (s.report cls sub now v).notices.edges = s.notices.edges := by
  unfold State.report
  split
  · rfl
  · dsimp only
    split
    · rw [post_edges]
    · rfl

/-- A class that is neither STAGE_LIMITING nor STAGE_MUTED. -/
def offStage (i : Fin 9) : Prop := i ≠ CondClass.ix .stageLimiting ∧ i ≠ CondClass.ix .stageMuted

theorem stageConditions_other {i : Fin 9} (h : offStage i) (x : Fin 16) (k : Stage) (s : State) :
    (s.stageConditions k).notices.conds[i][x] = s.notices.conds[i][x] := by
  unfold State.stageConditions
  dsimp only
  split
  · rw [report_cond_class h.2, report_cond_class h.1]
  · rw [report_cond_class h.1, report_cond_class h.2]

/-- R55: the stage conditions after they are taken for a stage. -/
theorem stageConditions_same (k : Stage) (s : State) :
    (s.stageConditions k).notices.conds[CondClass.ix .stageLimiting][stageSubject k] =
        decide (s.gain.stages[k].applied < Config.fullScale) ∧
      (s.stageConditions k).notices.conds[CondClass.ix .stageMuted][stageSubject k] =
        decide (s.gain.stages[k].applied = 0) := by
  have hne : CondClass.ix .stageLimiting ≠ CondClass.ix .stageMuted := by decide
  unfold State.stageConditions
  dsimp only
  split
  · next h => rw [report_cond_class hne, report_cond_same, report_cond_same, decide_eq_true h]; exact ⟨rfl, rfl⟩
  · next h => rw [report_cond_class hne.symm, report_cond_same, report_cond_same, decide_eq_false h]; exact ⟨rfl, rfl⟩

theorem stageSubject_inj {j k : Stage} (h : j ≠ k) : stageSubject j ≠ stageSubject k := fun e =>
  h (Fin.ext (Fin.mk.inj e))

theorem stageConditions_subject {x : Fin 16} {k : Stage} (h : x ≠ stageSubject k) (i : Fin 9) (s : State) :
    (s.stageConditions k).notices.conds[i][x] = s.notices.conds[i][x] := by
  unfold State.stageConditions
  dsimp only
  split <;> rw [report_cond, if_neg fun hx => h hx.2, report_cond, if_neg fun hx => h hx.2]

theorem clipStage_other {i : Fin 9} (h : offStage i) (x : Fin 16) (k : Stage) (s : State) :
    (s.clipStage k).notices.conds[i][x] = s.notices.conds[i][x] := by
  unfold State.clipStage
  dsimp only
  split
  · rw [stageConditions_other h]; simp
  · rfl

theorem changeTerms_other {i : Fin 9} (h : offStage i) (x : Fin 16) (f : Stage → GainStage → GainStage) (s : State) :
    (s.changeTerms f).notices.conds[i][x] = s.notices.conds[i][x] :=
  forStages_keeps (fun t => t.notices.conds[i][x]) _ (fun k t => clipStage_other h x k t)
    { s with gain := { s.gain with stages := Vector.ofFn fun k : Fin 4 => f k s.gain.stages[k] } }

/-! ### Terms that clip nothing -/

theorem clipStage_of_le {k : Stage} {s : State} (h : s.gain.stages[k].applied ≤ s.gain.stages[k].bound) : s.clipStage k = s :=
  if_neg (Nat.not_lt.2 h)

theorem forStages_fixed {f : Stage → State → State} {s : State} (h : ∀ k, f k s = s) : forStages f s = s := by
  rw [forStages_eq, h 0, h 1, h 2, h 3]

/-- R48: a change of terms that leaves every applied ceiling at or below its bound clips nothing. -/
theorem changeTerms_unclipped {f : Stage → GainStage → GainStage} {s : State}
    (h : ∀ k : Stage, (f k s.gain.stages[k]).applied ≤ (f k s.gain.stages[k]).bound) :
    s.changeTerms f = { s with gain := { s.gain with stages := Vector.ofFn fun k : Fin 4 => f k s.gain.stages[k] } } := by
  refine forStages_fixed fun k => clipStage_of_le ?_
  dsimp only
  rw [ofFn_get]
  exact h k

/-- R48: the removal of a stage's ambient-mute term raises no bound above what it was. -/
theorem bound_le_unmuted (g : GainStage) : g.bound ≤ ({ g with ambient := none } : GainStage).bound := by
  refine bound_mono fun x hx => ⟨x, ?_, le_refl x⟩
  simp only [GainStage.terms, List.mem_filterMap, id] at hx ⊢
  obtain ⟨o, ho, hox⟩ := hx
  refine ⟨o, ?_, hox⟩
  simp only [List.mem_cons, List.not_mem_nil, or_false] at ho ⊢
  have hnone : o ≠ none := by simp [hox]
  tauto

theorem setAmbientMute_false {s : State} (h : ceilingsBounded s.gain.stages) :
    s.setAmbientMute false =
      { s with gain := { s.gain with stages := Vector.ofFn fun k : Fin 4 => { s.gain.stages[k] with ambient := none } } } :=
  changeTerms_unclipped fun k => (h k).trans (bound_le_unmuted _)

/-! ### What the soft targets and the terms read -/

theorem bookRecord_congr {s t : State} (hb : t.book.working = s.book.working) (hs : t.acc.set = s.acc.set) (st : Station) :
    t.bookRecord st = s.bookRecord st := by
  unfold State.bookRecord
  rw [hb, hs]

theorem hears_congr {s t : State} (hb : t.book.working = s.book.working) (hs : t.acc.set = s.acc.set)
    (hc : t.gain.cfg = s.gain.cfg) (st : Station) (k : Stage) : t.hears st k = s.hears st k := by
  unfold State.hears
  rw [bookRecord_congr hb hs, hc]

theorem reducibleShare_congr {s t : State} (hb : t.book.working = s.book.working) (hs : t.acc.set = s.acc.set)
    (hc : t.gain.cfg = s.gain.cfg) (ht : t.acc.ctrl = s.acc.ctrl) (st : Station) : t.reducibleShare st = s.reducibleShare st := by
  unfold State.reducibleShare
  rw [bookRecord_congr hb hs, ht]
  simp only [hears_congr hb hs hc]

theorem softTarget_congr {s t : State} (hb : t.book.working = s.book.working) (ha : t.acc = s.acc) (hc : t.gain.cfg = s.gain.cfg)
    (hp : t.poller.states = s.poller.states) (k : Stage) : t.softTarget k = s.softTarget k := by
  unfold State.softTarget State.pulls
  simp only [hears_congr hb (congrArg Accumulator.set ha) hc, ha, hp]

theorem lostHeard_congr {s t : State} (hb : t.book.working = s.book.working) (hs : t.acc.set = s.acc.set)
    (hc : t.gain.cfg = s.gain.cfg) (hp : t.poller.states = s.poller.states) (hy : t.poller.copy = s.poller.copy) (k : Stage) :
    t.lostHeard k = s.lostHeard k := by
  unfold State.lostHeard State.enabledStation
  simp only [hears_congr hb hs hc, hp, hy]

/-! ### The storing of an outcome -/

/-- R28, R36: stage 5 of a station changes that station's demand alone. -/
theorem stageFive_acc (st : Station) (s : State) :
    (s.stageFive st).acc =
      { s.acc with
        accts := upd s.acc.accts st
          { s.acc.accts[st] with
            gs := stageDemand s.acc.accts[st].qs (s.reducibleShare st)
            unctl := decide (s.reducibleShare st = 0) && decide (s.acc.accts[st].qs < Config.fullScale) } } := by
  unfold State.stageFive
  dsimp only
  rw [(report_keeps _ _ _ _ _).2.2.2.1]
  rfl

theorem upd_upd {α : Type} {n : Nat} (v : Vector α n) (i : Fin n) (x y : α) : upd (upd v i x) i y = upd v i y :=
  vector_ext fun j => by
    rw [upd_get, upd_get, upd_get]
    split <;> rfl

/-- R28: the account of a station after the stages 1 to 5 of a counted sample, without a working book as it was. -/
def State.computed (s : State) (st : Station) (x : Sample) (b : Account) : Account :=
  ((s.bookRecord st).map fun r =>
    let v := b.compute x.eA x.eC r s.book.ambA[st] s.book.ambC[st] s.acc.h s.acc.k
    { v with
      gs := stageDemand v.qs (s.reducibleShare st)
      unctl := decide (s.reducibleShare st = 0) && decide (v.qs < Config.fullScale) }).getD b

theorem compute_acc (st : Station) (x : Sample) (s : State) :
    (s.compute st x).acc = { s.acc with accts := upd s.acc.accts st (s.computed st x s.acc.accts[st]) } := by
  unfold State.compute State.computed
  cases s.bookRecord st with
  | none => exact congrArg (fun v => { s.acc with accts := v }) (upd_self _ _).symm
  | some r =>
    dsimp only [Option.map_some, Option.getD_some]
    generalize hb : Account.compute x.eA x.eC r s.book.ambA[st] s.book.ambC[st] s.acc.h s.acc.k s.acc.accts[st] = b
    rw [stageFive_acc, reducibleShare_congr (s := s) (by simp) (by simp) (by simp) (by simp)]
    simp [upd_upd]

/-- R10 to R12: the sample that an outcome stores for a station. -/
def State.sampleOf (s : State) (st : Station) (o : SecondOutcome) : Sample :=
  sampleFor o (missingAfter o.cls s.acc.accts[st].missing) (sampleAt s.acc.accts[st].ring 0)

/-- R9 to R15, R28: the account that an outcome leaves. -/
def State.accountOf (s : State) (st : Station) (o : SecondOutcome) : Account :=
  let x := s.sampleOf st o
  let b := Account.advance s.acc.w x { s.acc.accts[st] with missing := missingAfter o.cls s.acc.accts[st].missing }
  if x.mark.counted then s.computed st x b else b

theorem computed_congr {s t : State} (hb : t.book = s.book) (ha : t.acc.frame = s.acc.frame) (hc : t.gain.cfg = s.gain.cfg)
    (st : Station) (x : Sample) (b : Account) : t.computed st x b = s.computed st x b := by
  obtain ⟨-, hset, hh, hk, -, hctrl, -⟩ := frame_iff.1 ha
  have hw := congrArg BookStore.working hb
  unfold State.computed
  rw [bookRecord_congr hw hset, reducibleShare_congr hw hset hc hctrl, hh, hk, hb]

theorem storeOutcome_acc {s : State} {st : Station} (h : s.acc.advanced[st] = false) (o : SecondOutcome) :
    (s.storeOutcome st o).acc =
      { s.acc with
        accts := upd s.acc.accts st (s.accountOf st o)
        advanced := upd s.acc.advanced st true
        ambient := s.acc.ambient.collect st (s.sampleOf st o) } := by
  have hx : sampleFor o (missingAfter o.cls s.acc.accts[st].missing) (sampleAt s.acc.accts[st].ring 0) = s.sampleOf st o := rfl
  unfold State.storeOutcome State.accountOf
  rw [if_neg (by simp [h])]
  dsimp only
  rw [hx, (logSample_keeps _ _ _).2.2.2.2.1]
  generalize s.sampleOf st o = x
  generalize hm : ({ s.acc.accts[st] with missing := missingAfter o.cls s.acc.accts[st].missing } : Account) = b
  have hadv : ((s.setAccount st b).advance st x).acc =
      { s.acc with accts := upd s.acc.accts st (b.advance s.acc.w x), advanced := upd s.acc.advanced st true } := by
    simp [State.advance, upd_upd]
  split
  · rw [compute_acc, computed_congr (s := s) (by simp) (by rw [hadv]; rfl) (by simp), hadv]
    dsimp only
    rw [upd_upd, upd_same]
  · rw [hadv]

/-- R3, R15: an outcome puts its sample at age 0; the stages of the computation change no ring and no count. -/
theorem accountOf_ring (s : State) (st : Station) (o : SecondOutcome) :
    (s.accountOf st o).ring = (s.sampleOf st o :: s.acc.accts[st].ring).take Config.ringLength ∧
      (s.accountOf st o).missing = missingAfter o.cls s.acc.accts[st].missing := by
  have hc : ∀ x b, (s.computed st x b).ring = b.ring ∧ (s.computed st x b).missing = b.missing := by
    intro x b
    unfold State.computed
    cases s.bookRecord st <;> exact ⟨rfl, rfl⟩
  unfold State.accountOf
  dsimp only
  generalize s.sampleOf st o = x
  generalize hb : Account.advance s.acc.w x
    { s.acc.accts[st] with missing := missingAfter o.cls s.acc.accts[st].missing } = b
  have hr : b.ring = (x :: s.acc.accts[st].ring).take Config.ringLength := by rw [← hb]; rfl
  have hm : b.missing = missingAfter o.cls s.acc.accts[st].missing := by rw [← hb]; rfl
  obtain ⟨hcr, hcm⟩ := hc x b
  split
  · exact ⟨hcr.trans hr, hcm.trans hm⟩
  · exact ⟨hr, hm⟩

/-! ### The advances of the stations that are left -/

/-- R4: what the closure's advance makes of a station: its account, and that it has advanced. -/
def restAdvanced (w : Nat) (p : Account × Bool) : Account × Bool := if p.2 then p else (p.1.advance w .unwritten, true)

theorem advanceSilent_each (st : Station) (s : State) (o : Station) :
    (s.advanceSilent st).acc.accts[o] =
        (if o = st then s.acc.accts[st].advance s.acc.w .unwritten else s.acc.accts[o]) ∧
      (s.advanceSilent st).acc.advanced[o] = if o = st then true else s.acc.advanced[o] := by
  rw [advanceSilent_acc]
  exact ⟨upd_get _ _ _ _, upd_get _ _ _ _⟩

/-- R4: the stations that have not advanced advance with ABSENT. -/
theorem advanceRest_each (s : State) (st : Station) :
    (s.advanceRest.acc.accts[st], s.advanceRest.acc.advanced[st]) = restAdvanced s.acc.w (s.acc.accts[st], s.acc.advanced[st]) := by
  unfold State.advanceRest
  refine forStations_each (fun t => t.acc.w = s.acc.w) (fun st t ht => ?_) (fun t st => (t.acc.accts[st], t.acc.advanced[st]))
    (fun _ => restAdvanced s.acc.w) (fun st t ht => ?_) (fun st o t _ ho => ?_) rfl st
  · split
    · exact ht
    · have h := (frame_iff.1 (advanceSilent_frame st t)).1
      exact h.trans ht
  · unfold restAdvanced
    cases h : t.acc.advanced[st] with
    | true => simp [h]
    | false =>
      obtain ⟨h1, h2⟩ := advanceSilent_each st t st
      simp only [Bool.false_eq_true, if_false]
      exact Prod.ext (by rw [h1, if_pos rfl, ht]) (by rw [h2, if_pos rfl])
  · obtain ⟨h1, h2⟩ := advanceSilent_each st t o
    split
    · rfl
    · exact Prod.ext (by rw [h1, if_neg ho]) (by rw [h2, if_neg ho])

theorem advanceRest_account (s : State) (st : Station) :
    s.advanceRest.acc.accts[st] =
      if s.acc.advanced[st] then s.acc.accts[st] else s.acc.accts[st].advance s.acc.w .unwritten := by
  have h := congrArg Prod.fst (advanceRest_each s st)
  unfold restAdvanced at h
  dsimp only at h
  rw [h]
  split <;> rfl

theorem advanceRest_advanced (s : State) (st : Station) : s.advanceRest.acc.advanced[st] = true := by
  have h := congrArg Prod.snd (advanceRest_each s st)
  unfold restAdvanced at h
  dsimp only at h
  rw [h]
  split
  · next h => exact h
  · rfl

@[simp] theorem advanceRest_frame (s : State) : s.advanceRest.acc.frame = s.acc.frame :=
  forStations_keeps (fun t => t.acc.frame) _ (fun st t => by split <;> simp) s

@[simp] theorem advanceRest_logFrame (s : State) : s.advanceRest.log.frame = s.log.frame :=
  forStations_keeps (fun t => t.log.frame) _ (fun st t => by split <;> simp) s

/-! ### A station's state -/

/-- R74: the state of a station set and its two conditions handed on. -/
def State.noteState (st : Station) (v : StationState) (s : State) : State :=
  ((({ s with poller := { s.poller with states := upd s.poller.states st v } } : State).report .stationStale st (v == .stale)
    s.acc.accts[st].missing).report .stationLost st (v == .lost) s.acc.accts[st].missing)

theorem setStationState_eq (st : Station) (v : StationState) (s : State) :
    s.setStationState st v =
      if (s.poller.states[st] == .lost) = (v == .lost) then s.noteState st v else (s.noteState st v).evaluateLost := rfl

@[simp] theorem noteState_keeps (st : Station) (v : StationState) (s : State) :
    (s.noteState st v).run = s.run ∧ (s.noteState st v).clock = s.clock ∧ (s.noteState st v).regs = s.regs ∧
      (s.noteState st v).acc = s.acc ∧ (s.noteState st v).gain = s.gain ∧ (s.noteState st v).links = s.links ∧
      (s.noteState st v).walker = s.walker ∧ (s.noteState st v).book = s.book ∧ (s.noteState st v).scanner = s.scanner ∧
      (s.noteState st v).log = s.log ∧ (s.noteState st v).pending = s.pending := by
  unfold State.noteState
  simp

theorem noteState_poller (st : Station) (v : StationState) (s : State) :
    (s.noteState st v).poller = { s.poller with states := upd s.poller.states st v } := by
  unfold State.noteState
  simp

theorem noteState_conds (st : Station) (v : StationState) (s : State) :
    (s.noteState st v).notices.conds[CondClass.ix .stationStale][st] = decide (v = .stale) ∧
      (s.noteState st v).notices.conds[CondClass.ix .stationLost][st] = decide (v = .lost) := by
  unfold State.noteState
  rw [report_cond_same, report_cond_class (by decide), report_cond_same]
  exact ⟨rfl, rfl⟩

theorem setStationState_poller (st : Station) (v : StationState) (s : State) :
    (s.setStationState st v).poller = { s.poller with states := upd s.poller.states st v } := by
  rw [setStationState_eq, ← noteState_poller]
  split
  · rfl
  · simp

@[simp] theorem setStationState_cfg (st : Station) (v : StationState) (s : State) :
    (s.setStationState st v).gain.cfg = s.gain.cfg := by
  rw [setStationState_eq]
  unfold State.evaluateLost
  split <;> simp

theorem setStationState_conds (st : Station) (v : StationState) (s : State) :
    (s.setStationState st v).notices.conds[CondClass.ix .stationStale][st] = decide (v = .stale) ∧
      (s.setStationState st v).notices.conds[CondClass.ix .stationLost][st] = decide (v = .lost) := by
  obtain ⟨h1, h2⟩ := noteState_conds st v s
  rw [setStationState_eq]
  unfold State.evaluateLost
  split
  · exact ⟨h1, h2⟩
  · exact ⟨(changeTerms_other (by constructor <;> decide) _ _ _).trans h1,
      (changeTerms_other (by constructor <;> decide) _ _ _).trans h2⟩

theorem evaluateLost_stage {s : State} (hr : s.run.state = .running) (k : Stage) :
    s.evaluateLost.gain.stages[k] =
      let g : GainStage :=
        { s.gain.stages[k] with
          lost := if s.evaluateLost.lostHeard k then s.evaluateLost.gain.cfg.map (fun c => c.lost[k]) else none }
      { g with applied := min g.applied g.bound } := by
  have hh : s.evaluateLost.lostHeard k = s.lostHeard k := by
    unfold State.evaluateLost
    exact lostHeard_congr (by simp) (by simp) (by simp) (by simp) (by simp) k
  have hc : s.evaluateLost.gain.cfg = s.gain.cfg := by unfold State.evaluateLost; simp
  rw [hh, hc]
  unfold State.evaluateLost
  rw [changeTerms_stage]
  dsimp only
  rw [lostTerm_running hr]

/-- R72, R74: the state, its two conditions and the lost-station terms once a station's state is set. -/
theorem setStationState_becomes {s : State} (hr : s.run.state = .running) (st : Station) (v : StationState) :
    s.BecomesState (s.setStationState st v) st v := by
  obtain ⟨h1, h2⟩ := setStationState_conds st v s
  refine ⟨by rw [setStationState_poller]; exact upd_same _ _ _, h1, h2, ?_⟩
  have hg : (s.noteState st v).gain = s.gain := by simp
  have hrun : (s.noteState st v).run.state = .running := by simpa using hr
  have hiff : decide (s.poller.states[st] = .lost) = decide (v = .lost) ↔ (s.poller.states[st] == .lost) = (v == .lost) := Iff.rfl
  rw [setStationState_eq]
  by_cases h : (s.poller.states[st] == .lost) = (v == .lost)
  · rw [if_pos h, if_pos (hiff.2 h)]
    exact hg
  · rw [if_neg h, if_neg fun e => h (hiff.1 e)]
    intro k
    rw [evaluateLost_stage hrun, hg]

/-- What the state of a station says of two states is said of any that agree on what it reads. -/
theorem BecomesState_congr {s t s' t' : State} {st : Station} {v : StationState} (h : s.BecomesState t st v)
    (hs : s'.poller.states[st] = s.poller.states[st]) (hg : s'.gain = s.gain) (hp : t'.poller.states = t.poller.states)
    (hy : t'.poller.copy = t.poller.copy) (hn : t'.notices = t.notices) (hg' : t'.gain = t.gain)
    (hb : t'.book.working = t.book.working) (hset : t'.acc.set = t.acc.set) : s'.BecomesState t' st v := by
  unfold State.BecomesState at h ⊢
  simp only [hs, hg, hp, hn, hg', lostHeard_congr hb hset (congrArg GainAllocator.cfg hg') hp hy]
  exact h

end Sys2Proof.Machine

/-! SUPPORT. The closure of a round (R50, R69, R70, R78, R150), and what it makes of the accounts, the ceilings, the links, the
conditions, the log and the Poller. -/

namespace Sys2Proof.Machine

/-! ### The measurement's part (R150) -/

theorem ambientClosure_acc (s : State) :
    s.ambientClosure.acc = { s.acc with ambient := s.ambientClosure.acc.ambient } := by
  unfold State.ambientClosure State.completeAmbient State.endAmbient
  dsimp only
  repeat' split
  all_goals simp

@[simp] theorem ambientClosure_cfg (s : State) : s.ambientClosure.gain.cfg = s.gain.cfg := by
  unfold State.ambientClosure State.completeAmbient State.setAmbientMute
  dsimp only
  repeat' split
  all_goals simp

@[simp] theorem ambientClosure_working (s : State) : s.ambientClosure.book.working = s.book.working := by
  unfold State.ambientClosure State.completeAmbient
  dsimp only
  repeat' split
  all_goals simp [BookStore.takeAmbient]

/-- A stage with its ambient-mute term replaced. -/
def GainStage.withAmbient (g : GainStage) (v : Option Nat) : GainStage := { g with ambient := v }

/-- R48, R150: the end of a measurement clips nothing: the ambient-mute terms alone change, and no link. -/
theorem completeAmbient_unclipped {s : State} (h : ceilingsBounded s.gain.stages) (m : Ambient) :
    (s.completeAmbient m).links = s.links ∧ (s.completeAmbient m).log = s.log ∧
      ∀ k : Stage, (s.completeAmbient m).gain.stages[k] = s.gain.stages[k].withAmbient none := by
  unfold State.completeAmbient
  dsimp only
  rw [setAmbientMute_false (s := { s with book := s.book.takeAmbient m }) h]
  refine ⟨by simp, by simp, fun k => ?_⟩
  simp only [endAmbient_keeps, complete_keeps]
  exact ofFn_get _ _

theorem ambientClosure_unclipped {s : State} (h : ceilingsBounded s.gain.stages) :
    s.ambientClosure.links = s.links ∧ s.ambientClosure.log = s.log ∧
      (∀ k : Stage, s.ambientClosure.gain.stages[k] =
        s.gain.stages[k].withAmbient s.ambientClosure.gain.stages[k].ambient) ∧
      ceilingsBounded s.ambientClosure.gain.stages := by
  have same : ∀ t : State, t.links = s.links → t.log = s.log → t.gain = s.gain →
      t.links = s.links ∧ t.log = s.log ∧ (∀ k : Stage, t.gain.stages[k] = s.gain.stages[k].withAmbient t.gain.stages[k].ambient) ∧
        ceilingsBounded t.gain.stages := fun t hl hg h0 => ⟨hl, hg, fun k => by rw [h0]; rfl, by rw [h0]; exact h⟩
  unfold State.ambientClosure
  dsimp only
  repeat' split
  · exact same _ rfl rfl rfl
  · exact same _ rfl rfl rfl
  · exact same _ rfl rfl rfl
  · generalize hu : ({ s with acc := { s.acc with ambient := { s.acc.ambient with measure := 0 } } } : State) = u
    have hb : ceilingsBounded u.gain.stages := by rw [← hu]; exact h
    obtain ⟨hl, hg, hs⟩ := completeAmbient_unclipped hb { s.acc.ambient with measure := 0 }
    refine ⟨by rw [hl, ← hu], by rw [hg, ← hu], fun k => ?_, fun k => ?_⟩
    · rw [hs k, ← hu]; rfl
    · rw [hs k]; exact (hb k).trans (bound_le_unmuted _)
  · exact same _ rfl rfl rfl

/-! ### The driving closure (R40, R49, R50) -/

theorem rampAll_stage {s : State} {c : GainConfig} (h : s.gain.cfg = some c) (k : Stage) :
    s.rampAll.gain.stages[k] = s.gain.stages[k].close (s.softTarget k) c.dn c.up := by
  unfold State.rampAll
  rw [h]
  exact ofFn_get _ _

@[simp] theorem rampAll_cfg (s : State) : s.rampAll.gain.cfg = s.gain.cfg := by
  unfold State.rampAll
  split <;> rfl

/-- The offers of a closure. -/
def State.offerAll (s : State) : State := forStages (fun k t => t.modLink k (Link.closureOffer k t.gain.stages[k].applied)) s

theorem driveGain_eq (s : State) : s.driveGain = forStages State.stageConditions s.rampAll.offerAll.logClosure := rfl

@[simp] theorem offerAll_gain (s : State) : s.offerAll.gain = s.gain :=
  forStages_keeps State.gain _ (fun _ _ => rfl) s

@[simp] theorem offerAll_log (s : State) : s.offerAll.log = s.log :=
  forStages_keeps State.log _ (fun _ _ => rfl) s

@[simp] theorem offerAll_notices (s : State) : s.offerAll.notices = s.notices :=
  forStages_keeps State.notices _ (fun _ _ => rfl) s

/-- R91, R101: the offer at each link. -/
theorem offerAll_line (s : State) (k : Stage) :
    s.offerAll.links.lines[k] = s.links.lines[k].closureOffer k s.gain.stages[k].applied :=
  forStages_modLink State.gain (fun _ _ _ => rfl) (fun g k => Link.closureOffer k g.stages[k].applied) s k

@[simp] theorem driveGain_gain (s : State) : s.driveGain.gain = s.rampAll.gain := by
  rw [driveGain_eq, forStages_keeps State.gain _ (fun k t => by simp)]
  simp

theorem driveGain_line (s : State) (k : Stage) :
    s.driveGain.links.lines[k] = s.links.lines[k].closureOffer k s.driveGain.gain.stages[k].applied := by
  have h : s.driveGain.links = s.rampAll.offerAll.links := by
    rw [driveGain_eq, forStages_keeps State.links _ (fun k t => by simp)]
    simp
  rw [h, offerAll_line, driveGain_gain]
  simp

theorem logClosure_frame (s : State) :
    s.logClosure.log.writeIdx = s.log.writeIdx ∧
      s.logClosure.log.folded = if s.log.minuteOpen then s.log.folded + 1 else s.log.folded := by
  have hfold : ∀ (k : Stage) (t : State),
      (forStations (State.foldCeiling k t.gain.stages[k].applied) t).log.frame = t.log.frame := by
    intro k t
    refine forStations_keeps (fun t => t.log.frame) _ (fun st u => ?_) t
    unfold State.foldCeiling
    split <;> rfl
  unfold State.logClosure
  split
  · generalize hu : ({ s with log := { s.log with folded := s.log.folded + 1 } } : State) = u
    have h := forStages_keeps (fun t => t.log.frame) _ hfold u
    obtain ⟨hw, -, -, -, hf, -⟩ := logFrame_iff.1 h
    exact ⟨by rw [hw, ← hu], by rw [hf, ← hu]⟩
  · exact ⟨rfl, rfl⟩

theorem driveGain_log (s : State) :
    s.driveGain.log.writeIdx = s.log.writeIdx ∧
      s.driveGain.log.folded = if s.log.minuteOpen then s.log.folded + 1 else s.log.folded := by
  have h : s.driveGain.log = s.rampAll.offerAll.logClosure.log := by
    rw [driveGain_eq, forStages_keeps State.log _ (fun k t => by simp)]
  have hl : s.rampAll.offerAll.log = s.log := by simp
  obtain ⟨hw, hf⟩ := logClosure_frame s.rampAll.offerAll
  rw [h, hw, hf, hl]
  exact ⟨rfl, rfl⟩

/-- A stage condition that is taken from a stage's own values, taken for every stage. -/
theorem forStages_conditions (s : State) {i : Fin 9} {g : GainStage → Bool}
    (hg : ∀ (k : Stage) (t : State), (t.stageConditions k).notices.conds[i][stageSubject k] = g t.gain.stages[k]) (k : Stage) :
    (forStages State.stageConditions s).notices.conds[i][stageSubject k] = g s.gain.stages[k] := by
  refine forStages_each (fun t => t.gain = s.gain) (fun k t ht => ?_) (fun t k => t.notices.conds[i][stageSubject k])
    (fun k _ => g s.gain.stages[k]) (fun k t ht => ?_) (fun k j t _ hj => ?_) rfl k
  · have h := (stageConditions_keeps k t).2.2.2.2.1
    exact h.trans ht
  · rw [hg, ht]
  · exact stageConditions_subject (stageSubject_inj hj) i t

/-- R55: the stage conditions after a driving closure. -/
theorem driveGain_conds (s : State) (k : Stage) :
    s.driveGain.notices.conds[CondClass.ix .stageLimiting][stageSubject k] =
        decide (s.driveGain.gain.stages[k].applied < Config.fullScale) ∧
      s.driveGain.notices.conds[CondClass.ix .stageMuted][stageSubject k] = decide (s.driveGain.gain.stages[k].applied = 0) := by
  have hg : s.rampAll.offerAll.logClosure.gain = s.driveGain.gain := by simp
  rw [← hg, driveGain_eq]
  generalize s.rampAll.offerAll.logClosure = u
  exact ⟨forStages_conditions u (g := fun g => decide (g.applied < Config.fullScale)) (fun k t => (stageConditions_same k t).1) k,
    forStages_conditions u (g := fun g => decide (g.applied = 0)) (fun k t => (stageConditions_same k t).2) k⟩

/-! ### Probe interval counts (R78) -/

/-- The Poller apart from the loops and the probes. -/
def Poller.round (p : Poller) : Option (Vector StationEntry 16) × Option PollTiming × Vector StationState 16 × Bool × Nat ×
    List Station × List (Station × Nat) × Option Exchange × Option LoopTest :=
  (p.copy, p.timing, p.states, p.roundOpen, p.roundNo, p.todo, p.settled, p.exch, p.test)

theorem round_iff {p q : Poller} : p.round = q.round ↔
    p.copy = q.copy ∧ p.timing = q.timing ∧ p.states = q.states ∧ p.roundOpen = q.roundOpen ∧ p.roundNo = q.roundNo ∧
      p.todo = q.todo ∧ p.settled = q.settled ∧ p.exch = q.exch ∧ p.test = q.test := by
  simp [Poller.round]

@[simp] theorem setLoop_round (l : Loop) (v : LoopLine) (s : State) : (s.setLoop l v).poller.round = s.poller.round := rfl

theorem countProbes_poller (s : State) :
    s.countProbes.poller = { s.poller with loops := s.countProbes.poller.loops } := rfl

theorem countProbes_loopLine (s : State) (l : Loop) : s.countProbes.loopLine l = (s.loopLine l).countDown := by
  unfold State.countProbes
  dsimp only
  rw [loopLine_setLoop, loopLine_setLoop, loopLine_setLoop]
  cases l <;> simp

/-- R78: what a closure's count makes of a loop. -/
theorem countDown_fields (v : LoopLine) :
    v.countDown = { v with probe := if v.state = .down then v.probe - 1 else v.probe } := by
  unfold LoopLine.countDown
  split <;> rfl

/-! ### The closure (R69, R70) -/

/-- R69: the closure of the round before the stations that are left advance. -/
def State.shutRound (s : State) : State := { s with poller := { s.poller with roundOpen := false, exch := none, todo := [] } }

/-- R69, R150: the state that the closure drives the Gain Allocator from. -/
def State.beforeDrive (s : State) : State := s.shutRound.advanceRest.ambientClosure

theorem closeRound_eq (s : State) : s.closeRound = s.beforeDrive.driveGain.countProbes := rfl

theorem beforeDrive_poller (s : State) :
    s.beforeDrive.poller = { s.poller with roundOpen := false, exch := none, todo := [] } := by
  unfold State.beforeDrive
  simp only [ambientClosure_keeps, advanceRest_keeps]
  rfl

theorem closeRound_poller (s : State) :
    s.closeRound.poller =
      { s.poller with roundOpen := false, exch := none, todo := [], loops := s.closeRound.poller.loops } := by
  rw [closeRound_eq, countProbes_poller, (driveGain_keeps _).2.2.2.2.1, beforeDrive_poller]

theorem closeRound_loopLine (s : State) (l : Loop) : s.closeRound.loopLine l = (s.loopLine l).countDown := by
  rw [closeRound_eq, countProbes_loopLine]
  unfold State.loopLine
  rw [(driveGain_keeps _).2.2.2.2.1, beforeDrive_poller]

theorem beforeDrive_acc (s : State) : ∃ m, s.beforeDrive.acc = { s.shutRound.advanceRest.acc with ambient := m } :=
  ⟨_, ambientClosure_acc s.shutRound.advanceRest⟩

theorem closeRound_acc (s : State) : s.closeRound.acc = s.beforeDrive.acc := by
  rw [closeRound_eq]
  simp

/-- R4, R69: the closure advances every station that has not advanced, and no other. -/
theorem closeRound_account (s : State) (st : Station) :
    s.closeRound.acc.accts[st] =
      if s.acc.advanced[st] then s.acc.accts[st] else s.acc.accts[st].advance s.acc.w .unwritten := by
  obtain ⟨m, hm⟩ := beforeDrive_acc s
  have h := advanceRest_account s.shutRound st
  rw [show s.shutRound.acc = s.acc from rfl] at h
  rw [closeRound_acc, hm, ← h]

theorem closeRound_advanced (s : State) (st : Station) : s.closeRound.acc.advanced[st] = true := by
  obtain ⟨m, hm⟩ := beforeDrive_acc s
  rw [closeRound_acc, hm, ← advanceRest_advanced s.shutRound st]

@[simp] theorem beforeDrive_cfg (s : State) : s.beforeDrive.gain.cfg = s.gain.cfg := by
  unfold State.beforeDrive
  simp [State.shutRound]

@[simp] theorem closeRound_cfg (s : State) : s.closeRound.gain.cfg = s.gain.cfg := by
  rw [closeRound_eq]
  simp

@[simp] theorem closeRound_working (s : State) : s.closeRound.book.working = s.book.working := by
  rw [closeRound_eq]
  simp only [countProbes_keeps, driveGain_keeps]
  unfold State.beforeDrive
  simp [State.shutRound]

theorem closeRound_gain (s : State) : s.closeRound.gain = s.beforeDrive.rampAll.gain := by
  rw [closeRound_eq]
  simp

theorem closeRound_softTarget (s : State) (k : Stage) : s.closeRound.softTarget k = s.beforeDrive.softTarget k := by
  rw [closeRound_eq]
  refine softTarget_congr ?_ ?_ ?_ ?_ k
  · simp
  · simp
  · simp
  · rw [countProbes_poller, (driveGain_keeps _).2.2.2.2.1]

/-- R40, R49: the stages after a closure, from those it found. -/
theorem closeRound_close {s : State} {c : GainConfig} (h : s.gain.cfg = some c) (k : Stage) :
    s.closeRound.gain.stages[k] = s.beforeDrive.gain.stages[k].close (s.closeRound.softTarget k) c.dn c.up := by
  rw [closeRound_gain, closeRound_softTarget]
  exact rampAll_stage ((beforeDrive_cfg s).trans h) k

/-- R40: the closure takes the soft targets as they then stand. -/
theorem closeRound_target {s : State} (h : s.gain.cfg.isSome = true) (k : Stage) :
    s.closeRound.gain.stages[k].target = s.closeRound.softTarget k := by
  obtain ⟨c, hc⟩ := Option.isSome_iff_exists.1 h
  rw [closeRound_close hc, GainStage.close]

end Sys2Proof.Machine

/-! SUPPORT. Probes (R78): which loop is probed through which station; the closures by last outcome and by deadline as one closure
of the round; and the statement of R49 to R50 about them. -/

namespace Sys2Proof.Machine

/-! ### Probes (R78) -/

/-- The first of a rising list of stations that meets a test. -/
theorem find_least {p : Station → Bool} {l : List Station} (hl : l.Pairwise (· < ·)) {st : Station} (hm : st ∈ l) (hp : p st = true)
    (hlow : ∀ o, o < st → p o = false) : l.find? p = some st := by
  induction l with
  | nil => cases hm
  | cons o l ih =>
    obtain ⟨ho, hl⟩ := List.pairwise_cons.1 hl
    rcases List.mem_cons.1 hm with rfl | hm
    · rw [List.find?_cons, hp]
    · rw [List.find?_cons, hlow o (ho st hm), ih hl hm]

theorem probeStation_least {s : State} {copy : Vector StationEntry 16} (hc : s.poller.copy = some copy) {st : Station}
    (he : copy[st].enabled = true) (hlow : ∀ o : Station, o < st → copy[o].enabled = false) :
    s.probeStation = some (st, copy[st]) := by
  unfold State.probeStation
  rw [hc]
  dsimp only
  rw [find_least (by decide) (mem_allStations st) he hlow]
  rfl

theorem probeStation_none {s : State} {copy : Vector StationEntry 16} (hc : s.poller.copy = some copy)
    (h : ∀ st : Station, copy[st].enabled = false) : s.probeStation = none := by
  unfold State.probeStation
  rw [hc]
  dsimp only
  rw [List.find?_eq_none.2 fun st _ => by simpa using h st]
  rfl

/-- The loops that are due and still DOWN. -/
def State.downDue (s : State) : List Loop := s.poller.probeDue.filter fun l => decide ((s.loopLine l).state = .down)

theorem beginProbe_some {s : State} {l : Loop} {rest : List Loop} {st : Station} {e : StationEntry} (hd : s.downDue = l :: rest)
    (hs : s.probeStation = some (st, e)) :
    s.beginProbe =
      { s with
        poller := { s.poller with
          loops := upd s.poller.loops (loopIx l)
            { s.loopLine l with tx := some ((s.loopLine l).tx.getD (pollFrame e.addr s.poller.roundNo)) }
          probeDue := rest
          probe := some
            { station := st, addr := e.addr, loop := l
              phase := if (s.loopLine l).tx.isSome then .queued else .sending } } } := by
  unfold State.downDue at hd
  unfold State.beginProbe
  rw [hd, hs]
  dsimp only
  rw [putPoll_eq]

theorem beginProbe_none {s : State} (h : s.downDue = [] ∨ s.probeStation = none) :
    s.beginProbe = { s with poller := { s.poller with probeDue := [] } } := by
  unfold State.downDue at h
  unfold State.beginProbe
  rcases h with h | h
  · rw [h]
  · rw [h]
    split
    · next heq => cases heq
    · rfl

/-- R78: the loop of the probe begun. -/
theorem beginProbe_loopLine {s : State} {l : Loop} {rest : List Loop} {st : Station} {e : StationEntry} (hd : s.downDue = l :: rest)
    (hs : s.probeStation = some (st, e)) :
    s.beginProbe.loopLine l =
      { s.loopLine l with tx := some ((s.loopLine l).tx.getD (pollFrame e.addr s.poller.roundNo)) } := by
  rw [beginProbe_some hd hs]
  exact upd_same _ _ _

/-- From `s` to `t` only the frames on the loops and the probes of the Poller have changed. -/
structure ProbesOnly (s t : State) : Prop where
  rest : ∃ p, t = { s with poller := p }
  round : t.poller.round = s.poller.round
  loops : ∀ l : Loop, (t.loopLine l).state = (s.loopLine l).state ∧ (t.loopLine l).fails = (s.loopLine l).fails ∧
    (t.loopLine l).probe = (s.loopLine l).probe

theorem ProbesOnly.refl (s : State) : ProbesOnly s s := ⟨⟨_, rfl⟩, rfl, fun _ => ⟨rfl, rfl, rfl⟩⟩

theorem ProbesOnly.trans {s t u : State} (h : ProbesOnly s t) (g : ProbesOnly t u) : ProbesOnly s u := by
  obtain ⟨p, rfl⟩ := h.rest
  obtain ⟨q, rfl⟩ := g.rest
  refine ⟨⟨q, rfl⟩, g.round.trans h.round, fun l => ?_⟩
  obtain ⟨h1, h2, h3⟩ := h.loops l
  obtain ⟨g1, g2, g3⟩ := g.loops l
  exact ⟨g1.trans h1, g2.trans h2, g3.trans h3⟩

theorem probesOnly_due (s : State) (d : List Loop) : ProbesOnly s { s with poller := { s.poller with probeDue := d } } :=
  ⟨⟨_, rfl⟩, rfl, fun _ => ⟨rfl, rfl, rfl⟩⟩

/-- A loop line after the frame of one loop is replaced. -/
theorem loopLine_upd (s : State) (p : Poller) {l : Loop} {v : LoopLine} (hp : p.loops = upd s.poller.loops (loopIx l) v) (m : Loop) :
    ({ s with poller := p } : State).loopLine m = if m = l then v else s.loopLine m := by
  rw [← loopLine_setLoop]
  unfold State.loopLine
  rw [setLoop_poller_loops, ← hp]

theorem probesOnly_beginProbe (s : State) : ProbesOnly s s.beginProbe := by
  cases hd : s.downDue with
  | nil => rw [beginProbe_none (.inl hd)]; exact probesOnly_due s []
  | cons l rest =>
    cases hs : s.probeStation with
    | none => rw [beginProbe_none (.inr hs)]; exact probesOnly_due s []
    | some p =>
      rw [beginProbe_some hd hs]
      refine ⟨⟨_, rfl⟩, rfl, fun m => ?_⟩
      rw [loopLine_upd s _ rfl m]
      split
      · next h => subst h; exact ⟨rfl, rfl, rfl⟩
      · exact ⟨rfl, rfl, rfl⟩

/-- R78: the probes due after a closure by last outcome noted. -/
def State.probesTaken (s : State) : State :=
  { s with
    poller := { s.poller with
      probeDue := [Loop.a, Loop.b].filter fun l => decide ((s.loopLine l).state = .down ∧ (s.loopLine l).probe = 0) } }

theorem takeProbes_eq (s : State) : s.takeProbes = s.probesTaken.beginProbe := rfl

theorem probesOnly_takeProbes (s : State) : ProbesOnly s s.takeProbes := by
  have hdue : ProbesOnly s s.probesTaken := by unfold State.probesTaken; exact probesOnly_due s _
  rw [takeProbes_eq]
  exact hdue.trans (probesOnly_beginProbe _)

/-! ### Both closures (R69, R70) -/

theorem closeByLastOutcome_eq (s : State) : s.closeByLastOutcome = s.closeRound.takeProbes := rfl

theorem closes_probesOnly {s t : State} (h : s.Closes t) : ProbesOnly s.closeRound t := by
  unfold State.Closes at h
  rcases h with h | ⟨hr, ho, he, ht, hx⟩
  · rw [h, closeByLastOutcome_eq]
    exact probesOnly_takeProbes s.closeRound
  · have hu : s.poller.unresolved = [] := by unfold Poller.unresolved; rw [he]; exact ht
    have hd : exec .roundDeadline s = .next s.closeByDeadline := congrArg Host.Outcome.next (if_pos ⟨hr, ho⟩)
    have hc : s.closeByDeadline = s.closeRound := by
      unfold State.closeByDeadline
      rw [hu]
      rfl
    rw [hd, hc] at hx
    rw [← Host.Outcome.next.inj hx]
    exact .refl _

/-! ### The closure's moves (R49, R50) -/

/-- R91, R101: what a closure's offer makes of a link that is not DISABLED. -/
theorem closureOffer_disabled {l : Link} (h : l.state = .disabled) (k : Stage) (v : Nat) : l.closureOffer k v = l := if_pos h

theorem closureOffer_hold {l : Link} (h : l.state ≠ .disabled) (hh : l.hold = true) (k : Stage) (v : Nat) :
    l.Carries (l.closureOffer k v) v ∧ (l.closureOffer k v).hold = false := by
  unfold Link.closureOffer
  rw [if_neg h, if_pos hh]
  exact ⟨⟨⟨_, rfl, rfl, rfl, rfl⟩, rfl, rfl⟩, rfl⟩

theorem closureOffer_free {l : Link} (h : l.state ≠ .disabled) (hh : l.hold = false) (k : Stage) (v : Nat) :
    (l.out = none → l.pend = none → l.Carries (l.closureOffer k v) v) ∧
      (l.out.isSome = true → l.closureOffer k v = { l with pend := some v }) := by
  unfold Link.closureOffer Link.offer
  rw [if_neg h, if_neg (by simp [hh]), if_neg h]
  refine ⟨fun ho hp => ?_, fun ho => if_pos ho⟩
  rw [if_neg (by simp [ho])]
  exact ⟨⟨_, rfl, rfl, rfl, rfl⟩, hp, rfl⟩

/-- R49: the stage after a closure. -/
theorem closeRound_stage {s : State} {c : GainConfig} (hc : s.gain.cfg = some c) (hb : ceilingsBounded s.gain.stages) (k : Stage) :
    ∃ m, s.closeRound.gain.stages[k] = (s.gain.stages[k].withAmbient m).close (s.closeRound.softTarget k) c.dn c.up := by
  obtain ⟨-, -, hs, -⟩ := ambientClosure_unclipped (s := s.shutRound.advanceRest) (by simpa [State.shutRound] using hb)
  have hk := hs k
  rw [(advanceRest_keeps _).2.2.2.2.1] at hk
  rw [closeRound_close hc, show s.beforeDrive = s.shutRound.advanceRest.ambientClosure from rfl, hk]
  exact ⟨_, rfl⟩

theorem closeRound_line {s : State} (hb : ceilingsBounded s.gain.stages) (k : Stage) :
    s.closeRound.links.lines[k] = s.links.lines[k].closureOffer k s.closeRound.gain.stages[k].applied := by
  have hl : s.closeRound.links = s.beforeDrive.driveGain.links := by rw [closeRound_eq]; simp
  have hg : s.closeRound.gain = s.beforeDrive.driveGain.gain := by rw [closeRound_eq]; simp
  obtain ⟨h, -⟩ := ambientClosure_unclipped (s := s.shutRound.advanceRest) (by simpa [State.shutRound] using hb)
  have hk : s.beforeDrive.links = s.links := h.trans (by simp [State.shutRound])
  rw [hl, hg, driveGain_line, hk]

theorem closeRound_conds (s : State) (k : Stage) :
    s.closeRound.notices.conds[CondClass.ix .stageLimiting][stageSubject k] =
        decide (s.closeRound.gain.stages[k].applied < Config.fullScale) ∧
      s.closeRound.notices.conds[CondClass.ix .stageMuted][stageSubject k] =
        decide (s.closeRound.gain.stages[k].applied = 0) := by
  have hn : s.closeRound.notices = s.beforeDrive.driveGain.notices := by rw [closeRound_eq]; simp
  have hg : s.closeRound.gain = s.beforeDrive.driveGain.gain := by rw [closeRound_eq]; simp
  rw [hn, hg]
  exact driveGain_conds _ k

theorem closeRound_folded {s : State} (hb : ceilingsBounded s.gain.stages) :
    s.closeRound.log.folded = if s.log.minuteOpen then s.log.folded + 1 else s.log.folded := by
  have hl : s.closeRound.log = s.beforeDrive.driveGain.log := by rw [closeRound_eq]; simp
  obtain ⟨-, h, -⟩ := ambientClosure_unclipped (s := s.shutRound.advanceRest) (by simpa [State.shutRound] using hb)
  have hd : s.beforeDrive.log.frame = s.log.frame := by
    have hf := advanceRest_logFrame s.shutRound
    rw [← h] at hf
    exact hf
  obtain ⟨-, -, -, -, hf, ho⟩ := logFrame_iff.1 hd
  rw [hl, (driveGain_log _).2, hf, ho]

/-- R49: one closure's move of a stage. -/
theorem close_moves (g : GainStage) (target dn up : Nat) (h : g.applied ≤ g.bound) :
    let g2 := g.close target dn up
    g2 = { g with target := target, applied := g2.applied } ∧ g2.applied ≤ g.bound ∧
      (target < g.applied → g2.applied = max target (g.applied - dn)) ∧
      (g.applied ≤ target → g2.applied = min (min target (g.applied + up)) g.bound ∧ g.applied ≤ g2.applied) := by
  dsimp only [GainStage.close, ramp]
  refine ⟨rfl, Nat.min_le_right _ _, fun ht => ?_, fun ht => ?_⟩
  · rw [if_pos ht]; omega
  · rw [if_neg (by omega)]; omega

/-- R40: a fold of the least value over those stations that count. -/
theorem foldl_least {p : Station → Bool} {g : Station → Nat} (l : List Station) (a : Nat) :
    let m := l.foldl (fun t st => if p st then min t (g st) else t) a
    m ≤ a ∧ (∀ st ∈ l, p st = true → m ≤ g st) ∧ (m = a ∨ ∃ st ∈ l, p st = true ∧ m = g st) := by
  induction l generalizing a with
  | nil => simp
  | cons st l ih =>
    dsimp only [List.foldl_cons]
    cases hp : p st with
    | false =>
      obtain ⟨h1, h2, h3⟩ := ih a
      simp only [Bool.false_eq_true, if_false]
      refine ⟨h1, fun o ho hpo => ?_, h3.imp_right fun ⟨o, ho, h⟩ => ⟨o, List.mem_cons_of_mem _ ho, h⟩⟩
      rcases List.mem_cons.1 ho with rfl | ho
      · rw [hp] at hpo; cases hpo
      · exact h2 o ho hpo
    | true =>
      obtain ⟨h1, h2, h3⟩ := ih (min a (g st))
      simp only [if_true]
      refine ⟨h1.trans (Nat.min_le_left _ _), fun o ho hpo => ?_, ?_⟩
      · rcases List.mem_cons.1 ho with rfl | ho
        · exact h1.trans (Nat.min_le_right _ _)
        · exact h2 o ho hpo
      · rcases h3 with h3 | ⟨o, ho, h⟩
        · rcases Nat.le_total a (g st) with hle | hle
          · exact .inl (h3.trans (Nat.min_eq_left hle))
          · exact .inr ⟨st, List.mem_cons_self, hp, h3.trans (Nat.min_eq_right hle)⟩
        · exact .inr ⟨o, List.mem_cons_of_mem _ ho, h⟩

theorem pulls_iff (s : State) (st : Station) (k : Stage) :
    s.pulls st k = true ↔ (s.poller.states[st] = .live ∨ s.poller.states[st] = .stale) ∧ s.hears st k = true := by
  simp [State.pulls]

/-- R40: the soft target is the least demand of those that count. -/
theorem softTarget_least (s : State) (k : Stage) :
    s.softTarget k ≤ 4096 ∧ (∀ st : Station, s.pulls st k = true → s.softTarget k ≤ s.acc.accts[st].gs) ∧
      (s.softTarget k = 4096 ∨ ∃ st : Station, s.pulls st k = true ∧ s.softTarget k = s.acc.accts[st].gs) := by
  obtain ⟨h1, h2, h3⟩ := foldl_least (p := fun st => s.pulls st k) (g := fun st : Station => s.acc.accts[st].gs) allStations Config.fullScale
  exact ⟨h1, fun st hp => h2 st (mem_allStations st) hp, h3.imp_right fun ⟨st, _, h⟩ => ⟨st, h⟩⟩

/-! ### The probe after a closure by last outcome (R78) -/

theorem countDown_due (v : LoopLine) : v.countDown.state = .down ∧ v.countDown.probe = 0 ↔ v.state = .down ∧ v.probe ≤ 1 := by
  rw [countDown_fields]
  dsimp only
  refine and_congr_right fun h => ?_
  rw [if_pos h]
  omega

theorem probesTaken_probeDue (s : State) :
    s.probesTaken.poller.probeDue =
      [Loop.a, Loop.b].filter fun l => decide ((s.loopLine l).state = .down ∧ (s.loopLine l).probe = 0) := rfl

theorem probesTaken_loopLine (s : State) (l : Loop) : s.probesTaken.loopLine l = s.loopLine l := rfl

theorem probesTaken_downDue (s : State) : s.probesTaken.downDue = s.probesTaken.poller.probeDue := by
  unfold State.downDue
  rw [probesTaken_probeDue, List.filter_filter]
  refine List.filter_congr fun l _ => ?_
  rw [probesTaken_loopLine]
  simp only [Bool.and_eq_right_iff_imp, decide_eq_true_eq]
  exact fun h => h.1

/-- R78: the loops due after a closure: A before B. -/
theorem closeRound_due (s : State) :
    s.closeRound.probesTaken.downDue =
      [Loop.a, Loop.b].filter (fun l => decide ((s.loopLine l).state = .down ∧ (s.loopLine l).probe ≤ 1)) := by
  rw [probesTaken_downDue, probesTaken_probeDue]
  refine List.filter_congr fun l _ => decide_eq_decide.2 ?_
  rw [closeRound_loopLine]
  exact countDown_due _

/-- R69, R70, R78: what a closure makes of a state, but for the stages, links and conditions. -/
theorem closure_frame {s t : State} (h : ProbesOnly s.closeRound t) :
    t.poller.roundOpen = false ∧ t.poller.exch = none ∧ t.poller.todo = [] ∧ t.poller.states = s.poller.states ∧
      t.poller.copy = s.poller.copy ∧ t.poller.roundNo = s.poller.roundNo ∧ t.acc = s.closeRound.acc ∧
      t.gain = s.closeRound.gain ∧ t.links = s.closeRound.links ∧ t.notices = s.closeRound.notices ∧
      t.log = s.closeRound.log ∧ t.walker = s.walker ∧ t.run = s.run ∧ t.clock = s.clock ∧
      t.book.working = s.book.working := by
  obtain ⟨hopen, hexch, htodo, hstates⟩ : s.closeRound.poller.roundOpen = false ∧ s.closeRound.poller.exch = none ∧
      s.closeRound.poller.todo = [] ∧ s.closeRound.poller.states = s.poller.states := by
    rw [closeRound_poller]; exact ⟨rfl, rfl, rfl, rfl⟩
  obtain ⟨hcopy, hno⟩ : s.closeRound.poller.copy = s.poller.copy ∧ s.closeRound.poller.roundNo = s.poller.roundNo := by
    rw [closeRound_poller]; exact ⟨rfl, rfl⟩
  obtain ⟨hrun, hclock, -, hwalker, -⟩ := closeRound_keeps s
  have hwork := closeRound_working s
  obtain ⟨p, hp⟩ := h.rest
  obtain ⟨gcopy, -, gstates, gopen, gno, gtodo, -, gexch, -⟩ := round_iff.1 h.round
  refine ⟨gopen.trans hopen, gexch.trans hexch, gtodo.trans htodo, gstates.trans hstates, gcopy.trans hcopy, gno.trans hno, ?_⟩
  generalize s.closeRound = v at *
  subst hp
  exact ⟨rfl, rfl, rfl, rfl, rfl, hwalker, hrun, hclock, hwork⟩

/-- R69, R70, R78: the loops after a closure. -/
theorem closure_loop {s t : State} (h : ProbesOnly s.closeRound t) (l : Loop) :
    (t.loopLine l).state = (s.loopLine l).state ∧ (t.loopLine l).fails = (s.loopLine l).fails ∧
      (t.loopLine l).probe = if (s.loopLine l).state = .down then (s.loopLine l).probe - 1 else (s.loopLine l).probe := by
  obtain ⟨h1, h2, h3⟩ := h.loops l
  rw [closeRound_loopLine, countDown_fields] at h1 h2 h3
  exact ⟨h1, h2, h3⟩

theorem closure_softTarget {s t : State} (h : ProbesOnly s.closeRound t) (k : Stage) :
    t.softTarget k = s.closeRound.softTarget k := by
  obtain ⟨-, -, -, hs, -, -, ha, hg, -, -, -, -, -, -, hb⟩ := closure_frame h
  refine softTarget_congr (hb.trans (closeRound_working s).symm) ha (congrArg GainAllocator.cfg hg) (hs.trans ?_) k
  rw [closeRound_poller]

end Sys2Proof.Machine

/-! O56: what a closure of the round does. -/

namespace Sys2Proof.Machine

/-- R49, R55, R91: a stage, its link and its conditions after a closure. -/
theorem closure_stage {s t : State} {c : GainConfig} (hc : s.gain.cfg = some c) (hb : ceilingsBounded s.gain.stages)
    (h : ProbesOnly s.closeRound t) (k : Stage) :
    let g := t.gain.stages[k]
    let l := s.links.lines[k]
    let m := t.links.lines[k]
    g = { s.gain.stages[k] with target := t.softTarget k, applied := g.applied, ambient := g.ambient } ∧
      g.applied = min (rampStep (t.softTarget k) s.gain.stages[k].applied c.dn c.up) g.bound ∧
      (l.state = .disabled → m = l) ∧
      (l.state ≠ .disabled → l.hold = true → l.Carries m g.applied ∧ m.hold = false) ∧
      (l.state ≠ .disabled → l.hold = false →
        (l.out = none → l.pend = none → l.Carries m g.applied) ∧ (l.out.isSome = true → m = { l with pend := some g.applied })) ∧
      t.notices.conds[CondClass.ix .stageLimiting][stageSubject k] = decide (g.applied < 4096) ∧
      t.notices.conds[CondClass.ix .stageMuted][stageSubject k] = decide (g.applied = 0) := by
  obtain ⟨-, -, -, -, -, -, -, hg, hl, hn, -⟩ := closure_frame h
  obtain ⟨m, hm⟩ := closeRound_stage hc hb k
  have hline := closeRound_line hb k
  obtain ⟨hlim, hmute⟩ := closeRound_conds s k
  rw [← closure_softTarget h k] at hm
  rw [← hg] at hm hline hlim hmute
  rw [← hl] at hline
  rw [← hn] at hlim hmute
  dsimp only
  rw [hline]
  refine ⟨?_, ?_, fun hd => closureOffer_disabled hd k _, fun hd hh => closureOffer_hold hd hh k _,
    fun hd hh => closureOffer_free hd hh k _, hlim, hmute⟩
  · rw [hm]; rfl
  · rw [hm]; rfl

theorem closure_moves {s t : State} (hb : ceilingsBounded s.gain.stages) (hx : s.Closes t) :
    t.poller.roundOpen = false ∧ t.poller.exch = none ∧ t.poller.todo = [] ∧ t.poller.states = s.poller.states ∧
      (∀ st : Station, t.acc.advanced[st] = true ∧
        t.acc.accts[st] = if s.acc.advanced[st] then s.acc.accts[st] else s.acc.accts[st].advance s.acc.w .unwritten) ∧
      t.log.folded = (if s.log.minuteOpen then s.log.folded + 1 else s.log.folded) ∧
      t.poller.copy = s.poller.copy ∧ t.walker = s.walker ∧ t.run = s.run ∧ t.clock = s.clock := by
  have h := closes_probesOnly hx
  obtain ⟨h1, h2, h3, h4, h5, -, ha, -, -, -, hlog, h6, h7, h8, -⟩ := closure_frame h
  refine ⟨h1, h2, h3, h4, fun st => ?_, ?_, h5, h6, h7, h8⟩
  · rw [ha]
    exact ⟨closeRound_advanced s st, closeRound_account s st⟩
  · rw [hlog]
    exact closeRound_folded hb

/-- R78: the loop probed first, and what is then still due. -/
theorem firstDue {l : Loop} {p : Loop → Prop} [DecidablePred p] (hl : p l) (hb : l = .b → ¬ p .a) :
    [Loop.a, Loop.b].filter (fun l => decide (p l)) = l :: if l = .a ∧ p .b then [.b] else [] := by
  cases l with
  | a => by_cases h : p .b <;> simp [hl, h]
  | b => simp [hl, hb rfl]

/-- R78: the probe begun after a closure by last outcome. -/
theorem closure_probe {s : State} {copy : Vector StationEntry 16} (hc : s.poller.copy = some copy) {st : Station} {l : Loop}
    (he : copy[st].enabled = true) (hlow : ∀ o : Station, o < st → copy[o].enabled = false)
    {rest : List Loop} (hd : s.closeRound.probesTaken.downDue = l :: rest) :
    s.closeByLastOutcome.poller.probe =
        some { station := st, addr := copy[st].addr, loop := l, phase := if (s.loopLine l).tx.isSome then .queued else .sending } ∧
      (s.closeByLastOutcome.loopLine l).tx = some ((s.loopLine l).tx.getD (pollFrame copy[st].addr s.poller.roundNo)) ∧
      s.closeByLastOutcome.poller.probeDue = rest := by
  have hline : s.closeRound.probesTaken.loopLine l = (s.loopLine l).countDown := by
    rw [probesTaken_loopLine, closeRound_loopLine]
  have hp : s.closeRound.probesTaken.poller.copy = some copy ∧ s.closeRound.probesTaken.poller.roundNo = s.poller.roundNo := by
    have h := closeRound_poller s
    generalize s.closeRound = v at *
    unfold State.probesTaken
    dsimp only
    rw [h]
    exact ⟨hc, rfl⟩
  rw [closeByLastOutcome_eq, takeProbes_eq]
  generalize s.closeRound.probesTaken = u at *
  obtain ⟨hcopy, hno⟩ := hp
  have hs := probeStation_least hcopy he hlow
  rw [beginProbe_loopLine hd hs, beginProbe_some hd hs, hline, hno, countDown_fields]
  exact ⟨rfl, rfl, rfl⟩

theorem closure_noProbe {s : State} (h : s.closeRound.probesTaken.downDue = [] ∨ s.closeRound.probesTaken.probeStation = none) :
    s.closeByLastOutcome.poller.probe = s.poller.probe ∧ s.closeByLastOutcome.poller.probeDue = [] ∧
      ∀ l : Loop, (s.closeByLastOutcome.loopLine l).tx = (s.loopLine l).tx := by
  have hline : ∀ l, s.closeRound.probesTaken.loopLine l = (s.loopLine l).countDown := fun l => by
    rw [probesTaken_loopLine, closeRound_loopLine]
  have hp : s.closeRound.probesTaken.poller.probe = s.poller.probe := by
    have h := closeRound_poller s
    generalize s.closeRound = v at *
    unfold State.probesTaken
    dsimp only
    rw [h]
  rw [closeByLastOutcome_eq, takeProbes_eq]
  generalize s.closeRound.probesTaken = u at *
  rw [beginProbe_none h]
  refine ⟨hp, rfl, fun l => ?_⟩
  have hl := hline l
  rw [countDown_fields] at hl
  exact (congrArg LoopLine.tx hl :)

/-- Settles O56. -/
theorem closureMovesTheCeiling : Obligations.ClosureMovesTheCeiling := by
  refine ⟨close_moves, fun s k => ?_, fun s t c hc hb hx => ?_, fun s copy hc => ?_⟩
  · have h := softTarget_least s k
    simp only [pulls_iff] at h
    exact h
  · obtain ⟨h1, h2, h3, h4, hacc, hlog, hrest⟩ := closure_moves hb hx
    have hp := closes_probesOnly hx
    exact ⟨h1, h2, h3, h4, hacc, closure_stage hc hb hp, hlog, closure_loop hp, hrest⟩
  · have hdue := closeRound_due s
    refine ⟨fun st l he hlow hl hb => ?_, fun h => closure_noProbe ?_⟩
    · rw [firstDue hl hb] at hdue
      obtain ⟨h1, h2, h3⟩ := closure_probe hc he hlow hdue
      refine ⟨h1, h2.trans ?_, h3⟩
      cases (s.loopLine l).tx <;> rfl
    · rcases h with h | ⟨ha, hb⟩
      · refine .inr (probeStation_none (copy := copy) ?_ h)
        have h := closeRound_poller s
        generalize s.closeRound = v at *
        unfold State.probesTaken
        dsimp only
        rw [h]
        exact hc
      · left
        rw [hdue]
        simp only [List.filter_cons, decide_eq_true_eq, ha, hb, if_false, List.filter_nil]

end Sys2Proof.Machine

/-! SUPPORT. Outcomes handed to the accumulator (R68, R72), one and in a list, and O50: the round deadline. -/

namespace Sys2Proof.Machine

/-! ### One outcome (R68, R72) -/

/-- R72: the state of a station after an outcome. -/
def State.stateOf (s : State) (st : Station) (o : SecondOutcome) : StationState :=
  stateAfterStore (missingAfter o.cls s.acc.accts[st].missing) s.poller.states[st]

theorem takeOutcome_of_advanced {s : State} {st : Station} (h : s.acc.advanced[st] = true) (o : SecondOutcome) :
    s.takeOutcome st o = s := if_pos h

theorem takeOutcome_eq {s : State} {st : Station} (h : s.acc.advanced[st] = false) (o : SecondOutcome) :
    s.takeOutcome st o = (s.storeOutcome st o).setStationState st (s.stateOf st o) := by
  have hm : (s.storeOutcome st o).acc.accts[st].missing = missingAfter o.cls s.acc.accts[st].missing := by
    rw [storeOutcome_acc h]
    dsimp only
    rw [upd_same, (accountOf_ring s st o).2]
  unfold State.takeOutcome State.stateOf
  rw [if_neg (by simp [h])]
  dsimp only
  rw [hm, (storeOutcome_keeps _ _ _).2.2.2.2.1]

theorem takeOutcome_acc {s : State} {st : Station} (h : s.acc.advanced[st] = false) (o : SecondOutcome) :
    (s.takeOutcome st o).acc =
      { s.acc with
        accts := upd s.acc.accts st (s.accountOf st o)
        advanced := upd s.acc.advanced st true
        ambient := s.acc.ambient.collect st (s.sampleOf st o) } := by
  rw [takeOutcome_eq h, (setStationState_keeps _ _ _).2.2.2.1, storeOutcome_acc h]

theorem takeOutcome_poller {s : State} {st : Station} (h : s.acc.advanced[st] = false) (o : SecondOutcome) :
    (s.takeOutcome st o).poller = { s.poller with states := upd s.poller.states st (s.stateOf st o) } := by
  rw [takeOutcome_eq h, setStationState_poller, (storeOutcome_keeps _ _ _).2.2.2.2.1]

@[simp] theorem takeOutcome_cfg (st : Station) (o : SecondOutcome) (s : State) :
    (s.takeOutcome st o).gain.cfg = s.gain.cfg := by
  cases h : s.acc.advanced[st] with
  | true => rw [takeOutcome_of_advanced h]
  | false => rw [takeOutcome_eq h, setStationState_cfg, (storeOutcome_keeps _ _ _).2.2.2.1]

/-- R45, R72, R74: the state that an outcome leaves. -/
theorem takeOutcome_becomes {s : State} (hr : s.run.state = .running) {st : Station} (h : s.acc.advanced[st] = false)
    (o : SecondOutcome) : s.BecomesState (s.takeOutcome st o) st (s.stateOf st o) := by
  obtain ⟨hrun, -, -, hgain, hpoll, -⟩ := storeOutcome_keeps st o s
  have hb := setStationState_becomes (s := s.storeOutcome st o) (by rw [hrun]; exact hr) st (s.stateOf st o)
  rw [← takeOutcome_eq h] at hb
  exact BecomesState_congr hb (by rw [hpoll]) hgain.symm rfl rfl rfl rfl rfl rfl

/-- R72: a missing outcome never makes a station LIVE. -/
theorem stateOf_missing (s : State) (st : Station) :
    s.stateOf st .missing = stateMissed (min 65535 (s.acc.accts[st].missing + 1)) s.poller.states[st] :=
  stateAfterStore_missed (Nat.lt_min.2 ⟨by decide, Nat.succ_pos _⟩) _

/-! ### Missing outcomes for a list of stations (R70) -/

/-- R4, R13, R72: what missing outcomes handed for the stations `sts` make of station `st`: each is taken once. -/
structure Missed (sts : List Station) (s t : State) (st : Station) : Prop where
  hit : s.acc.advanced[st] = false → st ∈ sts →
    t.acc.advanced[st] = true ∧ (∃ x, t.acc.accts[st].ring = (x :: s.acc.accts[st].ring).take 900) ∧
      t.acc.accts[st].missing = min 65535 (s.acc.accts[st].missing + 1) ∧
      t.poller.states[st] = stateMissed (min 65535 (s.acc.accts[st].missing + 1)) s.poller.states[st]
  left : s.acc.advanced[st] = true ∨ st ∉ sts →
    t.acc.accts[st] = s.acc.accts[st] ∧ t.acc.advanced[st] = s.acc.advanced[st] ∧ t.poller.states[st] = s.poller.states[st]

/-- One missing outcome, seen from any station. -/
theorem takeOutcome_missed (a : Station) (s : State) (st : Station) : Missed [a] s (s.takeOutcome a .missing) st := by
  cases h : s.acc.advanced[a] with
  | true =>
    rw [takeOutcome_of_advanced h]
    refine ⟨fun hf hm => ?_, fun _ => ⟨rfl, rfl, rfl⟩⟩
    rw [List.mem_singleton.1 hm, h] at hf
    cases hf
  | false =>
    obtain ⟨hring, hmiss⟩ := accountOf_ring s a .missing
    have hacc := takeOutcome_acc h .missing
    have hpoll := takeOutcome_poller h .missing
    rw [stateOf_missing] at hpoll
    refine ⟨fun hf hm => ?_, fun hl => ?_⟩
    · obtain rfl := List.mem_singleton.1 hm
      rw [hacc, hpoll]
      dsimp only
      rw [upd_same, upd_same, upd_same]
      exact ⟨rfl, ⟨_, hring⟩, hmiss, rfl⟩
    · have hne : st ≠ a := by
        rintro rfl
        rcases hl with hl | hl
        · rw [h] at hl; cases hl
        · exact hl List.mem_cons_self
      rw [hacc, hpoll]
      dsimp only
      rw [upd_other _ _ _ _ hne, upd_other _ _ _ _ hne, upd_other _ _ _ _ hne]
      exact ⟨rfl, rfl, rfl⟩

theorem handMissing_missed (sts : List Station) (s : State) (st : Station) : Missed sts s (s.handMissing sts) st := by
  induction sts generalizing s with
  | nil => exact ⟨fun _ h => (nomatch h), fun _ => ⟨rfl, rfl, rfl⟩⟩
  | cons a sts ih =>
    have h1 := takeOutcome_missed a s st
    have h2 := ih (s.takeOutcome a .missing)
    rw [show s.handMissing (a :: sts) = (s.takeOutcome a .missing).handMissing sts from rfl]
    generalize s.takeOutcome a .missing = u at h1 h2 ⊢
    refine ⟨fun hf hm => ?_, fun hl => ?_⟩
    · by_cases ha : st ∈ [a]
      · obtain ⟨hadv, hring, hmiss, hstate⟩ := h1.hit hf ha
        obtain ⟨g1, g2, g3⟩ := h2.left (.inl hadv)
        rw [g1, g2, g3]
        exact ⟨hadv, hring, hmiss, hstate⟩
      · obtain ⟨g1, g2, g3⟩ := h1.left (.inr ha)
        have hms : st ∈ sts := (List.mem_cons.1 hm).resolve_left fun e => ha (List.mem_singleton.2 e)
        have h := h2.hit (g2.trans hf) hms
        rw [g1, g3] at h
        exact h
    · obtain ⟨g1, g2, g3⟩ := h1.left (hl.imp_right fun h hm => h (List.mem_cons.2 (.inl (List.mem_singleton.1 hm))))
      obtain ⟨k1, k2, k3⟩ := h2.left (hl.imp g2.trans fun h hm => h (List.mem_cons_of_mem _ hm))
      exact ⟨k1.trans g1, k2.trans g2, k3.trans g3⟩

theorem handMissing_poller (sts : List Station) (s : State) :
    (s.handMissing sts).poller = { s.poller with states := (s.handMissing sts).poller.states } := by
  refine foldl_preserves (fun t : State => t.poller = { s.poller with states := t.poller.states })
    (fun t st => t.takeOutcome st .missing) (fun t st ht => ?_) sts s rfl
  cases h : t.acc.advanced[st] with
  | true => rw [takeOutcome_of_advanced h]; exact ht
  | false => rw [takeOutcome_poller h, ht]

@[simp] theorem handMissing_cfg (sts : List Station) (s : State) : (s.handMissing sts).gain.cfg = s.gain.cfg :=
  foldl_keeps (fun t => t.gain.cfg) _ (fun t st => takeOutcome_cfg st .missing t) sts s

/-! ### The deadline (R70) -/

/-- R70: the exchange in progress abandoned and the stations not yet resolved made missing. -/
def State.missRest (s : State) : State :=
  ({ s with poller := { s.poller with exch := none, todo := [] } } : State).handMissing s.poller.unresolved

theorem closeByDeadline_nil {s : State} (h : s.poller.unresolved = []) : s.closeByDeadline = s.missRest.closeRound := by
  unfold State.closeByDeadline State.missRest
  rw [h]

theorem closeByDeadline_cons {s : State} {first : Station} {more : List Station} (h : s.poller.unresolved = first :: more) :
    s.closeByDeadline = s.missRest.closeRound.post 20 first.val ((more.length + 1) % 256) := by
  unfold State.closeByDeadline State.missRest
  rw [h]
  rfl

theorem missRest_poller (s : State) :
    s.missRest.poller = { s.poller with exch := none, todo := [], states := s.missRest.poller.states } := by
  unfold State.missRest
  rw [handMissing_poller]

@[simp] theorem missRest_keeps (s : State) :
    s.missRest.run = s.run ∧ s.missRest.clock = s.clock ∧ s.missRest.regs = s.regs ∧ s.missRest.walker = s.walker ∧
      s.missRest.book = s.book ∧ s.missRest.gain.cfg = s.gain.cfg := by
  unfold State.missRest
  simp

theorem missRest_missed (s : State) (st : Station) : Missed s.poller.unresolved s s.missRest st := by
  have h := handMissing_missed s.poller.unresolved { s with poller := { s.poller with exch := none, todo := [] } } st
  exact ⟨h.hit, h.left⟩

/-- R70: the deadline's closure and the closure that it makes of the state with the rest missing agree but for the notice. -/
theorem closeByDeadline_keeps_closure (s : State) :
    s.closeByDeadline.acc = s.missRest.closeRound.acc ∧ s.closeByDeadline.poller = s.missRest.closeRound.poller ∧
      s.closeByDeadline.gain = s.missRest.closeRound.gain ∧ s.closeByDeadline.book = s.missRest.closeRound.book := by
  cases h : s.poller.unresolved with
  | nil => rw [closeByDeadline_nil h]; exact ⟨rfl, rfl, rfl, rfl⟩
  | cons first more => rw [closeByDeadline_cons h]; simp

theorem missRest_closes {s : State} (hr : s.run.state = .running) (ho : s.poller.roundOpen = true) :
    s.missRest.Closes s.missRest.closeRound := by
  have hp := missRest_poller s
  obtain ⟨hrun, -⟩ := missRest_keeps s
  generalize s.missRest = u at *
  obtain ⟨h1, h2, h3⟩ : u.poller.roundOpen = true ∧ u.poller.exch = none ∧ u.poller.todo = [] := by
    rw [hp]; exact ⟨ho, rfl, rfl⟩
  have hu : u.poller.unresolved = [] := by unfold Poller.unresolved; rw [h2]; exact h3
  have hc : u.closeByDeadline = u.closeRound := by
    unfold State.closeByDeadline
    rw [hu]
    rfl
  refine .inr ⟨by rw [hrun]; exact hr, h1, h2, h3, ?_⟩
  rw [← hc]
  exact congrArg Host.Outcome.next (if_pos ⟨by rw [hrun]; exact hr, h1⟩)

/-- R4, R70: a station after the deadline. -/
theorem deadline_station (s : State) (st : Station) :
    s.closeByDeadline.acc.advanced[st] = true ∧
      (s.acc.advanced[st] = true → s.closeByDeadline.acc.accts[st].ring = s.acc.accts[st].ring) ∧
      (s.acc.advanced[st] = false → ∃ x, s.closeByDeadline.acc.accts[st].ring = (x :: s.acc.accts[st].ring).take 900) ∧
      s.closeByDeadline.acc.accts[st].missing =
        (if s.acc.advanced[st] = false ∧ st ∈ s.poller.unresolved then min 65535 (s.acc.accts[st].missing + 1)
          else s.acc.accts[st].missing) ∧
      s.closeByDeadline.poller.states[st] =
        if s.acc.advanced[st] = false ∧ st ∈ s.poller.unresolved then
          stateMissed (min 65535 (s.acc.accts[st].missing + 1)) s.poller.states[st]
        else s.poller.states[st] := by
  obtain ⟨hacc, hpoll, -⟩ := closeByDeadline_keeps_closure s
  have hm := missRest_missed s st
  rw [hacc, hpoll, closeRound_account, closeRound_poller]
  refine ⟨closeRound_advanced _ _, ?_⟩
  generalize s.missRest = u at hm
  by_cases h : s.acc.advanced[st] = false ∧ st ∈ s.poller.unresolved
  · obtain ⟨hadv, hring, hmiss, hstate⟩ := hm.hit h.1 h.2
    rw [if_pos hadv, if_pos h, if_pos h]
    exact ⟨fun ht => absurd (h.1.symm.trans ht) Bool.false_ne_true, fun _ => hring, hmiss, hstate⟩
  · obtain ⟨h1, h2, h3⟩ := hm.left (by
      cases ha : s.acc.advanced[st] with
      | true => exact .inl rfl
      | false => exact .inr fun hu => h ⟨ha, hu⟩)
    rw [if_neg h, if_neg h, h1, h2]
    cases ha : s.acc.advanced[st] with
    | true => exact ⟨fun _ => rfl, fun hf => (nomatch hf), rfl, h3⟩
    | false => exact ⟨fun hf => (nomatch hf), fun _ => ⟨_, rfl⟩, rfl, h3⟩

/-- Settles O50. -/
theorem deadlineClosesTheRound : Obligations.DeadlineClosesTheRound := by
  intro s
  refine ⟨fun h => congrArg Host.Outcome.next (if_neg ?_), fun hr ho => ?_⟩
  · rintro ⟨h1, h2⟩
    rcases h with h | h
    · exact h h1
    · rw [h] at h2; cases h2
  · intro missed
    obtain ⟨hacc, hpoll, hgain, hbook⟩ := closeByDeadline_keeps_closure s
    obtain ⟨hrun, hclock, hregs, hwalker, -⟩ := closeByDeadline_keeps s
    obtain ⟨-, -, -, -, mbook, mcfg⟩ := missRest_keeps s
    have hp : s.closeByDeadline.poller =
        { s.poller with
          roundOpen := false, exch := none, todo := [], states := s.missRest.poller.states
          loops := s.missRest.closeRound.poller.loops } := by
      rw [hpoll, closeRound_poller, missRest_poller]
    have hstation := deadline_station s
    refine ⟨_, congrArg Host.Outcome.next (if_pos ⟨hr, ho⟩), ?_⟩
    have hloop : ∀ l, s.closeByDeadline.loopLine l = (s.loopLine l).countDown := by
      intro l
      have h := closeRound_loopLine s.missRest l
      unfold State.loopLine at h ⊢
      rw [hpoll, h, missRest_poller]
    have htarget : s.gain.cfg.isSome = true → ∀ k : Stage,
        s.closeByDeadline.gain.stages[k].target = s.closeByDeadline.softTarget k := by
      intro hc k
      rw [softTarget_congr (s := s.missRest.closeRound) (congrArg BookStore.working hbook) hacc (congrArg GainAllocator.cfg hgain)
        (congrArg Poller.states hpoll), hgain]
      exact closeRound_target (by rw [mcfg]; exact hc) k
    have hover : ∀ first more, s.poller.unresolved = first :: more →
        ∃ u v : State, u.Closes v ∧ u.poller.states = s.closeByDeadline.poller.states ∧ u.gain.cfg = s.gain.cfg ∧
          s.closeByDeadline = v.post 20 first.val ((more.length + 1) % 256) :=
      fun first more h => ⟨_, _, missRest_closes hr ho, by rw [hp], mcfg, closeByDeadline_cons h⟩
    have hwork : s.closeByDeadline.book.working = s.book.working := by
      rw [hbook, closeRound_working, mbook]
    generalize s.closeByDeadline = t at *
    refine ⟨by rw [hp], by rw [hp], by rw [hp], fun st => ?_, fun st => ?_, fun l => ?_, htarget, hover, hrun, hclock, hregs, hwalker,
      hwork, by rw [hp], by rw [hp]⟩
    · obtain ⟨h1, h2, h3, h4, -⟩ := hstation st
      exact ⟨h1, h2, h3, h4⟩
    · obtain ⟨-, -, -, -, h5⟩ := hstation st
      exact h5
    · rw [hloop l, countDown_fields]
      exact ⟨rfl, rfl, rfl⟩

end Sys2Proof.Machine

/-! SUPPORT. The exchange in progress (R58, R59, R63 to R68) and the probe in progress (R78): how a frame is judged, what an attempt that is
sent leaves alone, how the round goes on, and what the end of an exchange records. -/

namespace Sys2Proof.Machine

/-! ### Frames judged (R58, R59) -/

theorem parseSecond_nil : parseSecond [] = none := rfl

theorem judge_invalid {p : Poller} {addr : Nat} {bytes : List Byte} (h : p.invalidFor addr bytes) : p.judge addr bytes = .bad := by
  unfold Poller.judge
  rcases h with h | ⟨f, hf, h⟩
  · rw [h]
  · rw [hf]
    dsimp only
    rcases h with h | ⟨ha, hd⟩
    · rw [if_neg h]
    · have hany : ¬ (p.settled.any fun d => decide (d.2 = f.addr)) = true := fun h => by
        obtain ⟨d, hm, hda⟩ := List.any_eq_true.1 h
        exact hd d hm (of_decide_eq_true hda)
      rw [if_neg ha, if_neg hany, ite_self]

theorem judge_stray {p : Poller} {addr : Nat} {bytes : List Byte} (h : p.strayFor addr bytes) : p.judge addr bytes = .stray := by
  obtain ⟨f, hf, he, ha, d, hd, hda⟩ := h
  unfold Poller.judge
  rw [hf]
  dsimp only
  rw [if_pos he, if_neg ha, if_pos (List.any_eq_true.2 ⟨d, hd, decide_eq_true hda⟩)]

/-- R68: the record that a SECOND frame with these flags and energies carries. -/
def recordOf (flags eA eC : Nat) : SecondOutcome := .valid eA eC (bit flags 0) (bit flags 1) (bit flags 2) (bit flags 3)

theorem judge_secondFrame {p : Poller} {addr flags eA eC : Nat} (ha : addr < 256) (hf : flags < 65536) (hA : eA < 4294967296)
    (hC : eC < 4294967296) : p.judge addr (secondFrame addr p.roundNo flags eA eC) = .valid (recordOf flags eA eC) := by
  have hw : isWords [0xA53C, addr + 256 * (p.roundNo % 256), flags, eA % 65536, eA / 65536, eC % 65536, eC / 65536] := by
    intro w hw
    simp only [List.mem_cons, List.not_mem_nil, or_false] at hw
    omega
  have h1 : (addr + 256 * (p.roundNo % 256)) % 256 = addr := by omega
  have h2 : (addr + 256 * (p.roundNo % 256)) / 256 = p.roundNo % 256 := by omega
  unfold Poller.judge secondFrame recordOf
  rw [parseSecond_sealFrame hw]
  dsimp only
  rw [h1, h2, if_pos rfl, if_pos rfl, Nat.mod_add_div, Nat.mod_add_div]

theorem length_secondFrame (addr roundNo flags eA eC : Nat) : (secondFrame addr roundNo flags eA eC).length = 16 :=
  length_sealFrame _

/-! ### The choice of a loop (R64) -/

theorem usable_congr {v w : LoopLine} (h : v.state = w.state) : v.usable = w.usable := by
  unfold LoopLine.usable
  rw [h]

theorem firstLoop_congr {s t : State} (h : ∀ l, (t.loopLine l).state = (s.loopLine l).state) (pref : Loop) :
    t.firstLoop pref = s.firstLoop pref := by
  unfold State.firstLoop
  rw [usable_congr (h pref), usable_congr (h (otherLoop pref)), h pref]

theorem retryLoop_congr {s t : State} (h : ∀ l, (t.loopLine l).state = (s.loopLine l).state) (ht : t.poller.timing = s.poller.timing)
    (pref prev : Loop) : t.retryLoop pref prev = s.retryLoop pref prev := by
  unfold State.retryLoop State.timing
  rw [ht, usable_congr (h (otherLoop prev)), firstLoop_congr h]

/-! ### Attempts (R64, R65) -/

/-- From `s` to `t` only the frames on the loops and the exchange in progress have changed. -/
structure AttemptOnly (s t : State) : Prop where
  rest : ∃ loops exch, t = { s with poller := { s.poller with loops := loops, exch := exch } }
  loops : ∀ l : Loop, (t.loopLine l).state = (s.loopLine l).state ∧ (t.loopLine l).fails = (s.loopLine l).fails ∧
    (t.loopLine l).probe = (s.loopLine l).probe

theorem attemptOnly_sendAttempt (e : Exchange) (s : State) : AttemptOnly s (s.sendAttempt e) := by
  rw [sendAttempt_eq]
  refine ⟨⟨_, _, rfl⟩, fun m => ?_⟩
  generalize s.attemptLoop e = l
  generalize hp : ({ s.poller with loops := _, exch := _ } : Poller) = p
  rw [loopLine_upd s p (by rw [← hp]) m]
  split
  · next h => subst h; exact ⟨rfl, rfl, rfl⟩
  · exact ⟨rfl, rfl, rfl⟩

theorem sendAttempt_exch (e : Exchange) (s : State) :
    ∃ ph, (s.sendAttempt e).poller.exch = some { e with loop := s.attemptLoop e, phase := ph } := by
  rw [sendAttempt_eq]
  exact ⟨_, rfl⟩

/-- The state with a station's exchange taken off the list. -/
def State.listed (rest : List Station) (s : State) : State := { s with poller := { s.poller with todo := rest } }

theorem proceed_begin {s : State} {st : Station} {rest : List Station} {copy : Vector StationEntry 16}
    (ht : s.poller.todo = st :: rest) (hc : s.poller.copy = some copy) :
    s.proceed = (s.listed rest).beginExchange st copy[st] := by
  unfold State.proceed
  rw [ht, hc]
  rfl

theorem proceed_close {s : State} (h : s.poller.todo = []) : s.proceed = s.closeByLastOutcome := by
  unfold State.proceed
  rw [h]

/-- R63, R64: an exchange that has not made its first attempt. -/
def StationEntry.firstExchange (st : Station) (e : StationEntry) : Exchange :=
  { station := st, addr := e.addr, pref := e.loop, made := 1, loop := e.loop, phase := .queued, earlier := [] }

theorem beginExchange_eq (st : Station) (e : StationEntry) (s : State) :
    s.beginExchange st e = s.sendAttempt (e.firstExchange st) := rfl

/-- R63, R64: the exchange of a listed station begun. -/
theorem beginExchange_begins (copy : Vector StationEntry 16) (st : Station) (s : State) :
    (s.beginExchange st copy[st]).BeginsExchange copy st s.poller.todo := by
  rw [beginExchange_eq]
  have h := attemptOnly_sendAttempt (copy[st].firstExchange st) s
  obtain ⟨ph, hx⟩ := sendAttempt_exch (copy[st].firstExchange st) s
  have hl : s.attemptLoop (copy[st].firstExchange st) = s.firstLoop copy[st].loop := rfl
  rw [hl] at hx
  obtain ⟨loops, exch, hr⟩ := h.rest
  have hfirst := firstLoop_congr (fun l => (h.loops l).1) copy[st].loop
  refine ⟨by rw [hr], _, hx, ?_⟩
  rw [← hfirst]
  exact ⟨rfl, rfl, rfl, rfl, rfl, rfl⟩

/-! ### A loop's values (R76) -/

theorem modLoop_poller (l : Loop) (f : LoopLine → LoopLine) (s : State) :
    (s.modLoop l f).poller = (s.setLoop l (f (s.loopLine l))).poller := by
  unfold State.modLoop
  exact (reportLoop_keeps _ _).2.2.2.2.2.1

theorem modLoop_loopLine (l : Loop) (f : LoopLine → LoopLine) (s : State) (m : Loop) :
    (s.modLoop l f).loopLine m = if m = l then f (s.loopLine l) else s.loopLine m := by
  have h := loopLine_setLoop l m (f (s.loopLine l)) s
  rw [← h]
  exact congrArg (fun p : Poller => p.loops[loopIx m]) (modLoop_poller l f s)

/-- R76: a loop after a failed attempt. -/
theorem failed_fields (v : LoopLine) :
    v.failed.fails = (if v.state = .testing then v.fails else min 255 (v.fails + 1)) ∧
      v.failed.state =
        if v.state = .testing then .testing
        else if min 255 (v.fails + 1) = 3 ∧ v.state = .good then .suspect
        else if min 255 (v.fails + 1) = 8 ∧ v.state = .suspect then .down
        else v.state := by
  unfold LoopLine.failed
  by_cases h : v.state = .testing
  · rw [if_pos h, if_pos h, if_pos h]
    exact ⟨rfl, h⟩
  · rw [if_neg h, if_neg h, if_neg h]
    dsimp only
    split_ifs <;> exact ⟨rfl, rfl⟩

theorem answered_fields {v : LoopLine} (h : v.state ≠ .testing) : v.answered.fails = 0 ∧ v.answered.state = .good := by
  unfold LoopLine.answered
  rw [if_neg h]
  exact ⟨rfl, rfl⟩

theorem probed_fields (v : LoopLine) :
    v.probed.fails = v.fails ∧ v.probed.state = v.state ∧ (v.state ≠ .testing → v.probed.probe = 10) := by
  unfold LoopLine.probed
  by_cases h : v.state = .testing
  · rw [if_pos h]; exact ⟨rfl, rfl, fun g => absurd h g⟩
  · rw [if_neg h]; exact ⟨rfl, rfl, fun _ => rfl⟩

/-! ### The end of an exchange (R68) -/

/-- R68: from `s` to `u` the exchange `e` has ended with the outcome `o`, the loop `l` having become as `v` gives it; which station's
exchange is then in progress is left open. -/
structure Recorded (s : State) (l : Loop) (v : LoopLine) (e : Exchange) (o : SecondOutcome) (u : State) : Prop where
  fails : (u.loopLine l).fails = v.fails
  state : (u.loopLine l).state = v.state
  settled : u.poller.settled = (e.station, e.addr) :: s.poller.settled
  acc : u.acc =
    { s.acc with
      accts := upd s.acc.accts e.station (s.accountOf e.station o)
      advanced := upd s.acc.advanced e.station true
      ambient := s.acc.ambient.collect e.station (s.sampleOf e.station o) }
  becomes : s.BecomesState u e.station (s.stateOf e.station o)
  states : u.poller.states = upd s.poller.states e.station (s.stateOf e.station o)
  roundOpen : u.poller.roundOpen = s.poller.roundOpen
  copy : u.poller.copy = s.poller.copy
  run : u.run = s.run
  clock : u.clock = s.clock
  walker : u.walker = s.walker
  book : u.book = s.book
  scanner : u.scanner = s.scanner

/-- What an exchange's end records, the sending of the next attempt keeps. -/
theorem Recorded.attempt {s u t : State} {l : Loop} {v : LoopLine} {e : Exchange} {o : SecondOutcome} (h : Recorded s l v e o u)
    (ht : AttemptOnly u t) : Recorded s l v e o t := by
  obtain ⟨hstate, hfails, -⟩ := ht.loops l
  obtain ⟨loops, exch, rfl⟩ := ht.rest
  exact ⟨hfails.trans h.fails, hstate.trans h.state, h.settled, h.acc,
    BecomesState_congr h.becomes rfl rfl rfl rfl rfl rfl rfl rfl, h.states, h.roundOpen, h.copy, h.run, h.clock, h.walker, h.book,
    h.scanner⟩

theorem accountOf_congr {s t : State} (ha : t.acc = s.acc) (hb : t.book = s.book) (hg : t.gain.cfg = s.gain.cfg) (st : Station)
    (o : SecondOutcome) : t.accountOf st o = s.accountOf st o := by
  unfold State.accountOf State.sampleOf
  dsimp only
  rw [ha]
  split
  · exact computed_congr hb (by rw [ha]) hg _ _ _
  · rfl

/-- R68: the record of an exchange's end, before the round goes on. -/
def State.endRecord (l : Loop) (f : LoopLine → LoopLine) (e : Exchange) (o : SecondOutcome) (s : State) : State :=
  ((s.modLoop l f).settle e).takeOutcome e.station o

theorem endExchange_eq (l : Loop) (f : LoopLine → LoopLine) (e : Exchange) (o : SecondOutcome) (s : State) :
    (s.modLoop l f).endExchange e o = (s.endRecord l f e o).proceed := rfl

theorem endRecord_recorded {s : State} (hr : s.run.state = .running) {e : Exchange} (hadv : s.acc.advanced[e.station] = false) (l : Loop)
    (f : LoopLine → LoopLine) (o : SecondOutcome) :
    Recorded s l (f (s.loopLine l)) e o (s.endRecord l f e o) ∧ (s.endRecord l f e o).poller.exch = none ∧
      (s.endRecord l f e o).poller.todo = s.poller.todo := by
  unfold State.endRecord
  have hkeep := modLoop_keeps l f s
  have hpoll := modLoop_poller l f s
  have hline := modLoop_loopLine l f s l
  rw [if_pos rfl] at hline
  generalize s.modLoop l f = t at *
  obtain ⟨hrun, hclock, -, hacc, hgain, -, hwalker, hbook, hscan, -⟩ := hkeep
  have hadv' : (t.settle e).acc.advanced[e.station] = false := by
    rw [(settle_keeps e t).2.2.2.2.1, hacc]; exact hadv
  have hu := takeOutcome_poller hadv' o
  have ha := takeOutcome_acc hadv' o
  have hb := takeOutcome_becomes (by rw [(settle_keeps e t).1, hrun]; exact hr) hadv' o
  have hstate : (t.settle e).stateOf e.station o = s.stateOf e.station o := by
    unfold State.stateOf State.settle
    dsimp only
    rw [hacc, hpoll]
    rfl
  have hsample : (t.settle e).sampleOf e.station o = s.sampleOf e.station o := by
    unfold State.sampleOf State.settle
    dsimp only
    rw [hacc]
  have haccount : (t.settle e).accountOf e.station o = s.accountOf e.station o :=
    accountOf_congr hacc hbook (congrArg GainAllocator.cfg hgain) _ _
  rw [haccount, hsample, (settle_keeps e t).2.2.2.2.1, hacc] at ha
  rw [hstate] at hb hu
  obtain ⟨krun, kclock, -, kwalker, kbook, kscan, -⟩ := takeOutcome_keeps e.station o (t.settle e)
  have hp : (t.settle e).poller =
      { s.poller with
        loops := t.poller.loops, exch := none, settled := (e.station, e.addr) :: s.poller.settled } := by
    unfold State.settle
    dsimp only
    rw [hpoll]
    rfl
  rw [hp] at hu
  have hl : ((t.settle e).takeOutcome e.station o).loopLine l = f (s.loopLine l) := by
    rw [← hline]
    unfold State.loopLine
    rw [hu]
  have hbec := BecomesState_congr (s' := s) (t' := (t.settle e).takeOutcome e.station o) hb (by rw [hp]) hgain.symm rfl rfl rfl rfl rfl rfl
  generalize (t.settle e).takeOutcome e.station o = u at *
  refine ⟨⟨by rw [hl], by rw [hl], by rw [hu], ha, hbec, by rw [hu], by rw [hu], by rw [hu], krun.trans hrun, kclock.trans hclock,
    kwalker.trans hwalker, kbook.trans hbook, kscan.trans hscan⟩, by rw [hu], by rw [hu]⟩

/-- R63, R68: with a station listed, its exchange begins. -/
theorem endExchange_next {s : State} (hr : s.run.state = .running) {e : Exchange} (hadv : s.acc.advanced[e.station] = false) (l : Loop)
    (f : LoopLine → LoopLine) (o : SecondOutcome) {nx : Station} {rest : List Station} {copy : Vector StationEntry 16}
    (ht : s.poller.todo = nx :: rest) (hc : s.poller.copy = some copy) :
    Recorded s l (f (s.loopLine l)) e o ((s.modLoop l f).endExchange e o) ∧
      ((s.modLoop l f).endExchange e o).BeginsExchange copy nx rest := by
  obtain ⟨hrec, -, htodo⟩ := endRecord_recorded hr hadv l f o
  rw [endExchange_eq]
  generalize s.endRecord l f e o = u at *
  rw [proceed_begin (htodo.trans ht) (hrec.copy.trans hc)]
  refine ⟨?_, beginExchange_begins copy nx (u.listed rest)⟩
  have hlisted : Recorded s l (f (s.loopLine l)) e o (u.listed rest) :=
    ⟨hrec.fails, hrec.state, hrec.settled, hrec.acc, BecomesState_congr hrec.becomes rfl rfl rfl rfl rfl rfl rfl rfl, hrec.states,
      hrec.roundOpen, hrec.copy, hrec.run, hrec.clock, hrec.walker, hrec.book, hrec.scanner⟩
  exact hlisted.attempt (attemptOnly_sendAttempt _ _)

/-- R68, R69: with none listed, the round closes by last outcome. -/
theorem endExchange_last {s : State} (hr : s.run.state = .running) {e : Exchange} (hadv : s.acc.advanced[e.station] = false) (l : Loop)
    (f : LoopLine → LoopLine) (o : SecondOutcome) (ht : s.poller.todo = []) :
    ∃ u, (s.modLoop l f).endExchange e o = u.closeByLastOutcome ∧ Recorded s l (f (s.loopLine l)) e o u ∧ u.poller.exch = none ∧
      u.poller.todo = [] := by
  obtain ⟨hrec, hexch, htodo⟩ := endRecord_recorded hr hadv l f o
  rw [endExchange_eq]
  exact ⟨_, proceed_close (htodo.trans ht), hrec, hexch, htodo.trans ht⟩

/-- What the record keeps of the other stations. -/
theorem Recorded.others {s u : State} {l : Loop} {v : LoopLine} {e : Exchange} {o : SecondOutcome} (h : Recorded s l v e o u)
    {x : Station} (hx : x ≠ e.station) :
    u.acc.accts[x] = s.acc.accts[x] ∧ u.poller.states[x] = s.poller.states[x] := by
  rw [h.acc, h.states]
  exact ⟨upd_other _ _ _ _ hx, upd_other _ _ _ _ hx⟩

/-! ### The end of a probe (R78) -/

/-- R78: the probe's loop takes the result; the probe due next begins. -/
theorem endProbe_probes (b : Probe) (f : LoopLine → LoopLine) (s : State) :
    s.ProbeGoesOn (s.endProbe b f) ∧
      ((s.endProbe b f).loopLine b.loop).fails = (f (s.loopLine b.loop)).fails ∧
      ((s.endProbe b f).loopLine b.loop).state = (f (s.loopLine b.loop)).state ∧
      ((f (s.loopLine b.loop)).state ≠ .testing → ((s.endProbe b f).loopLine b.loop).probe = 10) ∧
      (s.endProbe b f).poller.states = s.poller.states := by
  unfold State.endProbe
  dsimp only
  have hpoll := modLoop_poller b.loop (fun v => (f v).probed) { s with poller := { s.poller with probe := none } }
  have hline := modLoop_loopLine b.loop (fun v => (f v).probed) { s with poller := { s.poller with probe := none } } b.loop
  rw [if_pos rfl] at hline
  generalize State.modLoop b.loop (fun v => (f v).probed) { s with poller := { s.poller with probe := none } } = t at *
  have hl : t.loopLine b.loop = (f (s.loopLine b.loop)).probed := hline
  obtain ⟨hprobe, hdue, hcopy, hstates⟩ : t.poller.probe = none ∧ t.poller.probeDue = s.poller.probeDue ∧
      t.poller.copy = s.poller.copy ∧ t.poller.states = s.poller.states := by
    rw [hpoll]; exact ⟨rfl, rfl, rfl, rfl⟩
  have hb := probesOnly_beginProbe t
  obtain ⟨h1, h2, h3⟩ := hb.loops b.loop
  obtain ⟨-, -, hs, -⟩ := round_iff.1 hb.round
  obtain ⟨p1, p2, p3⟩ := probed_fields (f (s.loopLine b.loop))
  rw [h1, h2, h3, hl, hs, p1, p2]
  refine ⟨⟨fun hd => ?_, fun m copy st hd hm hc he hlow => ?_⟩, rfl, rfl, p3, hstates⟩
  · have hnone : t.downDue = [] := by unfold State.downDue; rw [hdue, hd]; rfl
    rw [beginProbe_none (.inl hnone)]
    exact hprobe
  · have hdown : t.downDue = [m] := by
      rw [(hb.loops m).1] at hm
      unfold State.downDue
      rw [hdue, hd, List.filter_cons, if_pos (decide_eq_true hm), List.filter_nil]
    rw [beginProbe_some hdown (probeStation_least (hcopy.trans hc) he hlow)]
    exact ⟨_, rfl, rfl, rfl, rfl, rfl⟩

end Sys2Proof.Machine

/-! O48 and O49: what a failed attempt, a failed probe and a valid reply do. -/

namespace Sys2Proof.Machine

/-! ### Which commands fail a wait (R58, R65) -/

theorem awaits_of {ph : AttemptPhase} (h : ph = .waiting ∨ ph = .expired) : ph.awaits = true := by
  rcases h with rfl | rfl <;> rfl

section

variable {s : State} {l : Loop} (hl : s.poller.loopedBack l = none) (ht : (s.loopLine l).tx = none)

include hl ht

theorem loopFrame_exchange {e : Exchange} (he : s.poller.exch = some e) (bytes : List Byte) :
    s.loopFrame l bytes = s.frameAtExchange l e (s.poller.judge e.addr bytes) := by
  unfold State.loopFrame
  rw [hl, ht, he]
  rfl

theorem loopFrame_probe {b : Probe} (he : s.poller.exch = none) (hb : s.poller.probe = some b) (bytes : List Byte) :
    s.loopFrame l bytes = s.frameAtProbe l b (s.poller.judge b.addr bytes) := by
  unfold State.loopFrame
  rw [hl, ht, he, hb]
  rfl

theorem stray_ignored_exchange {e : Exchange} (he : s.poller.exch = some e) (hloop : e.loop = l) (hp : e.phase = .waiting)
    {bytes : List Byte} (h : s.poller.strayFor e.addr bytes) : exec (.loopFrameReceived l bytes) s = .next s := by
  have hx : s.loopFrame l bytes = s := by
    rw [loopFrame_exchange hl ht he, judge_stray h]
    unfold State.frameAtExchange
    rw [if_pos hloop, hp]
    rfl
  exact congrArg Host.Outcome.next hx

theorem stray_ignored_probe {b : Probe} (he : s.poller.exch = none) (hb : s.poller.probe = some b) (hloop : b.loop = l)
    (hp : b.phase = .waiting) {bytes : List Byte} (h : s.poller.strayFor b.addr bytes) :
    exec (.loopFrameReceived l bytes) s = .next s := by
  have hx : s.loopFrame l bytes = s := by
    rw [loopFrame_probe hl ht he hb, judge_stray h]
    unfold State.frameAtProbe
    rw [if_pos ⟨hloop, awaits_of (.inl hp)⟩, hp]
    rfl
  exact congrArg Host.Outcome.next hx

/-- R65: a frame that does not answer the attempt fails it. -/
theorem frame_fails_exchange {e : Exchange} (he : s.poller.exch = some e) (hloop : e.loop = l)
    (hp : e.phase = .waiting ∨ e.phase = .expired) {bytes : List Byte}
    (h : s.poller.invalidFor e.addr bytes ∨ (e.phase = .expired ∧ s.poller.strayFor e.addr bytes)) :
    s.loopFrame l bytes = s.failAttempt e := by
  rw [loopFrame_exchange hl ht he]
  unfold State.frameAtExchange
  rw [if_pos hloop, if_pos (awaits_of hp)]
  rcases h with h | ⟨hx, h⟩
  · rw [judge_invalid h]
  · rw [judge_stray h]
    exact if_pos hx

theorem frame_fails_probe {b : Probe} (he : s.poller.exch = none) (hb : s.poller.probe = some b) (hloop : b.loop = l)
    (hp : b.phase = .waiting ∨ b.phase = .expired) {bytes : List Byte}
    (h : s.poller.invalidFor b.addr bytes ∨ (b.phase = .expired ∧ s.poller.strayFor b.addr bytes)) :
    s.loopFrame l bytes = s.endProbe b LoopLine.failed := by
  rw [loopFrame_probe hl ht he hb]
  unfold State.frameAtProbe
  rw [if_pos ⟨hloop, awaits_of hp⟩]
  rcases h with h | ⟨hx, h⟩
  · rw [judge_invalid h]
  · rw [judge_stray h]
    exact if_pos hx

theorem exec_failsWait_exchange {e : Exchange} (he : s.poller.exch = some e) (hloop : e.loop = l)
    (hp : e.phase = .waiting ∨ e.phase = .expired) {cmd : Instr} (h : s.poller.failsWait l e.addr e.phase cmd) :
    exec cmd s = .next (s.failAttempt e) := by
  rcases h with ⟨hw, rfl⟩ | rfl | ⟨bytes, rfl, h⟩
  · have hx : s.replyExpiry l false = s.failAttempt e := by
      unfold State.replyExpiry
      rw [he]
      exact if_pos ⟨hloop, hw⟩
    exact congrArg Host.Outcome.next hx
  · exact congrArg Host.Outcome.next (frame_fails_exchange hl ht he hloop hp (.inl (.inl parseSecond_nil)))
  · exact congrArg Host.Outcome.next (frame_fails_exchange hl ht he hloop hp h)

theorem exec_failsWait_probe {b : Probe} (he : s.poller.exch = none) (hb : s.poller.probe = some b) (hloop : b.loop = l)
    (hp : b.phase = .waiting ∨ b.phase = .expired) {cmd : Instr} (h : s.poller.failsWait l b.addr b.phase cmd) :
    exec cmd s = .next (s.endProbe b LoopLine.failed) := by
  rcases h with ⟨hw, rfl⟩ | rfl | ⟨bytes, rfl, h⟩
  · have hx : s.replyExpiry l false = s.endProbe b LoopLine.failed := by
      unfold State.replyExpiry
      rw [he, hb]
      exact if_pos ⟨hloop, hw⟩
    exact congrArg Host.Outcome.next hx
  · exact congrArg Host.Outcome.next (frame_fails_probe hl ht he hb hloop hp (.inl (.inl parseSecond_nil)))
  · exact congrArg Host.Outcome.next (frame_fails_probe hl ht he hb hloop hp h)

end

theorem expiry_waits_exchange {s : State} {l : Loop} {e : Exchange} (he : s.poller.exch = some e) (hloop : e.loop = l)
    (hp : e.phase = .waiting) :
    exec (.replyTimeout l true) s =
      .next { s with poller := { s.poller with exch := some { e with phase := .expired } } } := by
  have hx : s.replyExpiry l true = { s with poller := { s.poller with exch := some { e with phase := .expired } } } := by
    unfold State.replyExpiry
    rw [he]
    exact if_pos ⟨hloop, hp⟩
  exact congrArg Host.Outcome.next hx

theorem expiry_waits_probe {s : State} {l : Loop} {b : Probe} (he : s.poller.exch = none) (hb : s.poller.probe = some b)
    (hloop : b.loop = l) (hp : b.phase = .waiting) :
    exec (.replyTimeout l true) s =
      .next { s with poller := { s.poller with probe := some { b with phase := .expired } } } := by
  have hx : s.replyExpiry l true = { s with poller := { s.poller with probe := some { b with phase := .expired } } } := by
    unfold State.replyExpiry
    rw [he, hb]
    exact if_pos ⟨hloop, hp⟩
  exact congrArg Host.Outcome.next hx

/-! ### A failed attempt (R65, R66, R76) -/

theorem failAttempt_eq (e : Exchange) (s : State) :
    s.failAttempt e =
      if e.made < s.timing.retries + 1 then (s.modLoop e.loop LoopLine.failed).retry e
      else (s.modLoop e.loop LoopLine.failed).endExchange e .missing := by
  have h : (s.modLoop e.loop LoopLine.failed).timing = s.timing := by
    unfold State.timing
    rw [modLoop_poller, setLoop_poller_timing]
  unfold State.failAttempt
  dsimp only
  rw [h]

/-- R76: the count of a failed attempt on a loop. -/
theorem counted_of {v w : LoopLine} (hf : w.fails = v.failed.fails) (hs : w.state = v.failed.state) :
    if v.state = .testing then w.fails = v.fails ∧ w.state = .testing
    else
      w.fails = min 255 (v.fails + 1) ∧
        w.state =
          if min 255 (v.fails + 1) = 3 ∧ v.state = .good then .suspect
          else if min 255 (v.fails + 1) = 8 ∧ v.state = .suspect then .down else v.state := by
  obtain ⟨h1, h2⟩ := failed_fields v
  rw [hf, hs, h1, h2]
  split
  · exact ⟨rfl, rfl⟩
  · exact ⟨rfl, rfl⟩

/-- R64, R66: the retry. -/
theorem retry_outcome (s : State) (e : Exchange) (f : LoopLine → LoopLine) :
    let t := (s.modLoop e.loop f).retry e
    ((t.loopLine e.loop).fails = (f (s.loopLine e.loop)).fails ∧ (t.loopLine e.loop).state = (f (s.loopLine e.loop)).state) ∧
      ∃ e2, t.poller.exch = some e2 ∧ e2.station = e.station ∧ e2.addr = e.addr ∧ e2.pref = e.pref ∧ e2.made = e.made + 1 ∧
        e2.earlier = e.loop :: e.earlier ∧ e2.loop = t.retryLoop e.pref e.loop ∧ t.poller.todo = s.poller.todo ∧
        t.poller.states = s.poller.states ∧ t.acc = s.acc ∧ t.gain = s.gain ∧ t.links = s.links ∧ t.walker = s.walker ∧
        t.clock = s.clock := by
  dsimp only
  have hpoll := modLoop_poller e.loop f s
  have hline := modLoop_loopLine e.loop f s e.loop
  obtain ⟨-, hclock, -, hacc, hgain, hlinks, hwalker, -⟩ := modLoop_keeps e.loop f s
  rw [if_pos rfl] at hline
  generalize s.modLoop e.loop f = u at *
  unfold State.retry
  generalize he : ({ e with made := e.made + 1, earlier := e.loop :: e.earlier } : Exchange) = r
  have hl : u.attemptLoop r = u.retryLoop e.pref e.loop := by rw [← he]; rfl
  have h := attemptOnly_sendAttempt r u
  obtain ⟨ph, hx⟩ := sendAttempt_exch r u
  rw [hl] at hx
  obtain ⟨loops, exch, hr⟩ := h.rest
  have hretry : (u.sendAttempt r).retryLoop e.pref e.loop = u.retryLoop e.pref e.loop :=
    retryLoop_congr (fun l => (h.loops l).1) (by rw [hr]) _ _
  obtain ⟨h1, h2, -⟩ := h.loops e.loop
  refine ⟨⟨by rw [h2, hline], by rw [h1, hline]⟩, _, hx, ?_⟩
  rw [hretry, hr, ← he]
  refine ⟨rfl, rfl, rfl, rfl, rfl, rfl, ?_, ?_, hacc, hgain, hlinks, hwalker, hclock⟩
  · exact (congrArg Poller.todo hpoll).trans rfl
  · exact (congrArg Poller.states hpoll).trans rfl

/-! ### What is stored (R10 to R13) -/

theorem counted_iff (m : Mark) : m.counted = true ↔ m = .present ∨ m = .held ∨ m = .primed := by
  cases m <;> decide

/-- R12: the sample of a missing second. -/
theorem sampleOf_missing (s : State) (st : Station) :
    let last := sampleAt s.acc.accts[st].ring 0
    let held := min 65535 (s.acc.accts[st].missing + 1) ≤ 3 ∧ (last.mark = .present ∨ last.mark = .held ∨ last.mark = .primed)
    (held → s.sampleOf st .missing = { last with mark := .held }) ∧
      (¬ held → s.sampleOf st .missing = { mark := .absent, eA := 0, eC := 0 }) := by
  dsimp only
  rw [← counted_iff]
  exact ⟨fun h => if_pos h, fun h => if_neg h⟩

theorem collect_of_ne_present {x : Sample} (h : x.mark ≠ .present) (st : Station) (m : Ambient) : m.collect st x = m :=
  if_neg fun hx => h hx.2.2

theorem sampleOf_missing_mark (s : State) (st : Station) {o : SecondOutcome} (h : o.cls = .missing) :
    (s.sampleOf st o).mark ≠ .present := by
  unfold State.sampleOf sampleFor
  rw [h]
  dsimp only
  split
  · simp
  · simp [Sample.unwritten]

/-- R12, R13, R72, R76: what the end of an exchange by its last failed attempt records. -/
theorem Recorded.missed {s u : State} {e : Exchange} (hu : Recorded s e.loop (s.loopLine e.loop).failed e .missing u) :
    let a := s.acc.accts[e.station]
    let last := sampleAt a.ring 0
    let missing := min 65535 (a.missing + 1)
    let held := missing ≤ 3 ∧ (last.mark = .present ∨ last.mark = .held ∨ last.mark = .primed)
    u.acc.advanced[e.station] = true ∧ u.acc.accts[e.station].missing = missing ∧
      (∃ x, u.acc.accts[e.station].ring = (x :: a.ring).take 900 ∧ (held → x = { last with mark := .held }) ∧
        (¬ held → x = { mark := .absent, eA := 0, eC := 0 })) ∧
      s.BecomesState u e.station (stateMissed missing s.poller.states[e.station]) ∧ u.acc.ambient = s.acc.ambient := by
  obtain ⟨hheld, habsent⟩ := sampleOf_missing s e.station
  obtain ⟨hring, hmiss⟩ := accountOf_ring s e.station .missing
  have hbec := hu.becomes
  rw [stateOf_missing] at hbec
  have haccount : u.acc.accts[e.station] = s.accountOf e.station .missing := by rw [hu.acc]; exact upd_same _ _ _
  dsimp only
  rw [haccount]
  refine ⟨by rw [hu.acc]; exact upd_same _ _ _, hmiss, ⟨_, hring, hheld, habsent⟩, hbec, ?_⟩
  rw [hu.acc]
  exact collect_of_ne_present (sampleOf_missing_mark s _ rfl) _ _

/-- Settles O48. -/
theorem failedAttemptIsRetried : Obligations.FailedAttemptIsRetried := by
  intro s l hl ht
  refine ⟨fun e he hloop hp => ⟨fun hw => ?_, fun cmd hcmd => ?_⟩, fun b he hb hloop hp => ⟨fun hw => ?_, fun cmd hcmd hdown => ?_⟩⟩
  · exact ⟨expiry_waits_exchange he hloop hw, fun bytes h => stray_ignored_exchange hl ht he hloop hw h⟩
  · have hx := exec_failsWait_exchange hl ht he hloop hp hcmd
    rw [failAttempt_eq] at hx
    subst hloop
    refine ⟨fun hmade => ?_, fun hmade hr hadv => ?_⟩
    · rw [if_pos hmade] at hx
      obtain ⟨⟨hf, hs⟩, e2, hrest⟩ := retry_outcome s e LoopLine.failed
      exact ⟨_, e2, hx, counted_of hf hs, hrest⟩
    · rw [if_neg hmade] at hx
      refine ⟨fun nx rest copy htodo hcopy => ?_, fun htodo => ?_⟩
      · obtain ⟨hrec, hbegin⟩ := endExchange_next hr hadv e.loop LoopLine.failed .missing htodo hcopy
        obtain ⟨h1, h2, h3, h4, h5⟩ := hrec.missed
        exact ⟨_, hx, ⟨counted_of hrec.fails hrec.state, hrec.settled, h1, h2, h3, h4, fun o ho => hrec.others ho, h5, hrec.roundOpen,
          hrec.copy, hrec.run, hrec.clock, hrec.walker, hrec.book, hrec.scanner⟩, hbegin⟩
      · obtain ⟨u, hu, hrec, hexch, hlist⟩ := endExchange_last hr hadv e.loop LoopLine.failed .missing htodo
        obtain ⟨h1, h2, h3, h4, h5⟩ := hrec.missed
        exact ⟨u, hx.trans (congrArg _ hu), ⟨counted_of hrec.fails hrec.state, hrec.settled, h1, h2, h3, h4,
          fun o ho => hrec.others ho, h5, hrec.roundOpen, hrec.copy, hrec.run, hrec.clock, hrec.walker, hrec.book, hrec.scanner⟩,
          hexch, hlist⟩
  · exact ⟨expiry_waits_probe he hb hloop hw, fun bytes h => stray_ignored_probe hl ht he hb hloop hw h⟩
  · have hx := exec_failsWait_probe hl ht he hb hloop hp hcmd
    subst hloop
    obtain ⟨hon, hf, hs, hp10, hstates⟩ := endProbe_probes b LoopLine.failed s
    obtain ⟨-, hclock, -, hacc, hgain, hlinks, hwalker, -⟩ := endProbe_keeps b LoopLine.failed s
    obtain ⟨ff, fs⟩ := failed_fields (s.loopLine b.loop)
    rw [hdown, if_neg (by decide)] at ff fs
    rw [if_neg (fun h => nomatch h.2), if_neg (fun h => nomatch h.2)] at fs
    exact ⟨_, hx, hf.trans ff, hs.trans fs, hp10 (by rw [fs]; decide), hon, hstates, hacc, hgain, hlinks, hwalker, hclock⟩

end Sys2Proof.Machine

/-! O49: what a valid reply does. -/

namespace Sys2Proof.Machine

/-! ### The record stored (R9 to R13, R28, R151) -/

/-- R9: the class of a record with SFAULT, and of one without. -/
theorem recordOf_cls_fault {flags : Nat} (h : bit flags 3 = true) (eA eC : Nat) : (recordOf flags eA eC).cls = .missing := by
  unfold recordOf SecondOutcome.cls
  rw [h]
  rfl

theorem recordOf_cls_sound {flags : Nat} (h : bit flags 3 = false) (eA eC : Nat) : (recordOf flags eA eC).cls ≠ .missing := by
  unfold recordOf SecondOutcome.cls
  rw [h]
  dsimp only
  rw [if_neg Bool.false_ne_true]
  split
  · simp
  · split <;> simp

theorem missingAfter_sound {c : OutcomeClass} (h : c ≠ .missing) (n : Nat) : missingAfter c n = 0 := by
  cases c with
  | missing => exact absurd rfl h
  | excluded => rfl
  | overloaded => rfl
  | plain => rfl

/-- R10, R11: the sample of a record without SFAULT. -/
theorem sampleOf_sound {flags : Nat} (h : bit flags 3 = false) (s : State) (st : Station) (eA eC : Nat) :
    s.sampleOf st (recordOf flags eA eC) =
      if bit flags 0 = true ∨ bit flags 1 = true then { mark := .excluded, eA := 0, eC := 0 }
      else if bit flags 2 = true then { mark := .present, eA := 4294967295, eC := 4294967295 }
      else { mark := .present, eA := eA, eC := eC } := by
  unfold State.sampleOf sampleFor recordOf SecondOutcome.cls
  rw [h]
  cases bit flags 0 <;> cases bit flags 1 <;> cases bit flags 2 <;> rfl

/-- R28: the computation that follows the store of a PRESENT sample. -/
theorem accountOf_computed {s : State} {st : Station} {o : SecondOutcome} {r : BookRecord} (hr : s.bookRecord st = some r)
    (hp : (s.sampleOf st o).mark = .present) :
    let x := s.sampleOf st o
    let b := s.acc.accts[st].advance s.acc.w x
    let v := s.accountOf st o
    v.a = b.a.compute b.n x.eA r.pLimA s.book.ambA[st] s.acc.h s.acc.k ∧
      v.c = b.c.compute b.n x.eC r.pLimC s.book.ambC[st] s.acc.h s.acc.k ∧ v.qs = min v.a.q v.c.q ∧
      v.gs = stageDemand v.qs (s.reducibleShare st) := by
  dsimp only
  unfold State.accountOf State.computed
  dsimp only
  rw [if_pos (by rw [hp]; rfl), hr]
  exact ⟨rfl, rfl, rfl, rfl⟩

/-- What the end of an exchange by a valid reply records of the station. -/
theorem Recorded.answered {s u : State} {l : Loop} {e : Exchange} {flags eA eC : Nat}
    (hu : Recorded s l (s.loopLine l).answered e (recordOf flags eA eC) u) :
    let a := s.acc.accts[e.station]
    let missing := min 65535 (a.missing + 1)
    u.acc.advanced[e.station] = true ∧
      (∃ x, u.acc.accts[e.station].ring = (x :: a.ring).take 900 ∧
        (if bit flags 3 then
          u.acc.accts[e.station].missing = missing ∧ s.BecomesState u e.station (stateMissed missing s.poller.states[e.station])
        else
          u.acc.accts[e.station].missing = 0 ∧ s.BecomesState u e.station .live ∧
            x = if bit flags 0 ∨ bit flags 1 then { mark := .excluded, eA := 0, eC := 0 }
              else if bit flags 2 then { mark := .present, eA := 4294967295, eC := 4294967295 }
              else { mark := .present, eA := eA, eC := eC }) ∧
        (∀ r, s.bookRecord e.station = some r → x.mark = .present →
          let b := a.advance s.acc.w x
          let v := u.acc.accts[e.station]
          v.a = b.a.compute b.n x.eA r.pLimA s.book.ambA[e.station] s.acc.h s.acc.k ∧
            v.c = b.c.compute b.n x.eC r.pLimC s.book.ambC[e.station] s.acc.h s.acc.k ∧
            v.qs = min v.a.q v.c.q ∧ v.gs = stageDemand v.qs (s.reducibleShare e.station)) ∧
        u.acc.ambient = s.acc.ambient.collect e.station x) := by
  have haccount : u.acc.accts[e.station] = s.accountOf e.station (recordOf flags eA eC) := by rw [hu.acc]; exact upd_same _ _ _
  obtain ⟨hring, hmiss⟩ := accountOf_ring s e.station (recordOf flags eA eC)
  have hbec := hu.becomes
  unfold State.stateOf at hbec
  dsimp only
  rw [haccount]
  refine ⟨by rw [hu.acc]; exact upd_same _ _ _, _, hring, ?_, fun r hr hp => accountOf_computed hr hp, by rw [hu.acc]⟩
  rw [hmiss]
  cases h : bit flags 3 with
  | true =>
    rw [recordOf_cls_fault h] at hbec ⊢
    rw [if_pos rfl]
    refine ⟨rfl, ?_⟩
    rw [← stateOf_missing]
    exact hbec
  | false =>
    rw [missingAfter_sound (recordOf_cls_sound h eA eC)] at hbec ⊢
    rw [if_neg Bool.false_ne_true]
    exact ⟨rfl, hbec, sampleOf_sound h s e.station eA eC⟩

/-! ### The reply taken (R58, R67, R78) -/

theorem frame_answers_exchange {s : State} {l : Loop} (hl : s.poller.loopedBack l = none) (ht : (s.loopLine l).tx = none)
    {e : Exchange} (he : s.poller.exch = some e)
    (hw : (e.loop = l ∧ (e.phase = .waiting ∨ e.phase = .expired)) ∨ (e.loop ≠ l ∧ l ∈ e.earlier)) {bytes : List Byte}
    {o : SecondOutcome} (h : s.poller.judge e.addr bytes = .valid o) :
    exec (.loopFrameReceived l bytes) s = .next ((s.modLoop l LoopLine.answered).endExchange e o) := by
  have hx : s.loopFrame l bytes = (s.modLoop l LoopLine.answered).endExchange e o := by
    rw [loopFrame_exchange hl ht he, h]
    unfold State.frameAtExchange
    rcases hw with ⟨hloop, hp⟩ | ⟨hloop, hm⟩
    · rw [if_pos hloop, if_pos (awaits_of hp)]
    · rw [if_neg hloop, if_pos (List.contains_iff_mem.2 hm)]
  exact congrArg Host.Outcome.next hx

theorem frame_answers_probe {s : State} {l : Loop} (hl : s.poller.loopedBack l = none) (ht : (s.loopLine l).tx = none)
    {b : Probe} (he : s.poller.exch = none) (hb : s.poller.probe = some b) (hloop : b.loop = l)
    (hp : b.phase = .waiting ∨ b.phase = .expired) {bytes : List Byte} {o : SecondOutcome}
    (h : s.poller.judge b.addr bytes = .valid o) :
    exec (.loopFrameReceived l bytes) s = .next (s.endProbe b LoopLine.answered) := by
  have hx : s.loopFrame l bytes = s.endProbe b LoopLine.answered := by
    rw [loopFrame_probe hl ht he hb, h]
    unfold State.frameAtProbe
    rw [if_pos ⟨hloop, awaits_of hp⟩]
  exact congrArg Host.Outcome.next hx

/-- Settles O49. -/
theorem validReplyEndsTheExchange : Obligations.ValidReplyEndsTheExchange := by
  intro s l flags eA eC hl ht hflags hA hC
  refine ⟨fun e he hw hr hadv haddr => ?_, fun b he hb hloop hp haddr => ?_⟩
  · have hx := frame_answers_exchange hl ht he hw (judge_secondFrame haddr hflags hA hC)
    refine ⟨length_secondFrame _ _ _ _ _, fun nx rest copy htodo hcopy => ?_, fun htodo => ?_⟩
    · obtain ⟨hrec, hbegin⟩ := endExchange_next hr hadv l LoopLine.answered (recordOf flags eA eC) htodo hcopy
      have hgood := fun g => (answered_fields (v := s.loopLine l) g)
      rw [← hrec.fails, ← hrec.state] at hgood
      obtain ⟨h1, h2⟩ := hrec.answered
      exact ⟨_, hx, ⟨hgood, hrec.settled, h1, h2, fun o ho => hrec.others ho, hrec.roundOpen, hrec.copy, hrec.run, hrec.clock,
        hrec.walker, hrec.book, hrec.scanner⟩, hbegin⟩
    · obtain ⟨u, hu, hrec, hexch, hlist⟩ := endExchange_last hr hadv l LoopLine.answered (recordOf flags eA eC) htodo
      have hgood := fun g => (answered_fields (v := s.loopLine l) g)
      rw [← hrec.fails, ← hrec.state] at hgood
      obtain ⟨h1, h2⟩ := hrec.answered
      exact ⟨u, hx.trans (congrArg _ hu), ⟨hgood, hrec.settled, h1, h2, fun o ho => hrec.others ho, hrec.roundOpen, hrec.copy,
        hrec.run, hrec.clock, hrec.walker, hrec.book, hrec.scanner⟩, hexch, hlist⟩
  · have hx := frame_answers_probe hl ht he hb hloop hp (judge_secondFrame haddr hflags hA hC)
    subst hloop
    obtain ⟨hon, hf, hs, hp10, hstates⟩ := endProbe_probes b LoopLine.answered s
    obtain ⟨-, hclock, -, hacc, hgain, hlinks, hwalker, -⟩ := endProbe_keeps b LoopLine.answered s
    have hgood := fun g => (answered_fields (v := s.loopLine b.loop) g)
    rw [← hf, ← hs] at hgood
    refine ⟨_, hx, hgood, fun hn => hp10 ?_, hon, hstates, hacc, hgain, hlinks, hwalker, hclock⟩
    rw [(answered_fields hn).2]
    decide

end Sys2Proof.Machine

/-! SUPPORT. What a second event and a SET_STATION write in shared RAM: the notice queue, the slots and the fault record; the log, its
write index, the station table, the scan and the flags are left alone. -/

namespace Sys2Proof.Machine

/-- A byte of the notice queue, of a slot or of the fault record (Table 9-1). -/
def scratch (a : Nat) : Prop := inNoticeQueue a ∨ (0x1C00 ≤ a ∧ a < 0x2400) ∨ inFaultRecord a

/-- The RAM is canonical and holds what `m` held but for notices, slots and the fault record, and the log's write index, the scan
and the flags are those named. -/
structure State.Tidy (m : Memory) (i : BitVec 10) (scan : Option Scan) (flags : BitVec 8) (s : State) : Prop where
  wf : s.ram.wf = true
  keeps : keepsOutside scratch m s.ram
  writeIdx : s.log.writeIdx = i
  scan : s.scanner.scan = scan
  flags : s.scanner.flags = flags

/-! ### The log's write index -/

@[simp] theorem logSample_writeIdx (st : Station) (x : Sample) (s : State) : (s.logSample st x).log.writeIdx = s.log.writeIdx :=
  (logFrame_iff.1 (logSample_logFrame st x s)).1

@[simp] theorem logExceed_writeIdx (st : Station) (b : Bool) (s : State) : (s.logExceed st b).log.writeIdx = s.log.writeIdx := rfl

@[simp] theorem logClip_logFrame (k : Stage) (v : Nat) (s : State) : (s.logClip k v).log.frame = s.log.frame := by
  unfold State.logClip
  split
  · refine forStations_keeps (fun t => t.log.frame) _ (fun st t => ?_) s
    unfold State.foldCeiling
    split <;> rfl
  · rfl

@[simp] theorem logClip_writeIdx (k : Stage) (v : Nat) (s : State) : (s.logClip k v).log.writeIdx = s.log.writeIdx :=
  (logFrame_iff.1 (logClip_logFrame k v s)).1

namespace State.Tidy

variable {m : Memory} {i : BitVec 10} {scan : Option Scan} {flags : BitVec 8} {s t : State}

theorem congr (h : s.Tidy m i scan flags) (hr : t.ram = s.ram := by simp) (hl : t.log.writeIdx = s.log.writeIdx := by simp)
    (hs : t.scanner = s.scanner := by simp) : t.Tidy m i scan flags :=
  ⟨by rw [hr]; exact h.wf, by rw [hr]; exact h.keeps, hl.trans h.writeIdx, by rw [hs]; exact h.scan, by rw [hs]; exact h.flags⟩

/-! ### Notices and the log -/

theorem post (h : s.Tidy m i scan flags) (kind sub detail : Nat) : (s.post kind sub detail).Tidy m i scan flags := by
  refine ⟨?_, keepsOutside_trans h.keeps (keeps_post h.wf kind sub detail) (fun _ ha => ha) fun _ ha => .inl (inNextNotice_queue ha),
    by rw [← h.writeIdx]; simp, by rw [← h.scan]; simp, by rw [← h.flags]; simp⟩
  unfold State.post
  split
  · exact h.wf
  · exact wf_writeBytes h.wf _ _

theorem report (h : s.Tidy m i scan flags) (cls : CondClass) (sub : Fin 16) (now : Bool) (v : Nat) :
    (s.report cls sub now v).Tidy m i scan flags := by
  unfold State.report
  split
  · exact h
  · dsimp only
    split
    · refine post ?_ _ _ _
      exact h.congr rfl rfl rfl
    · exact h.congr rfl rfl rfl

theorem logSample (h : s.Tidy m i scan flags) (st : Station) (x : Sample) : (s.logSample st x).Tidy m i scan flags := h.congr

theorem logExceed (h : s.Tidy m i scan flags) (st : Station) (b : Bool) : (s.logExceed st b).Tidy m i scan flags := h.congr

theorem logClip (h : s.Tidy m i scan flags) (k : Stage) (v : Nat) : (s.logClip k v).Tidy m i scan flags := h.congr

theorem logClosure (h : s.Tidy m i scan flags) : s.logClosure.Tidy m i scan flags :=
  h.congr (by simp) (logClosure_frame s).1 (by simp)

theorem readOccupancy (h : s.Tidy m i scan flags) : s.readOccupancy.Tidy m i scan flags := by
  unfold State.readOccupancy
  refine State.Tidy.report ?_ _ _ _ _
  exact h.congr rfl rfl rfl

/-! ### Exposure Accumulator -/

theorem setAccount (h : s.Tidy m i scan flags) (st : Station) (a : Account) : (s.setAccount st a).Tidy m i scan flags := h.congr

theorem handExceed (h : s.Tidy m i scan flags) (st : Station) : (s.handExceed st).Tidy m i scan flags :=
  (h.report _ _ _ _).logExceed _ _

theorem stageFive (h : s.Tidy m i scan flags) (st : Station) : (s.stageFive st).Tidy m i scan flags :=
  (h.setAccount st _).report _ _ _ _

theorem compute (h : s.Tidy m i scan flags) (st : Station) (x : Sample) : (s.compute st x).Tidy m i scan flags := by
  unfold State.compute
  split
  · exact ((h.setAccount st _).handExceed st).stageFive st
  · exact h

theorem prime (h : s.Tidy m i scan flags) (st : Station) : (s.prime st).Tidy m i scan flags := h.congr

theorem advanceSilent (h : s.Tidy m i scan flags) (st : Station) : (s.advanceSilent st).Tidy m i scan flags :=
  h.congr (by simp) (logFrame_iff.1 (advanceSilent_logFrame st s)).1 (by simp)

theorem advanceRest (h : s.Tidy m i scan flags) : s.advanceRest.Tidy m i scan flags :=
  h.congr (by simp) (logFrame_iff.1 (advanceRest_logFrame s)).1 (by simp)

theorem advanceAll (h : s.Tidy m i scan flags) : s.advanceAll.Tidy m i scan flags :=
  h.congr (by simp) (logFrame_iff.1 (advanceAll_logFrame s)).1 (by simp)

theorem storeOutcome (h : s.Tidy m i scan flags) (st : Station) (o : SecondOutcome) : (s.storeOutcome st o).Tidy m i scan flags := by
  unfold State.storeOutcome
  split
  · exact h
  · dsimp only
    have h1 : (s.setAccount st { s.acc.accts[st] with missing := missingAfter o.cls s.acc.accts[st].missing }).Tidy m i scan flags :=
      h.setAccount st _
    have h2 := State.Tidy.congr h1
      (t := State.advance st (sampleFor o (missingAfter o.cls s.acc.accts[st].missing) (sampleAt s.acc.accts[st].ring 0))
        (s.setAccount st { s.acc.accts[st] with missing := missingAfter o.cls s.acc.accts[st].missing }))
    split
    · exact ((h2.compute st _).logSample st _).congr rfl rfl rfl
    · exact (h2.logSample st _).congr rfl rfl rfl

theorem disableAccount (h : s.Tidy m i scan flags) (st : Station) : (s.disableAccount st).Tidy m i scan flags :=
  ((h.setAccount st _).handExceed st).report _ _ _ _

/-! ### Gain Allocator -/

theorem hardDrop (h : s.Tidy m i scan flags) (k : Stage) (v : Nat) : (s.hardDrop k v).Tidy m i scan flags := h.congr

theorem setGain (h : s.Tidy m i scan flags) (k : Stage) (g : GainStage) : (s.setGain k g).Tidy m i scan flags := h.congr

theorem stageConditions (h : s.Tidy m i scan flags) (k : Stage) : (s.stageConditions k).Tidy m i scan flags := by
  unfold State.stageConditions
  dsimp only
  split
  · exact (h.report _ _ _ _).report _ _ _ _
  · exact (h.report _ _ _ _).report _ _ _ _

theorem clipStage (h : s.Tidy m i scan flags) (k : Stage) : (s.clipStage k).Tidy m i scan flags := by
  unfold State.clipStage
  dsimp only
  split
  · exact (((h.setGain k _).hardDrop k _).logClip k _).stageConditions k
  · exact h

theorem changeTerms (h : s.Tidy m i scan flags) (f : Stage → GainStage → GainStage) : (s.changeTerms f).Tidy m i scan flags :=
  forStages_preserves (State.Tidy m i scan flags) _ (fun k _ ht => ht.clipStage k) _ (h.congr rfl rfl rfl)

theorem offerAll (h : s.Tidy m i scan flags) : s.offerAll.Tidy m i scan flags :=
  forStages_preserves (State.Tidy m i scan flags) _ (fun _ _ ht => ht.congr) _ h

theorem driveGain (h : s.Tidy m i scan flags) : s.driveGain.Tidy m i scan flags := by
  rw [driveGain_eq]
  exact forStages_preserves (State.Tidy m i scan flags) _ (fun k _ ht => ht.stageConditions k) _ (offerAll h.congr).logClosure

/-! ### Requests in flight and the measurement -/

/-- A byte that a final state with these results is written to lies in a slot. -/
theorem inResults_scratch {j : Slot} {results : List Result} (hp : placed 4 results) {a : Nat} (h : inResults j results a) :
    scratch a := by
  have hj := j.isLt
  have hs : slotAddr j = 0x1C00 + 64 * j.val := rfl
  right; left
  rcases h with rfl | rfl | ⟨r, hr, h1, h2⟩
  · omega
  · omega
  · have := placed_mem hp hr
    omega

theorem complete (h : s.Tidy m i scan flags) (j : Slot) {results : List Result} (hp : placed 4 results) :
    (s.complete j results).Tidy m i scan flags := by
  unfold State.complete
  split
  · dsimp only
    have hram : State.Tidy m i scan flags
        { s with
          ram := if s.ram.slotReads j slotTaken then s.ram.finishSlot j slotDone 0 results else s.ram
          scanner := s.scanner.forget j } := by
      split
      · exact ⟨wf_finishSlot h.wf _ _ _ _, keepsOutside_trans h.keeps (keeps_finishSlot h.wf _ _ _ _) (fun _ ha => ha)
          (fun _ ha => inResults_scratch hp ha), h.writeIdx, h.scan, h.flags⟩
      · exact ⟨h.wf, h.keeps, h.writeIdx, h.scan, h.flags⟩
    unfold State.notifyDone
    split
    · exact hram.post _ _ _
    · exact hram
  · exact h

theorem ambientResults_placed (a b c d : Nat) : placed 4 (ambientResults a b c d) := by simp [placed, ambientResults]

theorem setAmbientMute (h : s.Tidy m i scan flags) (b : Bool) : (s.setAmbientMute b).Tidy m i scan flags := h.changeTerms _

theorem endAmbient (h : s.Tidy m i scan flags) : s.endAmbient.Tidy m i scan flags := h.congr

theorem withAmbient (h : s.Tidy m i scan flags) (a : Ambient) :
    State.Tidy m i scan flags { s with acc := { s.acc with ambient := a } } := h.congr rfl rfl rfl

theorem completeAmbient (h : s.Tidy m i scan flags) (a : Ambient) : (s.completeAmbient a).Tidy m i scan flags := by
  unfold State.completeAmbient
  have h1 : State.Tidy m i scan flags { s with book := s.book.takeAmbient a } := h.congr rfl rfl rfl
  exact ((h1.setAmbientMute false).complete _ (ambientResults_placed _ _ _ _)).endAmbient

theorem ambientClosure (h : s.Tidy m i scan flags) : s.ambientClosure.Tidy m i scan flags := by
  unfold State.ambientClosure
  dsimp only
  repeat' split
  · exact h
  · exact h.withAmbient _
  · exact h.withAmbient _
  · exact (h.withAmbient _).completeAmbient _
  · exact h.withAmbient _

/-! ### Station Poller -/

theorem setStationState (h : s.Tidy m i scan flags) (st : Station) (v : StationState) :
    (s.setStationState st v).Tidy m i scan flags := by
  have h0 : State.Tidy m i scan flags { s with poller := { s.poller with states := upd s.poller.states st v } } :=
    h.congr rfl rfl rfl
  have h1 : (s.noteState st v).Tidy m i scan flags := (h0.report _ _ _ _).report _ _ _ _
  rw [setStationState_eq]
  split
  · exact h1
  · exact h1.changeTerms _

theorem takeOutcome (h : s.Tidy m i scan flags) (st : Station) (o : SecondOutcome) : (s.takeOutcome st o).Tidy m i scan flags := by
  unfold State.takeOutcome
  split
  · exact h
  · exact (h.storeOutcome st o).setStationState st _

theorem handMissing (h : s.Tidy m i scan flags) (sts : List Station) : (s.handMissing sts).Tidy m i scan flags :=
  foldl_preserves (State.Tidy m i scan flags) _ (fun _ st ht => ht.takeOutcome st .missing) sts s h

theorem closeRound (h : s.Tidy m i scan flags) : s.closeRound.Tidy m i scan flags := by
  have h1 : s.shutRound.Tidy m i scan flags := h.congr rfl rfl rfl
  have h2 : s.beforeDrive.Tidy m i scan flags := h1.advanceRest.ambientClosure
  rw [closeRound_eq]
  exact h2.driveGain.congr

theorem closeByLastOutcome (h : s.Tidy m i scan flags) : s.closeByLastOutcome.Tidy m i scan flags := by
  rw [closeByLastOutcome_eq]
  exact h.closeRound.congr

theorem closeByDeadline (h : s.Tidy m i scan flags) : s.closeByDeadline.Tidy m i scan flags := by
  have h0 : State.Tidy m i scan flags { s with poller := { s.poller with exch := none, todo := [] } } := h.congr rfl rfl rfl
  have h1 : s.missRest.Tidy m i scan flags := h0.handMissing _
  cases hu : s.poller.unresolved with
  | nil => rw [closeByDeadline_nil hu]; exact h1.closeRound
  | cons first more => rw [closeByDeadline_cons hu]; exact h1.closeRound.post _ _ _

theorem proceed (h : s.Tidy m i scan flags) : s.proceed.Tidy m i scan flags := by
  unfold State.proceed
  split
  · exact State.Tidy.congr (h.congr rfl rfl rfl)
  · exact h.closeByLastOutcome

theorem openRound (h : s.Tidy m i scan flags) : s.openRound.Tidy m i scan flags := by
  unfold State.openRound
  exact State.Tidy.proceed (h.congr rfl rfl rfl)

theorem pollerSecond (h : s.Tidy m i scan flags) : s.pollerSecond.Tidy m i scan flags := by
  unfold State.pollerSecond
  dsimp only
  refine State.Tidy.openRound (State.Tidy.congr (s := if s.poller.roundOpen then s.closeByDeadline else s) ?_)
  split
  · exact h.closeByDeadline
  · exact h

theorem changeStation {st : Station} {before after : StationEntry} (hm : (s.putEntry st after).Tidy m i scan flags) :
    (s.changeStation st before after).Tidy m i scan flags := by
  unfold State.changeStation
  dsimp only
  split
  · have h1 := (hm.disableAccount st).setStationState st .disabled
    unfold State.disableInRound
    repeat' split
    · exact State.Tidy.proceed h1.congr
    · exact h1.congr rfl rfl rfl
    · exact h1
    · exact h1
  · split
    · have h1 := hm.setStationState st .unknown
      split
      · exact h1.prime st
      · exact h1
    · exact hm

/-! ### Schedule Walker -/

theorem activate (h : s.Tidy m i scan flags) (cause : PassCause) (b : Bool) (e : LimitEntry) :
    (s.activate cause b e).Tidy m i scan flags := by
  unfold State.activate
  have h1 : State.Tidy m i scan flags { s with walker := { s.walker with active := some e } } := h.congr rfl rfl rfl
  exact State.Tidy.post (State.Tidy.changeTerms (h1.congr) _) _ _ _

theorem recordFault_tidy {k : Memory} (hw : k.wf = true) (r e l c f : Nat) :
    (k.recordFault r e l c f).wf = true ∧ keepsOutside scratch k (k.recordFault r e l c f) := by
  have hf : Config.faultBase = 0x0200 := rfl
  have hone : ∀ (k : Memory) (a v : Nat), k.wf = true → inFaultRecord a →
      (k.writeLe a 1 v).wf = true ∧ keepsOutside scratch k (k.writeLe a 1 v) := fun k a v hw ha =>
    ⟨wf_writeLe hw _ _ _, keepsOutside_trans (keepsOutside_refl scratch k) (keeps_writeLe hw a 1 v) (fun _ hx => hx)
      fun x hx => .inr (.inr ((show x = a by omega) ▸ ha))⟩
  unfold Memory.recordFault
  split
  · generalize hb : leBytes 1 r ++ leBytes 1 e ++ leBytes 1 l ++ leBytes 4 c ++ leBytes 1 f ++ leBytes 1 0 = bs
    have hl : bs.length = 9 := by rw [← hb]; simp
    have hw1 := wf_writeBytes hw (Config.faultBase + 1) bs
    obtain ⟨h1, h2⟩ := hone _ Config.faultBase 1 hw1 (by unfold inFaultRecord; omega)
    refine ⟨h1, keepsOutside_trans (p := scratch) (fun x hx => ?_) h2 (fun _ hx => hx) fun _ hx => hx⟩
    have hx : ¬ inFaultRecord x := fun h => hx (.inr (.inr h))
    unfold inFaultRecord at hx
    refine ⟨byte_writeBytes_outside hw _ _ (by omega), ?_⟩
    rw [badAt_writeBytes, decide_eq_true (by omega), Bool.and_true]
  · exact hone _ _ _ hw (by unfold inFaultRecord; omega)

theorem reportFault (h : s.Tidy m i scan flags) (reason : FaultReason) (entry link : Nat) (found : WalkerState) :
    (s.reportFault reason entry link found).Tidy m i scan flags := by
  unfold State.reportFault
  have h1 : (s.postScheduleFault entry reason.code link).Tidy m i scan flags := h.post _ _ _
  dsimp only
  generalize s.postScheduleFault entry reason.code link = u at *
  obtain ⟨hw, hk⟩ := recordFault_tidy h1.wf reason.code entry link u.clock found.code
  exact ⟨hw, keepsOutside_trans h1.keeps hk (fun _ ha => ha) fun _ ha => ha, h1.writeIdx, h1.scan, h1.flags⟩

theorem takeLast (h : s.Tidy m i scan flags) (cause : PassCause) (p : Pass) : (s.takeLast cause p).Tidy m i scan flags := by
  unfold State.takeLast
  split
  · exact h.activate cause false _
  · exact h

theorem takeFault (h : s.Tidy m i scan flags) (cause : PassCause) (b : Bool) (p : Pass) :
    (s.takeFault cause b p).Tidy m i scan flags := by
  unfold State.takeFault
  split
  · exact h.activate cause true _
  · exact h.changeTerms _

theorem endPass (h : s.Tidy m i scan flags) (cause : PassCause) (starting : Bool) (found : WalkerState) (p : Pass) :
    (s.endPass cause starting found p).Tidy m i scan flags := by
  have h0 : (s.countLinks p.links).Tidy m i scan flags := h.congr rfl rfl rfl
  have h1 := h0.takeLast cause p
  cases he : p.ending with
  | notDue => rw [endPass_notDue _ _ _ _ he]; exact h1.congr rfl rfl rfl
  | final => rw [endPass_final _ _ _ _ he]; exact h1.congr rfl rfl rfl
  | watch pause => rw [endPass_watch _ _ _ _ he]; exact (h1.congr (t := State.pauseAt pause _) rfl rfl rfl).post _ _ _
  | fault reason entry link =>
    rw [endPass_fault _ _ _ _ he]
    have h2 := (h0.takeFault cause starting p).congr (t := State.goTo .faulted _) rfl rfl rfl
    exact h2.reportFault _ _ _ _

theorem walkerSecond (h : s.Tidy m i scan flags) : s.walkerSecond.Tidy m i scan flags := by
  unfold State.walkerSecond
  repeat' split
  · exact h.endPass _ _ _ _
  · exact h
  · exact h

theorem walkerMoved (h : s.Tidy m i scan flags) : s.walkerMoved.Tidy m i scan flags := by
  unfold State.walkerMoved
  split
  · exact h.endPass _ _ _ _
  · exact h

end State.Tidy

end Sys2Proof.Machine

/-! O17: a second event in RUNNING. -/

namespace Sys2Proof.Machine

/-! ### What the walker leaves of the rings -/

/-- The marks of the round and the rings. -/
def Accumulator.rings (c : Accumulator) : Vector Bool 16 × (Station → List Sample) := (c.advanced, fun st => c.accts[st].ring)

/-- R19: a new window length changes no ring. -/
theorem putInForce_rings (w : Nat) (set : Fin 8) (h k : Nat) (s : State) : (s.putInForce w set h k).acc.rings = s.acc.rings := by
  unfold State.putInForce Accumulator.rings
  refine Prod.ext rfl (funext fun st => ?_)
  dsimp only
  split
  · rfl
  · rw [ofFn_get, resum_ring]

theorem activate_rings (cause : PassCause) (b : Bool) (e : LimitEntry) (s : State) :
    (s.activate cause b e).acc.rings = s.acc.rings := by
  have h := putInForce_rings e.w e.set e.h e.k { s with walker := { s.walker with active := some e } }
  unfold State.activate State.postEntryActivated
  dsimp only
  rw [(post_keeps _ _ _ _).2.2.2.1, (changeTerms_keeps _ _).2.2.2.1]
  exact h

theorem takeLast_rings (cause : PassCause) (p : Pass) (s : State) : (s.takeLast cause p).acc.rings = s.acc.rings := by
  unfold State.takeLast
  split
  · exact activate_rings _ _ _ _
  · rfl

theorem takeFault_rings (cause : PassCause) (b : Bool) (p : Pass) (s : State) : (s.takeFault cause b p).acc.rings = s.acc.rings := by
  unfold State.takeFault
  split
  · exact activate_rings _ _ _ _
  · rw [(changeTerms_keeps _ _).2.2.2.1]

theorem endPass_rings (cause : PassCause) (b : Bool) (found : WalkerState) (p : Pass) (s : State) :
    (s.endPass cause b found p).acc.rings = s.acc.rings := by
  have h1 : ((s.countLinks p.links).takeLast cause p).acc.rings = s.acc.rings := takeLast_rings _ _ _
  have h2 : ((s.countLinks p.links).takeFault cause b p).acc.rings = s.acc.rings := takeFault_rings _ _ _ _
  cases he : p.ending with
  | notDue => rw [endPass_notDue _ _ _ _ he]; exact h1
  | final => rw [endPass_final _ _ _ _ he]; exact h1
  | watch pause =>
    rw [endPass_watch _ _ _ _ he, State.postWatchReached, (post_keeps _ _ _ _).2.2.2.1]
    exact h1
  | fault reason entry link =>
    rw [endPass_fault _ _ _ _ he, (reportFault_keeps _ _ _ _ _).2.2.2.1]
    exact h2

theorem walkerSecond_rings (s : State) : s.walkerSecond.acc.rings = s.acc.rings := by
  unfold State.walkerSecond
  repeat' split
  · exact endPass_rings _ _ _ _ _
  · rfl
  · rfl

theorem walkerMoved_rings (s : State) : s.walkerMoved.acc.rings = s.acc.rings := by
  unfold State.walkerMoved
  split
  · exact endPass_rings _ _ _ _ _
  · rfl

/-! ### The pieces of work in RUNNING (Table 5-1) -/

/-- What no piece of a second event changes. -/
def State.sameTime (s t : State) : Prop := t.run = s.run ∧ t.clock = s.clock

section

variable {s : State} (hr : s.run.state = .running) (wrapped : Bool)

include hr

theorem running_accumulator : s.secondWork wrapped .accumulator = s := if_neg (by simp [hr])

theorem running_poller : s.secondWork wrapped .poller = s.pollerSecond := if_pos hr

theorem running_linkOffer : s.secondWork wrapped .linkOffer = s := if_neg (by simp [hr])

theorem running_minute (hc : s.clock % 60 = 0) :
    s.secondWork wrapped .minute = s.closeMinute (s.clock / 60) { clockSet := false, stopped := false } := if_pos ⟨hr, hc⟩

omit hr in
theorem work_linkSecond : s.secondWork wrapped .linkSecond = s.clearCharged := rfl

omit hr in
theorem work_occupancy : s.secondWork wrapped .occupancy = s.readOccupancy := rfl

omit hr in
theorem work_walker : s.secondWork wrapped .walker = if wrapped then s.walkerSecond.walkerMoved else s.walkerSecond := rfl

theorem running_scanner : s.secondWork wrapped .scanner = { s with scanner := s.scanner.beginScan } := if_pos (.inr hr)

omit hr in
theorem idle_minute (hc : s.clock % 60 ≠ 0) : s.secondWork wrapped .minute = s := if_neg fun h => hc h.2

/-- The run values and the clock stand through a second event. -/
theorem running_sameTime (w : SecondWork) : s.sameTime (s.secondWork wrapped w) := by
  unfold State.sameTime
  cases w with
  | accumulator => rw [running_accumulator hr]; exact ⟨rfl, rfl⟩
  | poller => rw [running_poller hr]; simp
  | linkSecond => rw [work_linkSecond]; simp
  | linkOffer => rw [running_linkOffer hr]; exact ⟨rfl, rfl⟩
  | scanner => rw [running_scanner hr]; exact ⟨rfl, rfl⟩
  | walker => rw [work_walker]; split <;> simp
  | minute =>
    by_cases hc : s.clock % 60 = 0
    · rw [running_minute hr wrapped hc]; simp
    · rw [idle_minute wrapped hc]; exact ⟨rfl, rfl⟩
  | occupancy => rw [work_occupancy]; simp

/-- The Poller, the marks of the round and the rings are the Poller's work alone. -/
theorem running_rounds {w : SecondWork} (hw : w ≠ .poller) :
    (s.secondWork wrapped w).poller = s.poller ∧ (s.secondWork wrapped w).acc.rings = s.acc.rings := by
  cases w with
  | accumulator => rw [running_accumulator hr]; exact ⟨rfl, rfl⟩
  | poller => exact absurd rfl hw
  | linkSecond => rw [work_linkSecond]; exact ⟨rfl, rfl⟩
  | linkOffer => rw [running_linkOffer hr]; exact ⟨rfl, rfl⟩
  | scanner => rw [running_scanner hr]; exact ⟨rfl, rfl⟩
  | walker =>
    rw [work_walker]
    split
    · exact ⟨by simp, (walkerMoved_rings _).trans (walkerSecond_rings s)⟩
    · exact ⟨by simp, walkerSecond_rings s⟩
  | minute =>
    by_cases hc : s.clock % 60 = 0
    · rw [running_minute hr wrapped hc]; simp
    · rw [idle_minute wrapped hc]; exact ⟨rfl, rfl⟩
  | occupancy => rw [work_occupancy]; simp

/-- With no pass to make, so are the accounts, the ceilings and the book. -/
theorem running_still (hwalk : s.walker.state ≠ .waiting) {w : SecondWork} (hw : w ≠ .poller) :
    (s.secondWork false w).poller = s.poller ∧ (s.secondWork false w).acc = s.acc ∧ (s.secondWork false w).gain = s.gain ∧
      (s.secondWork false w).book = s.book := by
  cases w with
  | accumulator => rw [running_accumulator hr]; exact ⟨rfl, rfl, rfl, rfl⟩
  | poller => exact absurd rfl hw
  | linkSecond => rw [work_linkSecond]; exact ⟨rfl, rfl, rfl, rfl⟩
  | linkOffer => rw [running_linkOffer hr]; exact ⟨rfl, rfl, rfl, rfl⟩
  | scanner => rw [running_scanner hr]; exact ⟨rfl, rfl, rfl, rfl⟩
  | walker => rw [work_walker, if_neg Bool.false_ne_true, walkerSecond_of_ne hwalk]; exact ⟨rfl, rfl, rfl, rfl⟩
  | minute =>
    by_cases hc : s.clock % 60 = 0
    · rw [running_minute hr false hc]; simp
    · rw [idle_minute false hc]; exact ⟨rfl, rfl, rfl, rfl⟩
  | occupancy => rw [work_occupancy]; simp

theorem running_walker (hwalk : s.walker.state ≠ .waiting) (w : SecondWork) : (s.secondWork false w).walker = s.walker := by
  cases w with
  | accumulator => rw [running_accumulator hr]
  | poller => rw [running_poller hr]; simp
  | linkSecond => rw [work_linkSecond]; simp
  | linkOffer => rw [running_linkOffer hr]
  | scanner => rw [running_scanner hr]
  | walker => rw [work_walker, if_neg Bool.false_ne_true, walkerSecond_of_ne hwalk]
  | minute =>
    by_cases hc : s.clock % 60 = 0
    · rw [running_minute hr false hc]; simp
    · rw [idle_minute false hc]
  | occupancy => rw [work_occupancy]; simp

/-! ### The whole event -/

/-- The Poller, the marks and the rings after a second event are as the Poller's work left them, in a state that agreed with the one
the event found. -/
theorem running_event (order : List SecondWork) :
    let t := (fullOrder order).foldl (State.secondWork wrapped) s
    s.sameTime t ∧
      ∃ u : State, s.sameTime u ∧ u.poller = s.poller ∧ u.acc.rings = s.acc.rings ∧ t.poller = u.pollerSecond.poller ∧
        t.acc.rings = u.pollerSecond.acc.rings := by
  have step : ∀ (u : State) (w : SecondWork), s.sameTime u → s.sameTime (u.secondWork wrapped w) := fun u w hu => by
    obtain ⟨h1, h2⟩ := running_sameTime (s := u) (by rw [hu.1]; exact hr) wrapped w
    exact ⟨h1.trans hu.1, h2.trans hu.2⟩
  have keep : ∀ (u : State) (w : SecondWork), s.sameTime u → w ≠ .poller →
      ((u.secondWork wrapped w).poller, (u.secondWork wrapped w).acc.rings) = (u.poller, u.acc.rings) := fun u w hu hw => by
    obtain ⟨h1, h2⟩ := running_rounds (s := u) (by rw [hu.1]; exact hr) wrapped hw
    rw [h1, h2]
  obtain ⟨u, hu, hg, ht⟩ := foldl_once s.sameTime (State.secondWork wrapped) step (fun t => (t.poller, t.acc.rings)) .poller keep
    (fullOrder_nodup order) (mem_fullOrder order _) ⟨rfl, rfl⟩
  rw [running_poller (s := u) (by rw [hu.1]; exact hr)] at ht
  obtain ⟨g1, g2⟩ := Prod.mk.inj hg
  obtain ⟨t1, t2⟩ := Prod.mk.inj ht
  exact ⟨foldl_preserves s.sameTime _ step _ s ⟨rfl, rfl⟩, u, hu, g1, g2, t1, t2⟩

/-- The same for the accounts, the ceilings and the book, with no pass to make. -/
theorem running_event_still (hwalk : s.walker.state ≠ .waiting) (order : List SecondWork) :
    let t := (fullOrder order).foldl (State.secondWork false) s
    ∃ u : State, s.sameTime u ∧ u.poller = s.poller ∧ u.gain = s.gain ∧ t.poller = u.pollerSecond.poller ∧
      t.acc = u.pollerSecond.acc ∧ t.gain = u.pollerSecond.gain ∧ t.book = u.pollerSecond.book := by
  have step : ∀ (u : State) (w : SecondWork), (s.sameTime u ∧ u.walker = s.walker) →
      s.sameTime (u.secondWork false w) ∧ (u.secondWork false w).walker = s.walker := fun u w ⟨hu, hw⟩ => by
    have hru : u.run.state = .running := by rw [hu.1]; exact hr
    obtain ⟨h1, h2⟩ := running_sameTime hru false w
    exact ⟨⟨h1.trans hu.1, h2.trans hu.2⟩, (running_walker hru (by rw [hw]; exact hwalk) w).trans hw⟩
  have keep : ∀ (u : State) (w : SecondWork), (s.sameTime u ∧ u.walker = s.walker) → w ≠ .poller →
      ((u.secondWork false w).poller, (u.secondWork false w).acc, (u.secondWork false w).gain, (u.secondWork false w).book) =
        (u.poller, u.acc, u.gain, u.book) := fun u w ⟨hu, hwu⟩ hw => by
    obtain ⟨h1, h2, h3, h4⟩ := running_still (s := u) (by rw [hu.1]; exact hr) (by rw [hwu]; exact hwalk) hw
    rw [h1, h2, h3, h4]
  obtain ⟨u, ⟨hu, -⟩, hg, ht⟩ := foldl_once (fun t => s.sameTime t ∧ t.walker = s.walker) (State.secondWork false) step
    (fun t => (t.poller, t.acc, t.gain, t.book)) .poller keep (fullOrder_nodup order) (mem_fullOrder order _) ⟨⟨rfl, rfl⟩, rfl⟩
  rw [running_poller (s := u) (by rw [hu.1]; exact hr)] at ht
  simp only [Prod.mk.injEq] at hg ht
  obtain ⟨g1, -, g3, -⟩ := hg
  obtain ⟨t1, t2, t3, t4⟩ := ht
  exact ⟨u, hu, g1, g3, t1, t2, t3, t4⟩

end

end Sys2Proof.Machine

/-! O17: the round that a second event opens, the one that it closes, and the minute. -/

namespace Sys2Proof.Machine

/-! ### The opening of a round (R63) -/

theorem abandonProbe_poller (s : State) :
    s.abandonProbe.poller.probe = none ∧ s.abandonProbe.poller.round = s.poller.round := by
  unfold State.abandonProbe
  split
  · exact ⟨rfl, rfl⟩
  · next h => exact ⟨h, rfl⟩

theorem abandonProbe_noStations {n u : State} (hp : u.poller = n.poller) (hs : ∀ st : Station, n.enabledStation st = false) :
    u.abandonProbe.enabledStations = [] := by
  obtain ⟨-, hround⟩ := abandonProbe_poller u
  obtain ⟨rcopy, -⟩ := round_iff.1 hround
  unfold State.enabledStations
  refine List.filter_eq_nil_iff.2 fun st _ => ?_
  have h := hs st
  unfold State.enabledStation at h ⊢
  rw [rcopy, hp, h]
  exact Bool.false_ne_true

theorem pollerSecond_closed {s : State} (h : s.poller.roundOpen = false) : s.pollerSecond = s.abandonProbe.openRound := by
  unfold State.pollerSecond
  rw [if_neg (by simp [h])]

theorem pollerSecond_open {s : State} (h : s.poller.roundOpen = true) :
    s.pollerSecond = s.closeByDeadline.abandonProbe.openRound := by
  unfold State.pollerSecond
  rw [if_pos h]

/-- R63: the round opened, before its first exchange. -/
def State.roundOpened (s : State) : State :=
  { s with
    acc := { s.acc with advanced := Vector.replicate 16 false }
    poller := { s.poller with
      roundOpen := true, roundNo := s.clock, todo := s.enabledStations, settled := [], exch := none
      test := s.poller.test.map LoopTest.openRound } }

theorem openRound_eq (s : State) : s.openRound = s.roundOpened.proceed := rfl

theorem enabledStations_copy {s : State} {copy : Vector StationEntry 16} (h : s.poller.copy = some copy) :
    s.enabledStations = allStations.filter fun st => copy[st].enabled := by
  unfold State.enabledStations State.enabledStation
  rw [h]

/-- R63: with an enabled station the round is open, and the exchange of the first begins. -/
theorem openRound_some {s : State} {copy : Vector StationEntry 16} {first : Station} {rest : List Station}
    (hc : s.poller.copy = some copy) (he : (allStations.filter fun st => copy[st].enabled) = first :: rest) :
    s.openRound.poller.roundOpen = true ∧ s.openRound.poller.roundNo = s.clock ∧ s.openRound.poller.settled = [] ∧
      s.openRound.BeginsExchange copy first rest ∧ s.openRound.poller.probe = s.poller.probe ∧
      s.openRound.acc = { s.acc with advanced := Vector.replicate 16 false } := by
  rw [openRound_eq, proceed_begin (s := s.roundOpened) ((enabledStations_copy hc).trans he) hc]
  have hb := beginExchange_begins copy first (s.roundOpened.listed rest)
  have ha := attemptOnly_sendAttempt (copy[first].firstExchange first) (s.roundOpened.listed rest)
  rw [← beginExchange_eq] at ha
  obtain ⟨loops, exch, hr⟩ := ha.rest
  refine ⟨by rw [hr]; rfl, by rw [hr]; rfl, by rw [hr]; rfl, hb, by rw [hr]; rfl, by rw [hr]; rfl⟩

/-- R63, R69: with none it closes at once by last outcome. -/
theorem openRound_none {s : State} (h : s.enabledStations = []) : s.openRound = s.roundOpened.closeByLastOutcome := by
  rw [openRound_eq, proceed_close (s := s.roundOpened) h]

theorem probesOnly_closeByLastOutcome (s : State) : ProbesOnly s.closeRound s.closeByLastOutcome := by
  rw [closeByLastOutcome_eq]
  exact probesOnly_takeProbes _

/-! ### The log at a second event (R107, R185) -/

theorem inLog_not_scratch {a : Nat} (h : inLog a) : ¬ scratch a := by
  unfold inLog at h
  unfold scratch inNoticeQueue inFaultRecord
  omega

/-- The log and its write index are what they were, whatever the scan. -/
def State.LogKept (m : Memory) (i : BitVec 10) (s : State) : Prop := ∃ scan flags, s.Tidy m i scan flags

theorem logKept_refl {s : State} (h : s.ram.wf = true) : s.LogKept s.ram s.log.writeIdx :=
  ⟨_, _, h, keepsOutside_refl _ _, rfl, rfl, rfl⟩

theorem LogKept_log {m : Memory} {i : BitVec 10} {s : State} (h : s.LogKept m i) :
    s.log.writeIdx = i ∧ ∀ a, inLog a → s.ram.byte a = m.byte a ∧ s.ram.badAt a = m.badAt a := by
  obtain ⟨_, _, h⟩ := h
  exact ⟨h.writeIdx, fun a ha => h.keeps a (inLog_not_scratch ha)⟩

/-- Only the closing of the minute writes the log. -/
theorem work_logKept {s : State} (hr : s.run.state = .running) {m : Memory} {i : BitVec 10} (h : s.LogKept m i) (wrapped : Bool) {w : SecondWork}
    (hw : w = .minute → s.clock % 60 ≠ 0) : (s.secondWork wrapped w).LogKept m i := by
  obtain ⟨scan, flags, h⟩ := h
  cases w with
  | accumulator => rw [running_accumulator hr]; exact ⟨scan, flags, h⟩
  | poller => rw [running_poller hr]; exact ⟨scan, flags, h.pollerSecond⟩
  | linkSecond => rw [work_linkSecond]; exact ⟨scan, flags, State.Tidy.congr h⟩
  | linkOffer => rw [running_linkOffer hr]; exact ⟨scan, flags, h⟩
  | scanner =>
    rw [running_scanner hr]
    refine ⟨s.scanner.beginScan.scan, flags, h.wf, h.keeps, h.writeIdx, rfl, ?_⟩
    unfold Scanner.beginScan
    split <;> exact h.flags
  | walker =>
    rw [work_walker]
    split
    · exact ⟨scan, flags, h.walkerSecond.walkerMoved⟩
    · exact ⟨scan, flags, h.walkerSecond⟩
  | minute => rw [idle_minute wrapped (hw rfl)]; exact ⟨scan, flags, h⟩
  | occupancy => rw [work_occupancy]; exact ⟨scan, flags, h.readOccupancy⟩

/-- What every listed step of a fold preserves, the fold preserves. -/
theorem foldl_preserves_mem {σ α : Type} (P : σ → Prop) (f : σ → α → σ) {l : List α} (h : ∀ s, ∀ a ∈ l, P s → P (f s a)) {s : σ}
    (hs : P s) : P (l.foldl f s) := by
  induction l generalizing s with
  | nil => exact hs
  | cons a l ih =>
    exact ih (fun s b hb => h s b (List.mem_cons_of_mem _ hb)) (h s a List.mem_cons_self hs)

theorem works_logKept {s : State} (hr : s.run.state = .running) {m : Memory} {i : BitVec 10} (h : s.LogKept m i) (wrapped : Bool)
    {l : List SecondWork} (hl : .minute ∈ l → s.clock % 60 ≠ 0) : (l.foldl (State.secondWork wrapped) s).LogKept m i := by
  refine (foldl_preserves_mem (fun t => s.sameTime t ∧ t.LogKept m i) (State.secondWork wrapped) (fun t w hw ⟨ht, hk⟩ => ?_)
    ⟨⟨rfl, rfl⟩, h⟩).2
  obtain ⟨h1, h2⟩ := running_sameTime (s := t) (by rw [ht.1]; exact hr) wrapped w
  exact ⟨⟨h1.trans ht.1, h2.trans ht.2⟩, work_logKept (by rw [ht.1]; exact hr) hk wrapped fun e => by rw [ht.2]; exact hl (e ▸ hw)⟩

/-! ### The RAM stays canonical through the closing of a minute -/

theorem wf_post {s : State} (h : s.ram.wf = true) (kind sub detail : Nat) : (s.post kind sub detail).ram.wf = true := by
  unfold State.post
  split
  · exact h
  · exact wf_writeBytes h _ _

theorem wf_report {s : State} (h : s.ram.wf = true) (cls : CondClass) (sub : Fin 16) (now : Bool) (v : Nat) :
    (s.report cls sub now v).ram.wf = true := by
  unfold State.report
  split
  · exact h
  · dsimp only
    split
    · refine wf_post ?_ _ _ _
      exact h
    · exact h

theorem wf_putRecord {s : State} (h : s.ram.wf = true) (bytes : List Byte) : (s.putRecord bytes).ram.wf = true := by
  unfold State.putRecord State.readOccupancy
  dsimp only
  refine wf_report ?_ _ _ _ _
  unfold State.writeLogHeader
  exact wf_writeLe (wf_writeBytes h _ _) _ _ _

theorem wf_writeRecord {s : State} (h : s.ram.wf = true) (bytes : List Byte) (given : Nat) :
    (s.writeRecord bytes given).1.ram.wf = true := by
  unfold State.writeRecord
  repeat' split
  · exact wf_putRecord h _
  · exact h
  · refine wf_post ?_ _ _ _
    exact h
  · exact wf_putRecord (s := s.setRam _) (wf_writeLe h _ _ _) _

theorem wf_writeRecords {s : State} (h : s.ram.wf = true) (minute : Nat) (f : RecordFlags) :
    (s.writeRecords minute f).1.ram.wf = true := by
  refine foldl_preserves (fun p : State × Nat => p.1.ram.wf = true) _ (fun p st hp => ?_) allStations (s, 0) h
  split
  · exact wf_writeRecord hp _ _
  · exact hp

theorem wf_closeMinute {s : State} (h : s.ram.wf = true) (minute : Nat) (f : RecordFlags) :
    (s.closeMinute minute f).ram.wf = true := by
  have hp : (if s.log.folded = 0 then (s, 0) else s.writeRecords minute f).1.ram.wf = true := by
    split
    · exact h
    · exact wf_writeRecords h _ _
  unfold State.closeMinute
  split
  · dsimp only
    generalize (if s.log.folded = 0 then (s, 0) else s.writeRecords minute f) = p at hp ⊢
    split
    · exact hp
    · exact wf_post hp _ _ _
  · exact h

/-! ### The clauses of O17, over the state whose clock already holds the new value -/

section

variable {n : State} (hr : n.run.state = .running) (wrapped : Bool) (order : List SecondWork)

include hr

theorem second_opens {copy : Vector StationEntry 16} {first : Station} {rest : List Station} (ho : n.poller.roundOpen = false)
    (hc : n.poller.copy = some copy) (he : (allStations.filter fun st => copy[st].enabled) = first :: rest) :
    let t := (fullOrder order).foldl (State.secondWork wrapped) n
    t.clock = n.clock ∧ t.poller.roundOpen = true ∧ t.poller.roundNo = n.clock ∧ t.poller.settled = [] ∧
      t.BeginsExchange copy first rest ∧ t.poller.probe = none ∧
      ∀ st : Station, t.acc.advanced[st] = false ∧ t.acc.accts[st].ring = n.acc.accts[st].ring := by
  obtain ⟨ht, u, hu, hp, hrings, tp, trings⟩ := running_event hr wrapped order
  dsimp only
  generalize (fullOrder order).foldl (State.secondWork wrapped) n = t at *
  obtain ⟨hprobe, hround⟩ := abandonProbe_poller u
  obtain ⟨rcopy, -⟩ := round_iff.1 hround
  obtain ⟨-, hclock, -, -, hacc, -⟩ := abandonProbe_keeps u
  rw [pollerSecond_closed (by rw [hp]; exact ho)] at tp trings
  obtain ⟨h1, h2, h3, h4, h5, h6⟩ := openRound_some (s := u.abandonProbe) (rcopy.trans (by rw [hp]; exact hc)) he
  rw [h6, hacc] at trings
  generalize u.abandonProbe.openRound = v at *
  obtain ⟨htodo, e, hexch, hst, haddr, hpref, hmade, hear, hloop⟩ := h4
  have hline : ∀ l, t.loopLine l = v.loopLine l := fun l => by unfold State.loopLine; rw [tp]
  obtain ⟨radv, rring⟩ := Prod.mk.inj trings
  refine ⟨ht.2, by rw [tp]; exact h1, ?_, by rw [tp]; exact h3, ⟨by rw [tp]; exact htodo, e, by rw [tp]; exact hexch, hst, haddr,
    hpref, hmade, hear, ?_⟩, ?_, fun st => ⟨?_, ?_⟩⟩
  · rw [tp, h2, hclock, hu.2]
  · rw [hloop]
    exact (firstLoop_congr (fun l => by rw [hline]) _).symm
  · rw [tp, h5, hprobe]
  · rw [radv]
    exact replicate_get _ _
  · have hring := congrFun (congrArg Prod.snd hrings) st
    exact (congrFun rring st).trans hring

theorem second_closes (ho : n.poller.roundOpen = false) (hs : ∀ st : Station, n.enabledStation st = false) :
    let t := (fullOrder order).foldl (State.secondWork wrapped) n
    t.clock = n.clock ∧ t.poller.roundOpen = false ∧ t.poller.roundNo = n.clock ∧ t.poller.exch = none ∧ t.poller.todo = [] ∧
      ∀ st : Station, t.acc.advanced[st] = true ∧ t.acc.accts[st].ring = (Sample.unwritten :: n.acc.accts[st].ring).take 900 := by
  obtain ⟨ht, u, hu, hp, hrings, tp, trings⟩ := running_event hr wrapped order
  dsimp only
  generalize (fullOrder order).foldl (State.secondWork wrapped) n = t at *
  obtain ⟨-, hclock, -, -, hacc, -⟩ := abandonProbe_keeps u
  have hnone := abandonProbe_noStations hp hs
  rw [pollerSecond_closed (by rw [hp]; exact ho), openRound_none hnone] at tp trings
  obtain ⟨h1, h2, h3, -, -, h5, h6, -⟩ := closure_frame (probesOnly_closeByLastOutcome u.abandonProbe.roundOpened)
  rw [h6] at trings
  obtain ⟨radv, rring⟩ := Prod.mk.inj trings
  refine ⟨ht.2, by rw [tp]; exact h1, ?_, by rw [tp]; exact h2, by rw [tp]; exact h3, fun st => ⟨?_, ?_⟩⟩
  · rw [tp, h5, ← hu.2, ← hclock]
    rfl
  · rw [radv]
    exact closeRound_advanced _ _
  · have hring := congrFun (congrArg Prod.snd hrings) st
    refine (congrFun rring st).trans ?_
    have hadv : u.abandonProbe.roundOpened.acc.advanced[st] = false := replicate_get _ _
    have ha : u.abandonProbe.roundOpened.acc.accts[st] = u.acc.accts[st] := by rw [← hacc]; rfl
    rw [closeRound_account, hadv, if_neg Bool.false_ne_true, ha]
    exact congrArg (fun r => (Sample.unwritten :: r).take 900) hring

theorem second_targets (ho : n.poller.roundOpen = false) (hs : ∀ st : Station, n.enabledStation st = false)
    (hc : n.gain.cfg.isSome = true) (hw : n.walker.state ≠ .waiting) (k : Stage) :
    let t := (fullOrder order).foldl (State.secondWork false) n
    t.gain.stages[k].target = t.softTarget k := by
  obtain ⟨u, hu, hp, hg, tp, tacc, tgain, tbook⟩ := running_event_still hr hw order
  dsimp only
  generalize (fullOrder order).foldl (State.secondWork false) n = t at *
  have hcfg : u.abandonProbe.roundOpened.gain.cfg = n.gain.cfg := by
    rw [← hg, ← (abandonProbe_keeps u).2.2.2.2.2.1]
    rfl
  have hnone := abandonProbe_noStations hp hs
  rw [pollerSecond_closed (by rw [hp]; exact ho), openRound_none hnone] at tp tacc tgain tbook
  have hx := probesOnly_closeByLastOutcome u.abandonProbe.roundOpened
  obtain ⟨-, -, -, -, -, -, -, hgain, -⟩ := closure_frame hx
  rw [softTarget_congr (congrArg BookStore.working tbook) tacc (congrArg GainAllocator.cfg tgain) (congrArg Poller.states tp),
    closure_softTarget hx, tgain, hgain]
  exact closeRound_target (by rw [hcfg]; exact hc) k

end

/-- R70: a round still open is closed as its deadline would close it, and the next opens. -/
theorem second_after_deadline {n u : State} (hr : n.run.state = .running) (ho : n.poller.roundOpen = true)
    (hu : exec .roundDeadline n = .next u) (wrapped : Bool) (order : List SecondWork) :
    (fullOrder (.poller :: order)).foldl (State.secondWork wrapped) n =
      (fullOrder (.poller :: order)).foldl (State.secondWork wrapped) u := by
  have hd : exec .roundDeadline n = .next n.closeByDeadline := congrArg Host.Outcome.next (if_pos ⟨hr, ho⟩)
  obtain rfl : n.closeByDeadline = u := Host.Outcome.next.inj (hd.symm.trans hu)
  obtain ⟨rest, hrest⟩ := fullOrder_cons .poller order
  have hclosed : n.closeByDeadline.poller.roundOpen = false := by
    rw [(closeByDeadline_keeps_closure n).2.1, closeRound_poller]
  have hrun : n.closeByDeadline.run.state = .running := by rw [(closeByDeadline_keeps n).1]; exact hr
  rw [hrest, List.foldl_cons, List.foldl_cons, running_poller hr, running_poller hrun, pollerSecond_open ho,
    pollerSecond_closed hclosed]

/-- R185: at a minute event that comes first, the log is what the closing of the minute leaves. -/
theorem second_minute {n : State} (hr : n.run.state = .running) (hw : n.ram.wf = true) (hc : n.clock % 60 = 0) (wrapped : Bool)
    (order : List SecondWork) :
    let v := n.closeMinute (n.clock / 60) { clockSet := false, stopped := false }
    ((fullOrder (.minute :: order)).foldl (State.secondWork wrapped) n).LogKept v.ram v.log.writeIdx := by
  obtain ⟨rest, hrest⟩ := fullOrder_cons .minute order
  have hn := fullOrder_nodup (.minute :: order)
  rw [hrest] at hn
  obtain ⟨hm, -⟩ := List.nodup_cons.1 hn
  dsimp only
  rw [hrest, List.foldl_cons, running_minute hr wrapped hc]
  have hv := wf_closeMinute hw (n.clock / 60) { clockSet := false, stopped := false }
  have hrun : (n.closeMinute (n.clock / 60) { clockSet := false, stopped := false }).run.state = .running := by
    rw [(closeMinute_keeps _ _ _).1]; exact hr
  exact works_logKept hrun (logKept_refl hv) wrapped fun h => absurd h hm

/-- Settles O17. -/
theorem secondEventOpensRound : Obligations.SecondEventOpensRound := by
  intro s order hr
  have hbusy : s.run.state ≠ .resetBusy := by simp [hr]
  have hx := fun o => exec_secondEvent o hbusy
  rw [clockAfter_eq] at hx
  dsimp only
  generalize hcv : (if s.clock < 2147483647 then s.clock + 1 else 0) = c at hx ⊢
  have hn : ({ s with clock := c } : State).run.state = .running := hr
  refine ⟨fun copy first rest ho hc he => ?_, fun ho hs => ?_, fun ho u hu => ?_, fun hw => ⟨fun hc t ht => ?_, fun hc t ht => ?_⟩⟩
  · exact ⟨_, hx order, second_opens hn _ order ho hc he⟩
  · obtain ⟨h1, h2, h3, h4, h5, h6⟩ := second_closes hn (decide (Config.clockMax ≤ s.clock)) order ho hs
    refine ⟨_, hx order, h1, h2, h3, h4, h5, h6, fun hc hwalk hlt k => ?_⟩
    have hwrap : decide (Config.clockMax ≤ s.clock) = false := decide_eq_false (Nat.not_le.2 hlt)
    rw [hwrap]
    exact second_targets hn order ho hs hc hwalk k
  · rw [hx, second_after_deadline hn ho hu]
    have hrun : u.run = s.run ∧ u.clock = c := by
      have hd : exec .roundDeadline { s with clock := c } = .next (State.closeByDeadline { s with clock := c }) :=
        congrArg Host.Outcome.next (if_pos ⟨hr, ho⟩)
      obtain rfl := Host.Outcome.next.inj (hd.symm.trans hu)
      obtain ⟨h1, h2, -⟩ := closeByDeadline_keeps { s with clock := c }
      exact ⟨h1, h2⟩
    have hy := exec_secondEvent (s := { u with clock := s.clock }) (.poller :: order) (by rw [← hrun.1] at hbusy; exact hbusy)
    rw [clockAfter_eq, hcv] at hy
    rw [hy]
    obtain ⟨-, rfl⟩ := hrun
    rfl
  · rw [hx] at ht
    rw [← Host.Outcome.next.inj ht]
    exact LogKept_log (works_logKept hn (logKept_refl (s := { s with clock := c }) hw) _ fun _ => hc)
  · rw [hx] at ht
    rw [← Host.Outcome.next.inj ht]
    exact LogKept_log (second_minute hn hw hc _ order)

end Sys2Proof.Machine

/-! SUPPORT. SET_STATION (R61, R62, R73, R174): its taking and its checks in their order. -/

namespace Sys2Proof.Machine

/-! ### The taking of a SET_STATION -/

/-- The state in which a slot is served: the scan has read it. -/
def State.atSlot (p : Scan) (s : State) : State := { s with scanner := { s.scanner with scan := some p } }

/-- R174: the change that the request in slot `i` asks for. -/
def State.changeOf (s : State) (i : Slot) : StationChange :=
  { mask := s.param i 0x05 1, enable := s.param i 0x06 1, addr := s.param i 0x07 1, loop := s.param i 0x08 1 }

theorem markInFlight_of_ne {r : Reply} (h : r ≠ .taken) (i : Slot) (copy : List Byte) (s : State) : s.markInFlight i copy r = s :=
  if_neg h

/-- R170: the state after a request that its owner refuses within its taking. -/
def State.refuse (i : Slot) (copy : List Byte) (code : Nat) (s : State) : State :=
  (s.setRam (s.ram.finishSlot i slotRefused code [])).notifyDone i copy code

/-- R170: the state after a request that its owner completes within its taking. -/
def State.finish (i : Slot) (copy : List Byte) (results : List Result) (s : State) : State :=
  (s.setRam (s.ram.finishSlot i slotDone 0 results)).notifyDone i copy 0

section

variable {s : State} {i : Slot} {p : Scan}

theorem setStation_exec (h : s.TakesNext i p .setStation) :
    let r := serveSetStation (s.ram.read (slotAddr i) 64) (s.atSlot p)
    exec (.setStation i) s =
      .next ((r.1.answer i (s.ram.read (slotAddr i) 64) r.2).markInFlight i (s.ram.read (slotAddr i) 64) r.2) := by
  have ht := takeKind_of_takes h Open.none
  have hs : s.takeSlot Open.none i p =
      let r := serveSetStation (s.ram.read (slotAddr i) 64) (s.atSlot p)
      (r.1.answer i (s.ram.read (slotAddr i) 64) r.2).markInFlight i (s.ram.read (slotAddr i) 64) r.2 := by
    unfold State.takeSlot
    rw [h.2]
    rfl
  exact congrArg Host.Outcome.next (ht.trans hs)

theorem setStation_refused (h : s.TakesNext i p .setStation) {code : ResultCode}
    (hr : serveSetStation (s.ram.read (slotAddr i) 64) (s.atSlot p) = (s.atSlot p, .refused code [])) :
    exec (.setStation i) s = .next ((s.atSlot p).refuse i (s.ram.read (slotAddr i) 64) code.code) := by
  have := setStation_exec h
  rw [hr] at this
  refine this.trans ?_
  dsimp only
  rw [markInFlight_of_ne (r := .refused code []) (by simp)]
  rfl

theorem setStation_done (h : s.TakesNext i p .setStation) {u : State} {results : List Result}
    (hr : serveSetStation (s.ram.read (slotAddr i) 64) (s.atSlot p) = (u, .done results)) :
    exec (.setStation i) s = .next (u.finish i (s.ram.read (slotAddr i) 64) results) := by
  have := setStation_exec h
  rw [hr] at this
  refine this.trans ?_
  dsimp only
  rw [markInFlight_of_ne (r := .done results) (by simp)]
  rfl

end

/-! ### What an answer writes (R170, R171) -/

/-- A notice, written or lost, changes the RAM and the notices alone. -/
theorem post_only (kind sub detail : Nat) (s : State) :
    s.post kind sub detail = { s with ram := (s.post kind sub detail).ram, notices := (s.post kind sub detail).notices } := by
  unfold State.post
  split <;> rfl

theorem notifyDone_only (i : Slot) (copy : List Byte) (code : Nat) (s : State) :
    s.notifyDone i copy code =
      { s with ram := (s.notifyDone i copy code).ram, notices := (s.notifyDone i copy code).notices } := by
  unfold State.notifyDone
  split
  · exact post_only _ _ _ s
  · rfl

theorem keeps_notifyDone {s : State} (h : s.ram.wf = true) (i : Slot) (copy : List Byte) (code : Nat) :
    keepsOutside inNoticeQueue s.ram (s.notifyDone i copy code).ram := by
  unfold State.notifyDone
  split
  · exact keepsOutside_trans (keeps_post h _ _ _) (keepsOutside_refl inNoticeQueue _) (fun _ ha => inNextNotice_queue ha)
      fun _ ha => ha
  · exact keepsOutside_refl _ _

/-- A slot that holds a final state holds it once REQUEST_DONE has been handed. -/
theorem slotHolds_notifyDone {s : State} (h : s.ram.wf = true) (i j : Slot) (copy : List Byte) (code : Nat) {state c : Nat}
    {results : List Result} (hp : placed 4 results) (hs : slotHolds s.ram i state c results) :
    slotHolds (s.notifyDone j copy code).ram i state c results :=
  slotHolds_congr hp (fun _ h1 h2 => (keeps_notifyDone h j copy code _ (slot_not_queue i h1 h2)).1) hs

/-- A state that differs from the one the slot is served in by RAM and notices alone. -/
theorem afterScanOnly_of {s t : State} {p : Scan} (h : t = { s.atSlot p with ram := t.ram, notices := t.notices }) :
    t = s.afterScanOnly t p := h

theorem refuse_only (i : Slot) (copy : List Byte) (code : Nat) (s : State) :
    s.refuse i copy code = { s with ram := (s.refuse i copy code).ram, notices := (s.refuse i copy code).notices } :=
  notifyDone_only i copy code (s.setRam _)

theorem finish_only (i : Slot) (copy : List Byte) (results : List Result) (s : State) :
    s.finish i copy results =
      { s with ram := (s.finish i copy results).ram, notices := (s.finish i copy results).notices } :=
  notifyDone_only i copy 0 (s.setRam _)

section

variable {s : State} (hw : s.ram.wf = true) (i : Slot) (p : Scan)

include hw

/-- R170, R171: a refusal changes nothing but the slot, the notices and the scan's progress. -/
theorem refuse_answered {code : Nat} (hc : code < 256) :
    s.Answered ((s.atSlot p).refuse i (s.ram.read (slotAddr i) 64) code) i 4 code [] ∧
      (s.atSlot p).refuse i (s.ram.read (slotAddr i) 64) code =
        s.afterScanOnly ((s.atSlot p).refuse i (s.ram.read (slotAddr i) 64) code) p := by
  have h := answered_of (s := s) (u := s.atSlot p) (state := 4) (results := []) hw rfl rfl rfl i (by simp [placed]) (by decide) hc
  exact ⟨h, afterScanOnly_of (refuse_only _ _ _ _)⟩

theorem finish_answered {results : List Result} (hp : placed 4 results) :
    s.Answered ((s.atSlot p).finish i (s.ram.read (slotAddr i) 64) results) i 3 0 results ∧
      (s.atSlot p).finish i (s.ram.read (slotAddr i) 64) results =
        s.afterScanOnly ((s.atSlot p).finish i (s.ram.read (slotAddr i) 64) results) p := by
  have h := answered_of (s := s) (u := s.atSlot p) (state := 3) (code := 0) hw rfl rfl rfl i hp (by decide) (by decide)
  exact ⟨h, afterScanOnly_of (finish_only _ _ _ _)⟩

omit p

/-- R170: what an answer leaves of the state of the block that gave it. -/
theorem finish_keeps (copy : List Byte) {results : List Result} (hp : placed 4 results) :
    s.finish i copy results =
        { s with ram := (s.finish i copy results).ram, notices := (s.finish i copy results).notices } ∧
      slotHolds (s.finish i copy results).ram i 3 0 results ∧ keepsOutside scratch s.ram (s.finish i copy results).ram := by
  have hf := wf_finishSlot hw i slotDone 0 results
  refine ⟨finish_only _ _ _ _, ?_, ?_⟩
  · exact slotHolds_notifyDone hf i i copy 0 hp (slotHolds_finishSlot hw i _ _ hp (by decide) (by decide))
  · exact keepsOutside_trans (keeps_finishSlot hw i slotDone 0 results) (keeps_notifyDone (s := s.setRam _) hf i copy 0)
      (fun _ ha => State.Tidy.inResults_scratch hp ha) fun _ ha => .inl ha

end

/-! ### The checks (R174) -/

/-- The results of a SET_STATION (Table 9-8). -/
def stationResults (before after : StationEntry) (v : StationState) (primed : Nat) : List Result :=
  [⟨0x20, 1, boolCode before.enabled⟩, ⟨0x21, 1, before.addr⟩, ⟨0x22, 1, loopCode before.loop⟩,
    ⟨0x24, 1, boolCode after.enabled⟩, ⟨0x25, 1, after.addr⟩, ⟨0x26, 1, loopCode after.loop⟩, ⟨0x28, 1, v.code⟩,
    ⟨0x29, 1, primed⟩]

theorem stationResults_placed (before after : StationEntry) (v : StationState) (n : Nat) :
    placed 4 (stationResults before after v n) := by
  simp [placed, stationResults]

/-- R174: a change that fails check 1. -/
theorem valid_iff (c : StationChange) : c.valid = true ↔
    ¬ (7 < c.mask ∨ (bit c.mask 0 = true ∧ 1 < c.enable) ∨ (bit c.mask 1 = true ∧ (c.addr = 0 ∨ 62 < c.addr)) ∨
      (bit c.mask 2 = true ∧ 1 < c.loop)) := by
  unfold StationChange.valid
  simp only [Bool.and_eq_true, Bool.or_eq_true, Bool.not_eq_true', decide_eq_true_eq]
  cases bit c.mask 0 <;> cases bit c.mask 1 <;> cases bit c.mask 2 <;> simp <;> omega

/-- R174: a change of mask 0 changes nothing. -/
theorem apply_mask_zero {c : StationChange} (h : c.mask = 0) (e : StationEntry) : c.apply e = e := by
  simp [StationChange.apply, h, bit]

/-- R61: the RAM table holds a parity error in a byte that Table 9-3 names. -/
theorem stationTableParity_iff (m : Memory) : stationTableParity m = true ↔
    ∃ (o : Station) (a : Nat), 0x0100 + 16 * o.val ≤ a ∧ a < 0x0100 + 16 * o.val + 3 ∧ m.badAt a = true := by
  simp only [stationTableParity, List.any_eq_true, parityError_iff]
  exact ⟨fun ⟨o, _, h⟩ => ⟨o, h⟩, fun ⟨o, h⟩ => ⟨o, List.mem_finRange o, h⟩⟩

/-- R61: another enabled station has the address of an enabled entry. -/
def State.clashes (s : State) (st : Station) (e : StationEntry) : Prop :=
  e.enabled = true ∧ ∃ o : Station, o ≠ st ∧ s.entries[o].enabled = true ∧ s.entries[o].addr = e.addr

/-- R61: no copy is held and the RAM table holds a parity error. -/
def State.tableUnreadable (s : State) : Prop :=
  s.poller.copy = none ∧
    ∃ (o : Station) (a : Nat), 0x0100 + 16 * o.val ≤ a ∧ a < 0x0100 + 16 * o.val + 3 ∧ s.ram.badAt a = true

/-- R174: an enabled entry whose address is out of range. -/
def StationEntry.misaddressed (e : StationEntry) : Prop := e.enabled = true ∧ (e.addr = 0 ∨ 62 < e.addr)

section

variable (s : State) (st : Station) (e : StationEntry)

theorem misaddressed_iff : (e.enabled && !decide (1 ≤ e.addr ∧ e.addr ≤ 62)) = true ↔ e.misaddressed := by
  simp only [Bool.and_eq_true, Bool.not_eq_true', decide_eq_false_iff_not]
  exact and_congr_right' (by omega)

theorem tableUnreadable_iff : (s.poller.copy.isNone && stationTableParity s.ram) = true ↔ s.tableUnreadable := by
  rw [Bool.and_eq_true, Option.isNone_iff_eq_none, stationTableParity_iff]
  rfl

theorem clashes_iff :
    (e.enabled && allStations.any fun o => decide (o ≠ st) && s.entries[o].enabled && decide (s.entries[o].addr = e.addr)) = true ↔
      s.clashes st e := by
  simp only [Bool.and_eq_true, List.any_eq_true, decide_eq_true_eq, and_assoc]
  exact and_congr_right' ⟨fun ⟨o, _, h⟩ => ⟨o, h⟩, fun ⟨o, h⟩ => ⟨o, List.mem_finRange o, h⟩⟩

variable {s st e}

theorem refusal_misaddressed (h : e.misaddressed) : s.stationRefusal st e = some .badField :=
  if_pos ((misaddressed_iff e).2 h)

theorem refusal_unreadable (h : ¬ e.misaddressed) (h2 : s.tableUnreadable) : s.stationRefusal st e = some .parity :=
  (if_neg fun g => h ((misaddressed_iff e).1 g)).trans (if_pos ((tableUnreadable_iff s).2 h2))

theorem refusal_clashes (h : ¬ e.misaddressed) (h2 : ¬ s.tableUnreadable) (h3 : s.clashes st e) :
    s.stationRefusal st e = some .conflict :=
  (if_neg fun g => h ((misaddressed_iff e).1 g)).trans
    ((if_neg fun g => h2 ((tableUnreadable_iff s).1 g)).trans (if_pos ((clashes_iff s st e).2 h3)))

theorem refusal_none (h : ¬ e.misaddressed) (h2 : ¬ s.tableUnreadable) (h3 : ¬ s.clashes st e) :
    s.stationRefusal st e = none :=
  (if_neg fun g => h ((misaddressed_iff e).1 g)).trans
    ((if_neg fun g => h2 ((tableUnreadable_iff s).1 g)).trans (if_neg fun g => h3 ((clashes_iff s st e).1 g)))

end

/-! ### The answer by the checks -/

section

variable {s : State} {i : Slot} (p : Scan)

/-- R174: the parameters are those of the slot. -/
theorem changeOf_copy :
    ({ mask := field (s.ram.read (slotAddr i) 64) 0x05 1, enable := field (s.ram.read (slotAddr i) 64) 0x06 1
       addr := field (s.ram.read (slotAddr i) 64) 0x07 1, loop := field (s.ram.read (slotAddr i) 64) 0x08 1 } : StationChange) =
      s.changeOf i := by
  rw [field_copy s i _ _ (by omega), field_copy s i _ _ (by omega), field_copy s i _ _ (by omega), field_copy s i _ _ (by omega)]
  rfl

theorem serve_badStation (h : 15 < s.param i 0x04 1) :
    serveSetStation (s.ram.read (slotAddr i) 64) (s.atSlot p) = (s.atSlot p, .refused .badField []) := by
  have hst : stationOf (field (s.ram.read (slotAddr i) 64) 0x04 1) = none := by
    rw [field_copy s i _ _ (by omega)]
    exact dif_neg (by omega)
  unfold serveSetStation
  rw [hst]

variable {st : Station} (hst : s.param i 0x04 1 = st.val)

include hst

theorem stationOf_copy : stationOf (field (s.ram.read (slotAddr i) 64) 0x04 1) = some st := by
  rw [field_copy s i _ _ (by omega), hst]
  exact dif_pos st.isLt

theorem serve_invalid (h : (s.changeOf i).valid = false) :
    serveSetStation (s.ram.read (slotAddr i) 64) (s.atSlot p) = (s.atSlot p, .refused .badField []) := by
  unfold serveSetStation
  rw [stationOf_copy hst, changeOf_copy]
  dsimp only
  rw [h]
  rfl

variable (hv : (s.changeOf i).valid = true)

include hv

theorem serve_unmasked (hm : (s.changeOf i).mask = 0) :
    serveSetStation (s.ram.read (slotAddr i) 64) (s.atSlot p) =
      (s.atSlot p, .done (stationResults s.entries[st] s.entries[st] s.poller.states[st] 0)) := by
  unfold serveSetStation
  rw [stationOf_copy hst, changeOf_copy]
  dsimp only
  rw [hv, apply_mask_zero hm, if_pos hm]
  rfl

variable (hm : (s.changeOf i).mask ≠ 0)

include hm

theorem serve_refused {code : ResultCode} (h : s.stationRefusal st ((s.changeOf i).apply s.entries[st]) = some code) :
    serveSetStation (s.ram.read (slotAddr i) 64) (s.atSlot p) = (s.atSlot p, .refused code []) := by
  have h : (s.atSlot p).stationRefusal st ((s.changeOf i).apply (s.atSlot p).entries[st]) = some code := h
  unfold serveSetStation
  rw [stationOf_copy hst, changeOf_copy]
  dsimp only
  rw [hv, if_neg hm, h]
  rfl

/-- R174: a SET_STATION that passes its checks. -/
theorem serve_changed (h : s.stationRefusal st ((s.changeOf i).apply s.entries[st]) = none) :
    let before := s.entries[st]
    let after := (s.changeOf i).apply before
    let u := (s.atSlot p).changeStation st before after
    serveSetStation (s.ram.read (slotAddr i) 64) (s.atSlot p) =
      (u, .done (stationResults before after u.poller.states[st]
        (boolCode (!before.enabled && after.enabled && s.primesOnEnable st)))) := by
  have h : (s.atSlot p).stationRefusal st ((s.changeOf i).apply (s.atSlot p).entries[st]) = none := h
  unfold serveSetStation
  rw [stationOf_copy hst, changeOf_copy]
  dsimp only
  rw [hv, if_neg hm, h]
  rfl

end

end Sys2Proof.Machine

/-! SUPPORT. What enabling and disabling a station change (R13, R24, R31, R38, R62, R73), and O45. -/

namespace Sys2Proof.Machine

/-! ### The entry in shared RAM (R61) -/

theorem readLe_writeStationEntry {m : Memory} (h : m.wf = true) (st : Station) (e : StationEntry) :
    (m.writeStationEntry st e).readLe (0x0100 + 16 * st.val) 1 = boolCode e.enabled ∧
      (m.writeStationEntry st e).readLe (0x0101 + 16 * st.val) 1 = e.addr % 256 ∧
      (m.writeStationEntry st e).readLe (0x0102 + 16 * st.val) 1 = loopCode e.loop := by
  have hb : Config.stationBase = 0x0100 := rfl
  have hl : (leBytes 1 (boolCode e.enabled) ++ leBytes 1 e.addr ++ leBytes 1 (loopCode e.loop)).length = 3 := by simp
  have hin := fun i hi => byte_writeBytes_inside h (Config.stationBase + 16 * st.val) _ i (by rw [hl]; exact hi)
  rw [hb] at hin
  unfold Memory.writeStationEntry
  simp only [readLe_one, hb]
  refine ⟨?_, ?_, ?_⟩
  · have h0 := hin 0 (by omega)
    rw [Nat.add_zero] at h0
    rw [h0]
    cases e.enabled <;> rfl
  · rw [show 0x0101 + 16 * st.val = 0x0100 + 16 * st.val + 1 by omega, hin 1 (by omega)]
    simp [leBytes]
  · rw [show 0x0102 + 16 * st.val = 0x0100 + 16 * st.val + 2 by omega, hin 2 (by omega)]
    cases e.loop <;> rfl

/-- A byte of the station table is neither a notice's nor a slot's nor the fault record's (Table 9-1). -/
theorem station_not_scratch {a : Nat} (h1 : 0x0100 ≤ a) (h2 : a < 0x0200) : ¬ scratch a := by
  unfold scratch inNoticeQueue inFaultRecord
  omega

theorem entry_of_keeps {m k : Memory} {st : Station} {e : StationEntry} (h : m.wf = true)
    (hk : keepsOutside scratch (m.writeStationEntry st e) k) :
    k.readLe (0x0100 + 16 * st.val) 1 = boolCode e.enabled ∧ k.readLe (0x0101 + 16 * st.val) 1 = e.addr % 256 ∧
      k.readLe (0x0102 + 16 * st.val) 1 = loopCode e.loop := by
  obtain ⟨h0, h1, h2⟩ := readLe_writeStationEntry h st e
  have hst := st.isLt
  refine ⟨?_, ?_, ?_⟩
  · rw [← h0]; exact readLe_congr _ _ fun x hx hy => (hk x (station_not_scratch (by omega) (by omega))).1
  · rw [← h1]; exact readLe_congr _ _ fun x hx hy => (hk x (station_not_scratch (by omega) (by omega))).1
  · rw [← h2]; exact readLe_congr _ _ fun x hx hy => (hk x (station_not_scratch (by omega) (by omega))).1

theorem putEntry_tidy {s : State} (h : s.ram.wf = true) (st : Station) (e : StationEntry) :
    (s.putEntry st e).Tidy (s.ram.writeStationEntry st e) s.log.writeIdx s.scanner.scan s.scanner.flags :=
  ⟨wf_writeBytes h _ _, keepsOutside_refl _ _, rfl, rfl, rfl⟩

/-! ### An enable (R24, R73) -/

/-- R73: the entry put and the station UNKNOWN. -/
def State.enabledAt (st : Station) (after : StationEntry) (s : State) : State := (s.putEntry st after).setStationState st .unknown

theorem changeStation_enable {before after : StationEntry} (hb : before.enabled = false) (ha : after.enabled = true) (st : Station)
    (s : State) :
    s.changeStation st before after =
      if s.primesOnEnable st then (s.enabledAt st after).prime st else s.enabledAt st after := by
  have hp : (s.enabledAt st after).primesOnEnable st = s.primesOnEnable st := by
    obtain ⟨-, -, -, hacc, -, hbook, -⟩ := setStationState_keeps st .unknown (s.putEntry st after)
    unfold State.primesOnEnable State.enabledAt
    rw [hacc, hbook]
    rfl
  unfold State.changeStation
  rw [hb, ha, ← hp]
  rfl

section

variable (s : State) (st : Station) (after : StationEntry)

theorem enabledAt_acc : (s.enabledAt st after).acc = s.acc := (setStationState_keeps _ _ _).2.2.2.1

theorem enabledAt_book : (s.enabledAt st after).book = s.book := (setStationState_keeps _ _ _).2.2.2.2.2.1

theorem enabledAt_poller :
    (s.enabledAt st after).poller =
      { s.poller with
        copy := s.poller.copy.map fun copy => upd copy st after, states := upd s.poller.states st .unknown } :=
  setStationState_poller _ _ _

end

/-- R21: a station primed while a working book is held counts every second of the window. -/
theorem prime_count {s : State} (h : s.book.working.isSome = true) (st : Station) : (s.prime st).acc.accts[st].n = s.acc.w := by
  obtain ⟨b, hb⟩ := Option.isSome_iff_exists.1 h
  unfold State.prime State.bookRecord
  rw [hb]
  exact congrArg Account.n (upd_same s.acc.accts st _)

section

variable {s : State} {st : Station} {before after : StationEntry} (hb : before.enabled = false) (ha : after.enabled = true)

include hb ha

theorem enable_poller :
    (s.changeStation st before after).poller =
      { s.poller with
        copy := s.poller.copy.map fun copy => upd copy st after, states := upd s.poller.states st .unknown } := by
  rw [changeStation_enable hb ha, ← enabledAt_poller]
  split
  · exact (prime_keeps _ _).2.2.2.2.2.1
  · rfl

theorem enable_book : (s.changeStation st before after).book = s.book := by
  rw [changeStation_enable hb ha, ← enabledAt_book s st after]
  split
  · exact (prime_keeps _ _).2.2.2.2.2.2.2.2.1
  · rfl

theorem enable_primes (h : s.primesOnEnable st = true) : (s.changeStation st before after).acc.accts[st].n = s.acc.w := by
  have hw : s.book.working.isSome = true := (Bool.and_eq_true _ _ ▸ h).2
  rw [changeStation_enable hb ha, if_pos h, prime_count (by rw [enabledAt_book]; exact hw), enabledAt_acc]

theorem enable_acc (h : s.primesOnEnable st = false) : (s.changeStation st before after).acc = s.acc := by
  rw [changeStation_enable hb ha, if_neg (by simp [h]), enabledAt_acc]

end

theorem primesOnEnable_iff (s : State) (st : Station) :
    s.primesOnEnable st = true ↔ s.acc.accts[st].n = 0 ∧ s.book.working.isSome = true := by
  simp [State.primesOnEnable]

/-! ### A disable (R13, R31, R38, R62, R73) -/

/-- R13, R31, R38: the account of a station that has been disabled. -/
def Account.disable (a : Account) : Account :=
  { a with missing := 0, a := { a.a with overdrawn := false }, c := { a.c with overdrawn := false }, unctl := false }

/-- The entry put, the account's states cleared and the station DISABLED, with the open round still as it was. -/
def State.disabledAt (st : Station) (after : StationEntry) (s : State) : State :=
  ((s.putEntry st after).disableAccount st).setStationState st .disabled

theorem changeStation_disable {before after : StationEntry} (hb : before.enabled = true) (ha : after.enabled = false) (st : Station)
    (s : State) : s.changeStation st before after = (s.disabledAt st after).disableInRound st := by
  unfold State.changeStation State.disabledAt
  rw [hb, ha]
  exact if_pos rfl

theorem disableAccount_acc (st : Station) (s : State) :
    (s.disableAccount st).acc = { s.acc with accts := upd s.acc.accts st s.acc.accts[st].disable } := by
  unfold State.disableAccount
  dsimp only
  rw [(report_keeps _ _ _ _ _).2.2.2.1, (handExceed_keeps _ _).2.2.2.1]
  rfl

section

variable (s : State) (st : Station) (after : StationEntry)

theorem disabledAt_acc : (s.disabledAt st after).acc = { s.acc with accts := upd s.acc.accts st s.acc.accts[st].disable } := by
  unfold State.disabledAt
  rw [(setStationState_keeps _ _ _).2.2.2.1, disableAccount_acc]
  rfl

theorem disabledAt_poller :
    (s.disabledAt st after).poller =
      { s.poller with
        copy := s.poller.copy.map fun copy => upd copy st after, states := upd s.poller.states st .disabled } := by
  unfold State.disabledAt
  rw [setStationState_poller, (disableAccount_keeps _ _).2.2.2.2.1]
  rfl

theorem disabledAt_book : (s.disabledAt st after).book = s.book := by
  unfold State.disabledAt
  rw [(setStationState_keeps _ _ _).2.2.2.2.2.1, (disableAccount_keeps _ _).2.2.2.2.2.2.2.1]
  rfl

theorem disabledAt_cfg : (s.disabledAt st after).gain.cfg = s.gain.cfg := by
  unfold State.disabledAt
  rw [setStationState_cfg, (disableAccount_keeps _ _).2.2.2.1]
  rfl

theorem disabledAt_loopLine (l : Loop) : (s.disabledAt st after).loopLine l = s.loopLine l := by
  unfold State.loopLine
  rw [disabledAt_poller]

end

section

variable {v : State} {st : Station}

/-- R62: the station, without an exchange in progress, leaves the list of an open round. -/
theorem disableInRound_listed (h : ∀ e, v.poller.exch = some e → e.station ≠ st) :
    ∃ todo, v.disableInRound st = { v with poller := { v.poller with todo := todo } } ∧
      (v.poller.roundOpen = true → v.poller.exch.isSome = true → st ∉ todo) := by
  unfold State.disableInRound
  cases ho : v.poller.roundOpen with
  | false => exact ⟨v.poller.todo, rfl, fun h => nomatch h⟩
  | true =>
    cases hx : v.poller.exch with
    | none => exact ⟨v.poller.todo, rfl, fun _ h => nomatch h⟩
    | some e =>
      refine ⟨_, if_neg (h e hx), fun _ _ hm => ?_⟩
      simp at hm

variable {e : Exchange} (ho : v.poller.roundOpen = true) (hx : v.poller.exch = some e) (he : e.station = st)

include ho hx he

/-- R62: the exchange in progress is abandoned. -/
theorem disableInRound_exchange : v.disableInRound st = (v.settle e).proceed := by
  unfold State.disableInRound
  rw [if_pos ho, hx]
  exact if_pos he

theorem disableInRound_next {nx : Station} {rest : List Station} {copy : Vector StationEntry 16} (ht : v.poller.todo = nx :: rest)
    (hc : v.poller.copy = some copy) :
    v.disableInRound st = ((v.settle e).listed rest).beginExchange nx copy[nx] := by
  rw [disableInRound_exchange ho hx he]
  exact proceed_begin (s := v.settle e) ht hc

theorem disableInRound_last (ht : v.poller.todo = []) : v.disableInRound st = (v.settle e).closeByLastOutcome := by
  rw [disableInRound_exchange ho hx he]
  exact proceed_close (s := v.settle e) ht

end

end Sys2Proof.Machine

/-! SUPPORT. The round after a SET_STATION that disables a station (R62, R63, R69), and O45. -/

namespace Sys2Proof.Machine

/-- R63, R69: the round going on changes neither the station states nor the copy nor the working book. -/
theorem proceed_states (s : State) :
    s.proceed.poller.states = s.poller.states ∧ s.proceed.poller.copy = s.poller.copy ∧
      s.proceed.book.working = s.book.working := by
  unfold State.proceed
  split
  · rw [beginExchange_eq]
    obtain ⟨loops, exch, hr⟩ := (attemptOnly_sendAttempt _ _).rest
    rw [hr]
    exact ⟨rfl, rfl, rfl⟩
  · obtain ⟨-, -, -, hs, hc, -, -, -, -, -, -, -, -, -, hb⟩ := closure_frame (probesOnly_closeByLastOutcome s)
    exact ⟨hs, hc, hb⟩

theorem disableInRound_states (v : State) (st : Station) :
    (v.disableInRound st).poller.states = v.poller.states ∧ (v.disableInRound st).poller.copy = v.poller.copy ∧
      (v.disableInRound st).book.working = v.book.working := by
  unfold State.disableInRound
  split
  · split
    · split
      · exact proceed_states _
      · exact ⟨rfl, rfl, rfl⟩
    · exact ⟨rfl, rfl, rfl⟩
  · exact ⟨rfl, rfl, rfl⟩

section

variable {s : State} {st : Station} {before after : StationEntry} (hb : before.enabled = true) (ha : after.enabled = false)

include hb ha

theorem disable_states :
    (s.changeStation st before after).poller.states[st] = .disabled ∧
      (s.changeStation st before after).poller.copy = s.poller.copy.map (fun copy => upd copy st after) ∧
      (s.changeStation st before after).book.working = s.book.working := by
  obtain ⟨hs, hc, hw⟩ := disableInRound_states (s.disabledAt st after) st
  rw [changeStation_disable hb ha]
  refine ⟨?_, ?_, ?_⟩
  · rw [hs, disabledAt_poller]; exact upd_same _ _ _
  · rw [hc, disabledAt_poller]
  · rw [hw, disabledAt_book]

/-- R62: a disable of a station without an exchange in progress. -/
theorem disable_listed (h : ∀ e, s.poller.exch = some e → e.station ≠ st) :
    let u := s.changeStation st before after
    u.poller.exch = s.poller.exch ∧
      (∀ o : Station, o ≠ st → u.acc.accts[o] = s.acc.accts[o] ∧ u.poller.states[o] = s.poller.states[o]) ∧
      u.acc.accts[st] = s.acc.accts[st].disable ∧
      (s.poller.roundOpen = true → s.poller.exch.isSome = true → st ∉ u.poller.todo) := by
  have hp := disabledAt_poller s st after
  have hacc := disabledAt_acc s st after
  obtain ⟨todo, hu, ht⟩ := disableInRound_listed (v := s.disabledAt st after) (st := st) (by rw [hp]; exact h)
  rw [changeStation_disable hb ha, hu]
  dsimp only
  rw [hp] at ht ⊢
  rw [hacc]
  exact ⟨rfl, fun o ho => ⟨upd_other _ _ _ _ ho, upd_other _ _ _ _ ho⟩, upd_same _ _ _, ht⟩

variable {e : Exchange} (ho : s.poller.roundOpen = true) (hx : s.poller.exch = some e) (he : e.station = st)

include ho hx he

/-- R62, R63: a disable of the station whose exchange is in progress, with a station listed. -/
theorem disable_next {nx : Station} {rest : List Station} {copy : Vector StationEntry 16} (ht : s.poller.todo = nx :: rest)
    (hc : s.poller.copy.map (fun copy => upd copy st after) = some copy) :
    let u := s.changeStation st before after
    u.BeginsExchange copy nx rest ∧ u.poller.roundOpen = true ∧
      ∀ l : Loop, (u.loopLine l).fails = (s.loopLine l).fails ∧ (u.loopLine l).state = (s.loopLine l).state := by
  have hp := disabledAt_poller s st after
  have hl := disabledAt_loopLine s st after
  rw [changeStation_disable hb ha,
    disableInRound_next (v := s.disabledAt st after) (by rw [hp]; exact ho) (by rw [hp]; exact hx) he (by rw [hp]; exact ht)
      (by rw [hp]; exact hc)]
  generalize s.disabledAt st after = v at *
  have hr := attemptOnly_sendAttempt (copy[nx].firstExchange nx) ((v.settle e).listed rest)
  have hbg := beginExchange_begins copy nx ((v.settle e).listed rest)
  rw [beginExchange_eq] at hbg ⊢
  obtain ⟨loops, exch, hrest⟩ := hr.rest
  refine ⟨hbg, ?_, fun l => ?_⟩
  · rw [hrest]
    exact (congrArg Poller.roundOpen hp).trans ho
  · rw [← hl l]
    exact ⟨(hr.loops l).2.1, (hr.loops l).1⟩

/-- R62, R69: a disable of the station whose exchange is in progress, with none listed. -/
theorem disable_last (ht : s.poller.todo = []) :
    let u := s.changeStation st before after
    u.poller.roundOpen = false ∧ u.poller.exch = none ∧ u.poller.todo = [] ∧
      (∀ o : Station, u.acc.advanced[o] = true ∧
        u.acc.accts[o].ring =
          if s.acc.advanced[o] then s.acc.accts[o].ring
          else ({ mark := .absent, eA := 0, eC := 0 } :: s.acc.accts[o].ring).take 900) ∧
      (s.gain.cfg.isSome = true → ∀ k : Stage, u.gain.stages[k].target = u.softTarget k) ∧
      ∀ l : Loop, (u.loopLine l).fails = (s.loopLine l).fails ∧ (u.loopLine l).state = (s.loopLine l).state := by
  have hp := disabledAt_poller s st after
  have hl := disabledAt_loopLine s st after
  have hacc := disabledAt_acc s st after
  have hcfg := disabledAt_cfg s st after
  rw [changeStation_disable hb ha,
    disableInRound_last (v := s.disabledAt st after) (by rw [hp]; exact ho) (by rw [hp]; exact hx) he (by rw [hp]; exact ht)]
  generalize s.disabledAt st after = v at *
  have hcl := probesOnly_closeByLastOutcome (v.settle e)
  obtain ⟨hopen, hexch, htodo, -, -, -, ha', hg, -⟩ := closure_frame hcl
  refine ⟨hopen, hexch, htodo, fun o => ?_, fun hc k => ?_, fun l => ?_⟩
  · have hadv : (v.settle e).acc.advanced[o] = s.acc.advanced[o] := by
      rw [show (v.settle e).acc = v.acc from rfl, hacc]
    have hring : (v.settle e).acc.accts[o].ring = s.acc.accts[o].ring := by
      rw [show (v.settle e).acc = v.acc from rfl, hacc]
      dsimp only
      rw [upd_get]
      split
      · next h => rw [h]; rfl
      · rfl
    rw [ha', ← hring, ← hadv, closeRound_account]
    refine ⟨closeRound_advanced _ o, ?_⟩
    split <;> rfl
  · rw [hg, closure_softTarget hcl]
    exact closeRound_target (s := v.settle e) (by rw [show (v.settle e).gain.cfg = v.gain.cfg from rfl, hcfg]; exact hc) k
  · rw [← hl l]
    exact ⟨(closure_loop hcl l).2.1, (closure_loop hcl l).1⟩

end

/-! ### SET_STATION (R174) -/

section

variable {s : State} {i : Slot} {p : Scan} (hw : s.ram.wf = true) (h : s.TakesNext i p .setStation)

include hw h

theorem setStation_refuses {code : ResultCode}
    (hr : serveSetStation (s.ram.read (slotAddr i) 64) (s.atSlot p) = (s.atSlot p, .refused code [])) (hc : code.code < 256) :
    ∃ t, exec (.setStation i) s = .next t ∧ s.Answered t i 4 code.code [] ∧ t = s.afterScanOnly t p :=
  ⟨_, setStation_refused h hr, refuse_answered hw i p hc⟩

/-- R61, R174: the blocks and the RAM after a SET_STATION that has changed an entry. -/
theorem setStation_takes {st : Station} {before after : StationEntry} {results : List Result} (hp : placed 4 results)
    (hr : serveSetStation (s.ram.read (slotAddr i) 64) (s.atSlot p) =
      ((s.atSlot p).changeStation st before after, .done results)) :
    ∃ r n, exec (.setStation i) s =
        .next { (s.atSlot p).changeStation st before after with ram := r, notices := n } ∧
      slotHolds r i 3 0 results ∧
      r.readLe (0x0100 + 16 * st.val) 1 = boolCode after.enabled ∧ r.readLe (0x0101 + 16 * st.val) 1 = after.addr % 256 ∧
      r.readLe (0x0102 + 16 * st.val) 1 = loopCode after.loop ∧
      ((s.atSlot p).changeStation st before after).scanner.scan = some p ∧
      ((s.atSlot p).changeStation st before after).scanner.flags = s.scanner.flags := by
  have hu : ((s.atSlot p).changeStation st before after).Tidy (s.ram.writeStationEntry st after) s.log.writeIdx (some p)
      s.scanner.flags := (putEntry_tidy (s := s.atSlot p) hw st after).changeStation
  have hexec := setStation_done h hr
  generalize (s.atSlot p).changeStation st before after = u at *
  obtain ⟨honly, hslot, hkeeps⟩ := finish_keeps hu.wf i (s.ram.read (slotAddr i) 64) hp
  rw [honly] at hexec
  obtain ⟨h0, h1, h2⟩ := entry_of_keeps hw (keepsOutside_trans hu.keeps hkeeps (fun _ ha => ha) fun _ ha => ha)
  exact ⟨_, _, hexec, hslot, h0, h1, h2, hu.scan, hu.flags⟩

end

end Sys2Proof.Machine

/-! SUPPORT. O45: SET_STATION, the checks and the change put together. -/

namespace Sys2Proof.Machine

theorem changeStation_same {before after : StationEntry} (h : before.enabled = after.enabled) (st : Station) (s : State) :
    s.changeStation st before after = s.putEntry st after := by
  unfold State.changeStation
  rw [h]
  cases after.enabled <;> rfl

/-- R61: the entry is put into the copy, and no change moves the working book. -/
theorem changeStation_copy (st : Station) (before after : StationEntry) (s : State) :
    (s.changeStation st before after).poller.copy = s.poller.copy.map (fun copy => upd copy st after) ∧
      (s.changeStation st before after).book.working = s.book.working := by
  cases hb : before.enabled with
  | false =>
    cases ha : after.enabled with
    | false => rw [changeStation_same (hb.trans ha.symm)]; exact ⟨rfl, rfl⟩
    | true => rw [enable_poller hb ha, enable_book hb ha]; exact ⟨rfl, rfl⟩
  | true =>
    cases ha : after.enabled with
    | false => exact (disable_states hb ha).2
    | true => rw [changeStation_same (hb.trans ha.symm)]; exact ⟨rfl, rfl⟩

/-- The result byte of priming (Table 9-8). -/
theorem primed_iff {s : State} {st : Station} {before after : StationEntry} :
    boolCode (!before.enabled && after.enabled && s.primesOnEnable st) = 1 ↔
      before.enabled = false ∧ after.enabled = true ∧ s.acc.accts[st].n = 0 ∧ s.book.working.isSome = true := by
  rw [← primesOnEnable_iff]
  cases before.enabled <;> cases after.enabled <;> cases s.primesOnEnable st <;> simp [boolCode]

/-- R174: the parameters that check 1 refuses. -/
def State.badChange (s : State) (i : Slot) : Prop :=
  15 < s.param i 0x04 1 ∨ 7 < s.param i 0x05 1 ∨ (bit (s.param i 0x05 1) 0 = true ∧ 1 < s.param i 0x06 1) ∨
    (bit (s.param i 0x05 1) 1 = true ∧ (s.param i 0x07 1 = 0 ∨ 62 < s.param i 0x07 1)) ∨
    (bit (s.param i 0x05 1) 2 = true ∧ 1 < s.param i 0x08 1)

theorem valid_of_not_bad {s : State} {i : Slot} (h : ¬ s.badChange i) : (s.changeOf i).valid = true :=
  (valid_iff _).2 fun hb => h (.inr hb)

theorem serve_bad {s : State} {i : Slot} (p : Scan) (h : s.badChange i) :
    serveSetStation (s.ram.read (slotAddr i) 64) (s.atSlot p) = (s.atSlot p, .refused .badField []) := by
  by_cases hst : 15 < s.param i 0x04 1
  · exact serve_badStation p hst
  · have hv : (s.changeOf i).valid = false := by
      rw [← Bool.not_eq_true, valid_iff]
      exact fun hn => hn (h.resolve_left hst)
    exact serve_invalid p (st := ⟨s.param i 0x04 1, by omega⟩) rfl hv

/-- Settles O45, by the checks in their order and then by whether the entry is enabled, disabled or neither. -/
theorem setStationChangesTheEntry : Obligations.SetStationChangesTheEntry := by
  unfold Obligations.SetStationChangesTheEntry
  intro s i p hw h _ _ _ _ _ bad
  refine ⟨fun hbad => setStation_refuses hw h (serve_bad p hbad) (by decide), ?_⟩
  intro st hst hbad before after _ _ _ _
  have hv := valid_of_not_bad hbad
  have hafter : (s.changeOf i).apply s.entries[st] = after := rfl
  refine ⟨fun hm => ?_, fun hm hmis => ?_, fun hm hmis hpar => ?_, fun hm hmis hpar hclash => ?_,
    fun hm hmis hpar hclash => ?_⟩
  · have hexec := setStation_done h (serve_unmasked p hst hv hm)
    exact ⟨_, hexec, finish_answered hw i p (stationResults_placed _ _ _ _)⟩
  · exact setStation_refuses hw h (serve_refused p hst hv hm (refusal_misaddressed hmis)) (by decide)
  · exact setStation_refuses hw h (serve_refused p hst hv hm (refusal_unreadable hmis hpar)) (by decide)
  · exact setStation_refuses hw h (serve_refused p hst hv hm (refusal_clashes hmis hpar hclash)) (by decide)
  · have hserve := serve_changed p hst hv hm (refusal_none hmis hpar hclash)
    dsimp only at hserve
    rw [hafter, show s.entries[st] = before from rfl] at hserve
    clear_value before after
    obtain ⟨r, n, hexec, hslot, h0, h1, h2, hscan, hflags⟩ := setStation_takes hw h (stationResults_placed _ _ _ _) hserve
    obtain ⟨hcopy, hwork⟩ := changeStation_copy st before after (s.atSlot p)
    obtain ⟨hrun, hclock, hregs, hwalk, -⟩ := changeStation_keeps st before after (s.atSlot p)
    refine ⟨_, hexec, hcopy, h0, h1, h2, ⟨_, hslot, primed_iff⟩, hrun, hclock, hregs, hwalk, hwork, hscan, hflags,
      fun heq => ?_, fun hb ha => ?_, fun hb ha => ?_⟩
    · rw [changeStation_same heq]
      rfl
    · have hpoll := enable_poller (s := s.atSlot p) (st := st) hb ha
      refine ⟨?_, ?_, ?_, fun hprimes => ?_, fun hprimes => ?_⟩
      · dsimp only
        rw [hpoll]
        exact upd_same _ _ _
      · dsimp only
        rw [hpoll]
        rfl
      · dsimp only
        rw [hpoll]
        rfl
      · exact enable_primes hb ha ((primesOnEnable_iff _ _).2 hprimes.2.2)
      · refine enable_acc hb ha (Bool.eq_false_iff.2 fun hp => hprimes ⟨hb, ha, (primesOnEnable_iff _ _).1 hp⟩)
    · refine ⟨(disable_states hb ha).1, fun hx => ?_, fun e nx rest copy ho hx he ht hc => ?_, fun e ho hx he ht => ?_⟩
      · obtain ⟨hexch, hothers, hacct, htodo⟩ := disable_listed (s := s.atSlot p) hb ha hx
        dsimp only
        rw [hacct]
        exact ⟨hexch, hothers, rfl, rfl, rfl, rfl, rfl, rfl, htodo⟩
      · exact disable_next (s := s.atSlot p) hb ha ho hx he ht (hcopy ▸ hc)
      · exact disable_last (s := s.atSlot p) hb ha ho hx he ht

end Sys2Proof.Machine

/-! SUPPORT. The software reset (R6, R26, R166, R176, R177): what it makes of the blocks, of the slots in flight and of the notice
queue; and O23. -/

namespace Sys2Proof.Machine

/-! ### The slots in flight (R176) -/

theorem slotReads_iff {m : Memory} {i : Slot} {v : Nat} :
    m.slotReads i v = true ↔ m.badAt (slotAddr i) = false ∧ m.readLe (slotAddr i) 1 = v := by
  simp [Memory.slotReads, readLe_one]

/-- R176: one slot with a request in flight. -/
def Memory.refuseSlot (m : Memory) (i : Slot) : Memory :=
  if m.slotReads i slotTaken then m.finishSlot i slotRefused ResultCode.reset.code [] else m

theorem refuseSlot_of_taken {m : Memory} {i : Slot} (h : m.slotReads i slotTaken = true) :
    m.refuseSlot i = m.finishSlot i 4 7 [] := if_pos h

theorem refuseSlot_of_other {m : Memory} {i : Slot} (h : m.slotReads i slotTaken = false) : m.refuseSlot i = m :=
  if_neg (by simp [h])

theorem wf_refuseSlot {m : Memory} (h : m.wf = true) (i : Slot) : (m.refuseSlot i).wf = true := by
  unfold Memory.refuseSlot
  split
  · exact wf_finishSlot h _ _ _ _
  · exact h

/-- The state byte or the result code of a slot that reads TAKEN and has a request in flight. -/
def inRefused (m : Memory) (fs : List InFlight) (a : Nat) : Prop :=
  ∃ i : Slot, (∃ f ∈ fs, f.slot = i) ∧ m.slotReads i slotTaken = true ∧ (a = slotAddr i ∨ a = slotAddr i + 3)

theorem inResults_nil {i : Slot} {a : Nat} : inResults i [] a ↔ a = slotAddr i ∨ a = slotAddr i + 3 := by
  simp [inResults]

/-- Slots lie 64 bytes apart. -/
theorem slot_apart {i j : Slot} (h : i ≠ j) {a b : Nat} (ha : a < 64) (hb : b < 64) : slotAddr i + a ≠ slotAddr j + b := by
  have : i.val ≠ j.val := fun e => h (Fin.ext e)
  unfold slotAddr
  omega

theorem refuseSlot_keeps {m : Memory} (h : m.wf = true) (i : Slot) :
    keepsOutside (fun a => m.slotReads i slotTaken = true ∧ (a = slotAddr i ∨ a = slotAddr i + 3)) m (m.refuseSlot i) := by
  cases ht : m.slotReads i slotTaken with
  | false => rw [refuseSlot_of_other ht]; exact keepsOutside_refl _ _
  | true =>
    rw [refuseSlot_of_taken ht]
    exact keepsOutside_trans (keepsOutside_refl _ _) (keeps_finishSlot h i 4 7 []) (fun _ ha => ha)
      fun a ha => ⟨rfl, inResults_nil.1 ha⟩

/-- R176: a slot that reads TAKEN after another was refused read it before; the refused one reads it no more. -/
theorem slotReads_refuseSlot {m : Memory} (h : m.wf = true) (i j : Slot) :
    (m.refuseSlot i).slotReads j slotTaken = true ↔ j ≠ i ∧ m.slotReads j slotTaken = true := by
  by_cases hj : j = i
  · subst hj
    refine iff_of_false (fun hr => ?_) fun hr => hr.1 rfl
    cases ht : m.slotReads j slotTaken with
    | false =>
      rw [refuseSlot_of_other ht, ht] at hr
      exact nomatch hr
    | true =>
      rw [refuseSlot_of_taken ht, slotReads_iff,
        (slotHolds_finishSlot h j 4 7 (results := []) (by simp [placed]) (by decide) (by decide)).1] at hr
      exact absurd hr.2 (by decide)
  · have hk := refuseSlot_keeps h i (slotAddr j) fun ha =>
      ha.2.elim (slot_apart hj (a := 0) (b := 0) (by decide) (by decide)) (slot_apart hj (a := 0) (b := 3) (by decide) (by decide))
    rw [slotReads_iff, slotReads_iff, readLe_one, readLe_one, hk.1, hk.2]
    exact ⟨fun hr => ⟨hj, hr⟩, fun hr => hr.2⟩

theorem refuseInFlight_cons (m : Memory) (f : InFlight) (fs : List InFlight) :
    m.refuseInFlight (f :: fs) = (m.refuseSlot f.slot).refuseInFlight fs := rfl

theorem wf_refuseInFlight {m : Memory} (h : m.wf = true) (fs : List InFlight) : (m.refuseInFlight fs).wf = true := by
  induction fs generalizing m with
  | nil => exact h
  | cons f fs ih => exact ih (wf_refuseSlot h _)

theorem refuseInFlight_keeps {m : Memory} (h : m.wf = true) (fs : List InFlight) :
    keepsOutside (inRefused m fs) m (m.refuseInFlight fs) := by
  induction fs generalizing m with
  | nil => exact keepsOutside_refl _ _
  | cons f fs ih =>
    rw [refuseInFlight_cons]
    refine keepsOutside_trans (refuseSlot_keeps h f.slot) (ih (wf_refuseSlot h _)) (fun a ha => ?_) fun a ha => ?_
    · exact ⟨f.slot, ⟨f, List.mem_cons_self, rfl⟩, ha⟩
    · obtain ⟨i, ⟨g, hg, hgi⟩, ht, ha⟩ := ha
      exact ⟨i, ⟨g, List.mem_cons_of_mem _ hg, hgi⟩, ((slotReads_refuseSlot h _ _).1 ht).2, ha⟩

/-- R176: a slot with a request in flight that reads TAKEN becomes REFUSED with RESET. -/
theorem refuseInFlight_refuses {m : Memory} (h : m.wf = true) (fs : List InFlight) {i : Slot} (hf : ∃ f ∈ fs, f.slot = i)
    (ht : m.slotReads i slotTaken = true) : slotHolds (m.refuseInFlight fs) i 4 7 [] := by
  induction fs generalizing m with
  | nil => obtain ⟨f, hf, -⟩ := hf; exact nomatch hf
  | cons f fs ih =>
    rw [refuseInFlight_cons]
    by_cases hi : i = f.slot
    · have hold : slotHolds (m.refuseSlot f.slot) i 4 7 [] := by
        rw [← hi, refuseSlot_of_taken ht]
        exact slotHolds_finishSlot h i 4 7 (by simp [placed]) (by decide) (by decide)
      have hno : ∀ b, b < 64 → ¬ inRefused (m.refuseSlot f.slot) fs (slotAddr i + b) := by
        rintro b hb ⟨j, -, hj, ha⟩
        obtain ⟨hne, -⟩ := (slotReads_refuseSlot h _ _).1 hj
        have hij : i ≠ j := fun e => hne (e.symm.trans hi)
        exact ha.elim (slot_apart hij hb (b := 0) (by decide)) (slot_apart hij hb (b := 3) (by decide))
      refine slotHolds_congr (by simp [placed]) (fun a h1 h2 => ?_) hold
      have := (refuseInFlight_keeps (wf_refuseSlot h f.slot) fs a
        (by rw [show a = slotAddr i + (a - slotAddr i) by omega]; exact hno _ (by omega))).1
      exact this
    · obtain ⟨g, hg, hgi⟩ := hf
      refine ih (wf_refuseSlot h _) ⟨g, ?_, hgi⟩ ((slotReads_refuseSlot h _ _).2 ⟨hi, ht⟩)
      exact (List.mem_cons.1 hg).resolve_left fun e => hi (hgi.symm.trans (e ▸ rfl))

/-! ### The first notice (R177) -/

/-- A number read from bytes where they were written. -/
theorem readLe_writeBytes_field {m : Memory} (h : m.wf = true) (a : Nat) (bs : List Byte) {off n : Nat} (hn : off + n ≤ bs.length) :
    (m.writeBytes a bs).readLe (a + off) n = leNat ((bs.drop off).take n) := by
  rw [← field_read _ a bs.length off n hn, read_writeBytes h, field]

/-- R178: the fields of a notice where it was written. -/
theorem readLe_notice {m : Memory} (h : m.wf = true) (a seq kind sub clock detail : Nat) :
    let k := m.writeBytes a (noticeBytes seq kind sub clock detail)
    k.readLe a 2 = seq % 65536 ∧ k.readLe (a + 2) 1 = kind % 256 ∧ k.readLe (a + 3) 1 = sub % 256 ∧
      k.readLe (a + 4) 4 = clock % 4294967296 ∧ k.readLe (a + 8) 4 = detail % 4294967296 := by
  have hl : (noticeBytes seq kind sub clock detail).length = 16 := by simp [noticeBytes]
  have hf := fun off n (hn : off + n ≤ 16) => readLe_writeBytes_field (off := off) (n := n) h a
    (noticeBytes seq kind sub clock detail) (hl ▸ hn)
  have hle := fun n v => leNat_leBytes n v
  dsimp only
  refine ⟨(hf 0 2 (by omega)).trans ?_, (hf 2 1 (by omega)).trans ?_, (hf 3 1 (by omega)).trans ?_,
    (hf 4 4 (by omega)).trans ?_, (hf 8 4 (by omega)).trans ?_⟩
  · exact hle 2 seq
  · exact hle 1 kind
  · exact hle 1 sub
  · exact hle 4 clock
  · exact hle 4 detail

theorem post_empty {s : State} (h : s.notices = .reset) (hi : s.run.intBit = false) (kind sub detail : Nat) :
    s.post kind sub detail =
      { s with
        ram := s.ram.writeBytes 0x2400 (noticeBytes 0 kind sub s.clock detail)
        notices := { NoticeWriter.reset with head := 1, seq := 1 } } := by
  unfold State.post State.driveIrq
  rw [h, hi]
  rfl

/-! ### The blocks (R6, R166) -/

/-- R6: the rings at a software reset. -/
theorem resetRound_account (s : State) (st : Station) :
    s.resetRound.acc.accts[st] =
      if s.poller.roundOpen = true ∧ s.acc.advanced[st] = false then s.acc.accts[st].advance s.acc.w .unwritten
      else s.acc.accts[st] := by
  unfold State.resetRound
  cases s.poller.roundOpen with
  | false => rfl
  | true =>
    rw [if_pos rfl, advanceRest_account]
    cases s.acc.advanced[st] <;> rfl

theorem resetRound_frame (s : State) : s.resetRound.acc.frame = s.acc.frame := by
  unfold State.resetRound
  split <;> simp

theorem resetRound_writeIdx (s : State) : s.resetRound.log.writeIdx = s.log.writeIdx := by
  unfold State.resetRound
  split
  · exact (logFrame_iff.1 (advanceRest_logFrame s)).1
  · rfl

/-- R166: the part after a software reset, before its first notice. -/
def State.forgotten (s : State) : State :=
  { s.resetRound with
    run := { s.run with state := .idle, error := .none, runBit := false, muteBit := false, intBit := false }
    clock := s.clock
    regs := s.regs
    ram := s.ram.refuseInFlight s.scanner.inFlight
    acc := s.resetRound.acc.softReset
    gain := { stages := Vector.replicate 4 .reset, cfg := none }
    poller := s.resetRound.poller.softReset
    links := { lines := Vector.ofFn fun k : Fin 4 => s.resetRound.links.lines[k].softReset, cfg := none }
    walker := .reset
    book := { s.book with working := none, area := 0 }
    scanner := .reset
    notices := .reset
    log := s.resetRound.log.softReset }

theorem softReset_eq (s : State) :
    s.softReset =
      { s.forgotten with
        ram :=
          (s.ram.refuseInFlight s.scanner.inFlight).writeBytes 0x2400 (noticeBytes 0 23 0 s.clock (s.run.state.code + 256 * 1))
        notices := { NoticeWriter.reset with head := 1, seq := 1 } } := by
  obtain ⟨hrun, hclock, hregs, hram, -, -, -, -, hbook, hscan, -⟩ := resetRound_keeps s
  have h : s.softReset = s.forgotten.post 23 0 (s.run.state.code + 256 * 1) := by
    unfold State.softReset State.forgotten State.postRunState
    dsimp only
    rw [hrun, hclock, hregs, hram, hbook, hscan]
    rfl
  have hforgot : s.forgotten.ram = s.ram.refuseInFlight s.scanner.inFlight := rfl
  rw [h, post_empty rfl rfl, hforgot]
  rfl

theorem softReset_exec {s : State} {high : Half} (hr : s.run.state ≠ .resetBusy) (hb : bit (s.written high) 1 = true) :
    exec (.softReset high) s = .next s.softReset := by
  have h : s.writeRegister .control high = s.softReset := (if_neg hr).trans (if_pos hb)
  exact congrArg Host.Outcome.next h

end Sys2Proof.Machine

/-! SUPPORT. O23: the software reset. -/

namespace Sys2Proof.Machine

/-- R26, R31, R38: the account record of a station after a software reset. -/
theorem forgotten_account (s : State) (st : Station) :
    s.forgotten.acc.accts[st] = s.resetRound.acc.accts[st].softReset := by
  unfold State.forgotten Accumulator.softReset
  exact ofFn_get _ st

theorem forgotten_loopLine (s : State) (l : Loop) :
    s.forgotten.loopLine l = { LoopLine.reset with tx := (s.resetRound.loopLine l).tx } :=
  ofFn_get _ (loopIx l)

theorem forgotten_line (s : State) (k : Stage) : s.forgotten.links.lines[k] = s.resetRound.links.lines[k].softReset :=
  ofFn_get _ k

theorem forgotten_stage (s : State) (k : Stage) : s.forgotten.gain.stages[k] = State.reset.gain.stages[k] :=
  (replicate_get GainStage.reset k).trans (replicate_get GainStage.reset k).symm

theorem forgotten_state (s : State) (st : Station) : s.forgotten.poller.states[st] = .unknown := replicate_get _ st

/-- P_amb is not touched by the closing of the round. -/
theorem resetRound_pAmb (s : State) (st : Station) :
    s.resetRound.acc.accts[st].a.pAmb = s.acc.accts[st].a.pAmb ∧ s.resetRound.acc.accts[st].c.pAmb = s.acc.accts[st].c.pAmb := by
  rw [resetRound_account]
  split <;> exact ⟨rfl, rfl⟩

/-- R176, R177: shared RAM after a software reset. -/
theorem softReset_ram {s : State} (hw : s.ram.wf = true) {m : Memory}
    (hm : m = (s.ram.refuseInFlight s.scanner.inFlight).writeBytes 0x2400
      (noticeBytes 0 23 0 s.clock (s.run.state.code + 256 * 1))) :
    let taken := fun (i : Slot) =>
      (∃ f ∈ s.scanner.inFlight, f.slot = i) ∧ s.ram.badAt (slotAddr i) = false ∧ s.ram.readLe (slotAddr i) 1 = 2
    m.readLe 0x2400 2 = 0 ∧ m.readLe 0x2402 1 = 23 ∧ m.readLe 0x2403 1 = 0 ∧ m.readLe 0x2404 4 = s.clock % 4294967296 ∧
      m.readLe 0x2408 4 = s.run.state.code + 256 * 1 ∧ (∀ i : Slot, taken i → slotHolds m i 4 7 []) ∧
      keepsOutside (fun a => (0x2400 ≤ a ∧ a < 0x2410) ∨ ∃ i : Slot, taken i ∧ (a = slotAddr i ∨ a = slotAddr i + 3)) s.ram m := by
  intro taken
  have hwf := wf_refuseInFlight hw s.scanner.inFlight
  have hnotice := readLe_notice hwf 0x2400 0 23 0 s.clock (s.run.state.code + 256 * 1)
  have hl : (noticeBytes 0 23 0 s.clock (s.run.state.code + 256 * 1)).length = 16 := by simp [noticeBytes]
  have hkeep := refuseInFlight_keeps hw s.scanner.inFlight
  have hsmall : (s.run.state.code + 256 * 1) % 4294967296 = s.run.state.code + 256 * 1 := by cases s.run.state <;> rfl
  rw [hsmall, ← hm] at hnotice
  obtain ⟨hseq, hkind, hsub, hclock, hdetail⟩ := hnotice
  refine ⟨hseq, hkind, hsub, hclock, hdetail, fun i hi => ?_, fun a ha => ?_⟩ <;> rw [hm]
  · refine slotHolds_congr (by simp [placed]) (fun a h1 h2 => ?_)
      (refuseInFlight_refuses hw _ hi.1 (slotReads_iff.2 hi.2))
    refine byte_writeBytes_outside hwf _ _ ?_
    have := slot_not_queue i h1 h2
    unfold inNoticeQueue at this
    omega
  · have hout : a < 0x2400 ∨ 0x2400 + 16 ≤ a := by
      by_contra hc
      exact ha (.inl (by omega))
    obtain ⟨hbyte, hbad⟩ := hkeep a fun ⟨i, hf, ht, hia⟩ => ha (.inr ⟨i, ⟨hf, slotReads_iff.1 ht⟩, hia⟩)
    rw [byte_writeBytes_outside hwf _ _ (by rw [hl]; exact hout), badAt_writeBytes, hl, decide_eq_true hout, Bool.and_true]
    exact ⟨hbyte, hbad⟩

/-- Settles O23, from what the reset makes of the accounts (the round closed first) and of shared RAM. -/
theorem softResetForgetsAndKeeps : Obligations.SoftResetForgetsAndKeeps := by
  unfold Obligations.SoftResetForgetsAndKeeps
  intro s high hr hb
  have hexec := softReset_exec hr hb
  have hacct := forgotten_account s
  have hround := resetRound_account s
  have hamb := resetRound_pAmb s
  obtain ⟨hw, hset, hh, hk, hprime, -⟩ := frame_iff.1 (resetRound_frame s)
  have hidx := resetRound_writeIdx s
  refine ⟨_, hexec, ?_⟩
  rw [softReset_eq]
  refine ⟨⟨rfl, rfl, rfl, rfl, rfl⟩, ⟨rfl, rfl, rfl, rfl, rfl⟩, fun i => ⟨replicate_get _ _, fun sub => ?_⟩, rfl, rfl, ?_⟩
  · have hi : NoticeWriter.reset.conds[i] = Vector.replicate 16 false := replicate_get _ _
    exact (congrArg (fun v : Vector Bool 16 => v[sub]) hi).trans (replicate_get _ _)
  refine ⟨hw, hset, hh, hk, hprime, rfl, rfl, hidx, rfl, rfl, rfl, ?_⟩
  refine ⟨fun ho st => ?_, fun ho st => ?_, fun st => ?_, fun k => ⟨forgotten_stage s k, replicate_get _ k⟩, fun l => ?_,
    fun k => ?_, ?_⟩
  · dsimp only
    rw [hacct, hround, if_neg (fun hc => absurd hc.1 (by simp [ho]))]
    exact ⟨rfl, rfl, rfl, rfl⟩
  · dsimp only
    rw [hacct, hround]
    cases hadv : s.acc.advanced[st] with
    | false => rw [if_pos ⟨ho, rfl⟩]; rfl
    | true => rw [if_neg (fun hc => nomatch hc.2)]; rfl
  · dsimp only
    rw [hacct, ← (hamb st).1, ← (hamb st).2]
    exact ⟨rfl, rfl, rfl, rfl, rfl, rfl, rfl, rfl, rfl, rfl, rfl, rfl, rfl, rfl, forgotten_state s st⟩
  · have hl := forgotten_loopLine s l
    unfold State.loopLine at hl ⊢
    dsimp only
    rw [hl]
    exact ⟨rfl, rfl, rfl⟩
  · dsimp only
    rw [forgotten_line]
    exact ⟨rfl, rfl, rfl, rfl, rfl, rfl, rfl⟩
  · refine ⟨rfl, rfl, rfl, rfl, rfl, rfl, rfl, rfl, rfl, rfl, rfl, rfl, rfl, rfl, rfl, rfl, rfl, rfl, rfl, ?_⟩
    dsimp only
    exact fun hwf => softReset_ram hwf rfl

end Sys2Proof.Machine

/-! SUPPORT. The stop (R54, R75, R84, R103, R165): what its parts change and leave alone. -/

namespace Sys2Proof.Machine

/-! ### What the parts of a stop leave alone -/

/-- R22, R23, R35: the values in force that the accumulator holds through a stop. -/
def Accumulator.inForce (c : Accumulator) : Nat × Fin 8 × Nat × Nat × Bool := (c.w, c.set, c.h, c.k, c.primePending)

/-- From `s` to `t` nothing is clipped and nothing sent, the terms that a stop removes aside: the ceilings, targets and other terms,
the links, the configuration values held, the flags, the pointer and the values in force stay, and a measurement that has ended
does not begin again. -/
structure WindsDown (s t : State) : Prop where
  run : t.run = s.run
  stages : ∀ k : Stage, t.gain.stages[k].stop = s.gain.stages[k].stop
  bounded : ceilingsBounded t.gain.stages
  cfg : t.gain.cfg = s.gain.cfg
  links : t.links = s.links
  copy : t.poller.copy = s.poller.copy
  timing : t.poller.timing = s.poller.timing
  mode : t.log.mode = s.log.mode
  flags : t.scanner.flags = s.scanner.flags
  pointer : t.scanner.pointer = s.scanner.pointer
  inForce : t.acc.inForce = s.acc.inForce
  phase : s.acc.ambient.phase = .none → t.acc.ambient.phase = .none

namespace WindsDown

variable {s t u : State}

theorem refl (h : ceilingsBounded s.gain.stages) : WindsDown s s :=
  ⟨rfl, fun _ => rfl, h, rfl, rfl, rfl, rfl, rfl, rfl, rfl, rfl, id⟩

theorem trans (h : WindsDown s t) (g : WindsDown t u) : WindsDown s u :=
  ⟨g.run.trans h.run, fun k => (g.stages k).trans (h.stages k), g.bounded, g.cfg.trans h.cfg, g.links.trans h.links,
    g.copy.trans h.copy, g.timing.trans h.timing, g.mode.trans h.mode, g.flags.trans h.flags, g.pointer.trans h.pointer,
    g.inForce.trans h.inForce, fun hp => g.phase (h.phase hp)⟩

/-- A change outside the gain, the links and the accumulator. -/
theorem same (h : ceilingsBounded s.gain.stages) (hr : t.run = s.run) (hg : t.gain = s.gain) (hl : t.links = s.links)
    (hp : t.poller.copy = s.poller.copy ∧ t.poller.timing = s.poller.timing) (hm : t.log.mode = s.log.mode)
    (hs : t.scanner.flags = s.scanner.flags ∧ t.scanner.pointer = s.scanner.pointer) (hi : t.acc.inForce = s.acc.inForce)
    (ha : t.acc.ambient = s.acc.ambient) : WindsDown s t :=
  ⟨hr, fun _ => by rw [hg], by rw [hg]; exact h, by rw [hg], hl, hp.1, hp.2, hm, hs.1, hs.2, hi, fun hn => by rw [ha]; exact hn⟩

end WindsDown

theorem inForce_of_frame {c d : Accumulator} (h : c.frame = d.frame) : c.inForce = d.inForce ∧ c.ambient = d.ambient := by
  obtain ⟨hw, hs, hh, hk, hp, -, ha⟩ := frame_iff.1 h
  exact ⟨by simp [Accumulator.inForce, hw, hs, hh, hk, hp], ha⟩

/-! ### The measurement (R154) -/

theorem complete_scanner (j : Slot) (results : List Result) (s : State) :
    (s.complete j results).scanner.flags = s.scanner.flags ∧ (s.complete j results).scanner.pointer = s.scanner.pointer := by
  unfold State.complete
  split
  · dsimp only
    rw [(notifyDone_keeps _ _ _ _).2.2.2.2.2.2.2.2.2.1]
    exact ⟨rfl, rfl⟩
  · exact ⟨rfl, rfl⟩

theorem windsDown_complete {s : State} (h : ceilingsBounded s.gain.stages) (j : Slot) (results : List Result) :
    WindsDown s (s.complete j results) := by
  obtain ⟨hrun, -, -, hacc, hgain, hpoll, hlinks, -, -, hlog, -⟩ := complete_keeps j results s
  exact .same h hrun hgain hlinks (by rw [hpoll]; exact ⟨rfl, rfl⟩) (by rw [hlog]) (complete_scanner j results s) (by rw [hacc])
    (by rw [hacc])

/-- R48: the removal of the ambient-mute term clips nothing. -/
theorem windsDown_unmute {s : State} (h : ceilingsBounded s.gain.stages) : WindsDown s (s.setAmbientMute false) := by
  rw [setAmbientMute_false h]
  refine ⟨rfl, fun k => ?_, fun k => ?_, rfl, rfl, rfl, rfl, rfl, rfl, rfl, rfl, id⟩
  · dsimp only
    rw [ofFn_get]
    rfl
  · dsimp only
    rw [ofFn_get]
    exact (h k).trans (bound_le_unmuted _)

theorem windsDown_endAmbient {s : State} (h : ceilingsBounded s.gain.stages) : WindsDown s s.endAmbient :=
  ⟨rfl, fun _ => rfl, h, rfl, rfl, rfl, rfl, rfl, rfl, rfl, rfl, fun _ => rfl⟩

theorem windsDown_stopAmbient {s : State} (h : ceilingsBounded s.gain.stages) :
    WindsDown s s.stopAmbient ∧ s.stopAmbient.acc.ambient.phase = .none := by
  unfold State.stopAmbient
  split
  · have h1 := windsDown_unmute h
    have h2 := h1.trans (windsDown_complete h1.bounded s.acc.ambient.slot
      (ambientResults 2 s.acc.ambient.settled s.acc.ambient.measured 0))
    exact ⟨h2.trans (windsDown_endAmbient h2.bounded), rfl⟩
  · next hn =>
    have hp : s.acc.ambient.phase = .none := by simpa [Ambient.inFlight] using hn
    exact ⟨.refl h, hp⟩

/-! ### The round (R6, R84) -/

/-- R48: the removal of a stage's lost-station term raises no bound above what it was. -/
theorem bound_le_unlost (g : GainStage) : g.bound ≤ ({ g with lost := none } : GainStage).bound := by
  refine bound_mono fun x hx => ⟨x, ?_, le_refl x⟩
  simp only [GainStage.terms, List.mem_filterMap, id] at hx ⊢
  obtain ⟨o, ho, hox⟩ := hx
  refine ⟨o, ?_, hox⟩
  simp only [List.mem_cons, List.not_mem_nil, or_false] at ho ⊢
  have hnone : o ≠ none := by simp [hox]
  tauto

/-- R45, R75: outside STARTING and RUNNING no lost-station term is present. -/
theorem lostTerm_idle {s : State} (h : s.run.state = .idle) (k : Stage) : s.lostTerm k = none := by
  have hp : s.lostPresent k = false := by
    unfold State.lostPresent
    rw [h]
    rfl
  unfold State.lostTerm
  rw [hp]
  cases s.gain.cfg <;> rfl

theorem windsDown_evaluateLost {s : State} (hr : s.run.state = .idle) (h : ceilingsBounded s.gain.stages) :
    WindsDown s s.evaluateLost := by
  have he : s.evaluateLost =
      { s with gain := { s.gain with stages := Vector.ofFn fun k : Fin 4 => { s.gain.stages[k] with lost := none } } } := by
    unfold State.evaluateLost
    simp only [lostTerm_idle hr]
    exact changeTerms_unclipped fun k => (h k).trans (bound_le_unlost _)
  rw [he]
  refine ⟨rfl, fun k => ?_, fun k => ?_, rfl, rfl, rfl, rfl, rfl, rfl, rfl, rfl, id⟩
  · dsimp only
    rw [ofFn_get]
    rfl
  · dsimp only
    rw [ofFn_get]
    exact (h k).trans (bound_le_unlost _)

theorem windsDown_setStationState {s : State} (hr : s.run.state = .idle) (h : ceilingsBounded s.gain.stages) (st : Station)
    (v : StationState) : WindsDown s (s.setStationState st v) := by
  obtain ⟨hrun, -, -, hacc, hgain, hlinks, -, -, hscan, hlog, -⟩ := noteState_keeps st v s
  have hnote : WindsDown s (s.noteState st v) :=
    .same h hrun hgain hlinks (by rw [noteState_poller]; exact ⟨rfl, rfl⟩) (by rw [hlog]) (by rw [hscan]; exact ⟨rfl, rfl⟩)
      (by rw [hacc]) (by rw [hacc])
  rw [setStationState_eq]
  split
  · exact hnote
  · exact hnote.trans (windsDown_evaluateLost (by rw [hrun]; exact hr) hnote.bounded)

theorem report_log (cls : CondClass) (sub : Fin 16) (now : Bool) (v : Nat) (s : State) :
    (s.report cls sub now v).log = s.log := by simp

theorem logSample_mode (st : Station) (x : Sample) (s : State) : (s.logSample st x).log.mode = s.log.mode :=
  (logFrame_iff.1 (logSample_logFrame st x s)).2.1

theorem handExceed_mode (st : Station) (s : State) : (s.handExceed st).log.mode = s.log.mode := by
  unfold State.handExceed
  dsimp only
  rw [show ∀ u : State, ∀ b, (u.logExceed st b).log.mode = u.log.mode from fun _ _ => rfl, report_log]

theorem compute_mode (st : Station) (x : Sample) (s : State) : (s.compute st x).log.mode = s.log.mode := by
  unfold State.compute
  split
  · unfold State.stageFive
    dsimp only
    rw [report_log]
    exact handExceed_mode st _
  · rfl

theorem storeOutcome_mode (st : Station) (o : SecondOutcome) (s : State) : (s.storeOutcome st o).log.mode = s.log.mode := by
  unfold State.storeOutcome
  split
  · rfl
  · dsimp only
    rw [logSample_mode]
    split
    · rw [compute_mode]; rfl
    · rfl

theorem collect_phase (st : Station) (x : Sample) (m : Ambient) : (m.collect st x).phase = m.phase := by
  unfold Ambient.collect
  split <;> rfl

theorem windsDown_takeOutcome {s : State} (hr : s.run.state = .idle) (h : ceilingsBounded s.gain.stages) (st : Station)
    (o : SecondOutcome) : WindsDown s (s.takeOutcome st o) := by
  cases hadv : s.acc.advanced[st] with
  | true => rw [takeOutcome_of_advanced hadv]; exact .refl h
  | false =>
    rw [takeOutcome_eq hadv]
    obtain ⟨hrun, -, -, hgain, hpoll, hlinks, -, -, hscan, -⟩ := storeOutcome_keeps st o s
    have hacc := storeOutcome_acc hadv o
    have hstore : WindsDown s (s.storeOutcome st o) := by
      refine ⟨hrun, fun _ => by rw [hgain], by rw [hgain]; exact h, by rw [hgain], hlinks, by rw [hpoll], by rw [hpoll],
        storeOutcome_mode st o s, by rw [hscan], by rw [hscan], by rw [hacc]; rfl, fun hn => ?_⟩
      rw [hacc]
      exact (collect_phase _ _ _).trans hn
    exact hstore.trans (windsDown_setStationState (by rw [hrun]; exact hr) hstore.bounded st _)

theorem windsDown_handMissing {s : State} (hr : s.run.state = .idle) (h : ceilingsBounded s.gain.stages) (sts : List Station) :
    WindsDown s (s.handMissing sts) :=
  foldl_preserves (WindsDown s) _
    (fun t st ht => ht.trans (windsDown_takeOutcome (by rw [ht.run]; exact hr) ht.bounded st .missing)) sts s (.refl h)

theorem windsDown_advanceRest {s : State} (h : ceilingsBounded s.gain.stages) : WindsDown s s.advanceRest := by
  obtain ⟨hrun, -, -, -, hgain, hpoll, hlinks, -, -, hscan, -⟩ := advanceRest_keeps s
  obtain ⟨hforce, hamb⟩ := inForce_of_frame (advanceRest_frame s)
  exact .same h hrun hgain hlinks (by rw [hpoll]; exact ⟨rfl, rfl⟩) (logFrame_iff.1 (advanceRest_logFrame s)).2.1
    (by rw [hscan]; exact ⟨rfl, rfl⟩) hforce hamb

theorem windsDown_stopRound {s : State} (hr : s.run.state = .idle) (h : ceilingsBounded s.gain.stages) :
    WindsDown s s.stopRound := by
  have hpoll : ∀ (u : State) (p : Poller), ceilingsBounded u.gain.stages → p.copy = u.poller.copy → p.timing = u.poller.timing →
      WindsDown u { u with poller := p } := fun u p hu hc ht => .same hu rfl rfl rfl ⟨hc, ht⟩ rfl ⟨rfl, rfl⟩ rfl rfl
  have h0 := hpoll s { s.poller with exch := none, probe := none, probeDue := [], todo := [] } h rfl rfl
  unfold State.stopRound
  dsimp only
  generalize ({ s with poller := { s.poller with exch := none, probe := none, probeDue := [], todo := [] } } : State) = u at *
  split
  · have h1 := h0.trans (windsDown_handMissing (by rw [h0.run]; exact hr) h0.bounded s.poller.unresolved)
    have h2 := h1.trans (windsDown_advanceRest h1.bounded)
    generalize (u.handMissing s.poller.unresolved).advanceRest = v at *
    exact h2.trans (hpoll v _ h2.bounded rfl rfl)
  · exact h0

/-- R84: the round, the exchange and the probe after a stop. -/
theorem stopRound_poller (s : State) :
    s.stopRound.poller.roundOpen = false ∧ s.stopRound.poller.exch = none ∧ s.stopRound.poller.probe = none := by
  unfold State.stopRound
  dsimp only
  split
  · rw [(advanceRest_keeps _).2.2.2.2.2.1, handMissing_poller]
    exact ⟨rfl, rfl, rfl⟩
  · next ho => exact ⟨Bool.not_eq_true _ ▸ ho, rfl, rfl⟩

end Sys2Proof.Machine

/-! SUPPORT. The stop's later parts (R13, R75, R83, R103, R186), and O22. -/

namespace Sys2Proof.Machine

/-! ### The loop test, the minute and the stations -/

theorem stopTest_poller (s : State) :
    s.stopTest.poller.test = none ∧ s.stopTest.poller.copy = s.poller.copy ∧ s.stopTest.poller.timing = s.poller.timing ∧
      s.stopTest.poller.roundOpen = s.poller.roundOpen ∧ s.stopTest.poller.exch = s.poller.exch ∧
      s.stopTest.poller.probe = s.poller.probe := by
  unfold State.stopTest
  split
  · dsimp only
    rw [modLoop_poller]
    unfold State.setLoop
    dsimp only
    rw [(complete_keeps _ _ _).2.2.2.2.2.1]
    exact ⟨rfl, rfl, rfl, rfl, rfl, rfl⟩
  · next h => exact ⟨h, rfl, rfl, rfl, rfl, rfl⟩

theorem stopTest_scanner (s : State) :
    s.stopTest.scanner.flags = s.scanner.flags ∧ s.stopTest.scanner.pointer = s.scanner.pointer := by
  unfold State.stopTest
  split
  · dsimp only
    rw [(modLoop_keeps _ _ _).2.2.2.2.2.2.2.2.1]
    exact complete_scanner _ _ _
  · exact ⟨rfl, rfl⟩

theorem windsDown_stopTest {s : State} (h : ceilingsBounded s.gain.stages) : WindsDown s s.stopTest := by
  obtain ⟨hrun, -, -, hacc, hgain, hlinks, -, -, hlog, -⟩ := stopTest_keeps s
  obtain ⟨-, hcopy, htiming, -⟩ := stopTest_poller s
  exact .same h hrun hgain hlinks ⟨hcopy, htiming⟩ (by rw [hlog]) (stopTest_scanner s) (by rw [hacc]) (by rw [hacc])

theorem readOccupancy_mode (s : State) : s.readOccupancy.log.mode = s.log.mode := by
  unfold State.readOccupancy
  dsimp only
  rw [report_log]

theorem putRecord_mode (bytes : List Byte) (s : State) : (s.putRecord bytes).log.mode = s.log.mode := by
  unfold State.putRecord
  dsimp only
  rw [readOccupancy_mode]
  rfl

theorem writeRecord_mode (bytes : List Byte) (given : Nat) (s : State) : (s.writeRecord bytes given).1.log.mode = s.log.mode := by
  unfold State.writeRecord
  split
  · exact putRecord_mode _ _
  · split
    · split
      · rfl
      · dsimp only
        unfold State.postLogFull
        rw [(post_keeps _ _ _ _).2.2.2.2.2.2.2.2.2.2.1]
    · dsimp only
      rw [putRecord_mode]
      rfl

theorem writeRecords_mode (minute : Nat) (f : RecordFlags) (s : State) : (s.writeRecords minute f).1.log.mode = s.log.mode := by
  unfold State.writeRecords
  refine foldl_preserves (fun p : State × Nat => p.1.log.mode = s.log.mode) _ (fun p st hp => ?_) _ _ rfl
  split
  · exact (writeRecord_mode _ _ _).trans hp
  · exact hp

theorem closeMinute_mode (minute : Nat) (f : RecordFlags) (s : State) : (s.closeMinute minute f).log.mode = s.log.mode := by
  have hp : (if s.log.folded = 0 then (s, 0) else s.writeRecords minute f).1.log.mode = s.log.mode := by
    split
    · rfl
    · exact writeRecords_mode _ _ _
  unfold State.closeMinute
  split
  · generalize (if s.log.folded = 0 then (s, 0) else s.writeRecords minute f) = p at hp ⊢
    dsimp only
    split
    · exact hp
    · unfold State.postLogWrap LogWriter.emptied
      dsimp only
      rw [(post_keeps _ _ _ _).2.2.2.2.2.2.2.2.2.2.1]
      exact hp
  · rfl

theorem stopMinute_log (s : State) : s.stopMinute.log.mode = s.log.mode ∧ s.stopMinute.log.minuteOpen = false :=
  ⟨closeMinute_mode _ _ s, rfl⟩

theorem windsDown_stopMinute {s : State} (h : ceilingsBounded s.gain.stages) : WindsDown s s.stopMinute := by
  obtain ⟨hrun, -, -, hacc, hgain, hpoll, hlinks, -, -, hscan, -⟩ := stopMinute_keeps s
  exact .same h hrun hgain hlinks (by rw [hpoll]; exact ⟨rfl, rfl⟩) (stopMinute_log s).1 (by rw [hscan]; exact ⟨rfl, rfl⟩)
    (by rw [hacc]) (by rw [hacc])

/-- R13: the accumulator with every consecutive-missing count 0. -/
def Accumulator.unmissed (c : Accumulator) : Accumulator :=
  { c with accts := Vector.ofFn fun st : Fin 16 => { c.accts[st] with missing := 0 } }

/-- R75: one station UNKNOWN, its two conditions handed on. -/
def State.unknownStation (st : Station) (s : State) : State :=
  ((({ s with poller := { s.poller with states := upd s.poller.states st .unknown } } : State).report .stationStale st false
    0).report .stationLost st false 0)

theorem stopStations_eq (s : State) : s.stopStations = forStations State.unknownStation { s with acc := s.acc.unmissed } := rfl

theorem unknownStation_acc (st : Station) (s : State) : (s.unknownStation st).acc = s.acc := by
  unfold State.unknownStation
  simp

theorem unknownStation_poller (st : Station) (s : State) :
    (s.unknownStation st).poller = { s.poller with states := upd s.poller.states st .unknown } := by
  unfold State.unknownStation
  simp

theorem stopStations_acc (s : State) : s.stopStations.acc = s.acc.unmissed := by
  rw [stopStations_eq]
  exact forStations_keeps State.acc _ unknownStation_acc _

theorem unknownStations_states (s : State) (st : Station) :
    (forStations State.unknownStation s).poller.states[st] = .unknown := by
  refine forStations_each (fun _ => True) (fun _ _ _ => trivial) (fun t st => t.poller.states[st]) (fun _ _ => StationState.unknown)
    (fun st t _ => ?_) (fun st o t _ ho => ?_) trivial st
  · rw [unknownStation_poller]
    exact upd_same _ _ _
  · rw [unknownStation_poller]
    exact upd_other _ _ _ _ ho

theorem unknownStations_poller (s : State) :
    (forStations State.unknownStation s).poller =
      { s.poller with states := (forStations State.unknownStation s).poller.states } := by
  have h : ∀ v, ({ (forStations State.unknownStation s).poller with states := v } : Poller) = { s.poller with states := v } :=
    fun v => forStations_keeps (fun t : State => ({ t.poller with states := v } : Poller)) _
      (fun st t => by rw [unknownStation_poller]) s
  generalize forStations State.unknownStation s = u at h ⊢
  exact h u.poller.states

theorem stopStations_states (s : State) (st : Station) : s.stopStations.poller.states[st] = .unknown := by
  rw [stopStations_eq]
  exact unknownStations_states _ st

theorem stopStations_poller (s : State) :
    s.stopStations.poller = { s.poller with states := s.stopStations.poller.states } := by
  have h := unknownStations_poller { s with acc := s.acc.unmissed }
  rw [stopStations_eq]
  generalize forStations State.unknownStation { s with acc := s.acc.unmissed } = u at h ⊢
  exact h

theorem windsDown_stopStations {s : State} (h : ceilingsBounded s.gain.stages) : WindsDown s s.stopStations := by
  obtain ⟨hrun, -, -, hgain, hlinks, -, -, hscan, hlog, -⟩ := stopStations_keeps s
  have hacc := stopStations_acc s
  exact .same h hrun hgain hlinks (by rw [stopStations_poller]; exact ⟨rfl, rfl⟩) (by rw [hlog]) (by rw [hscan]; exact ⟨rfl, rfl⟩)
    (by rw [hacc]; rfl) (by rw [hacc]; rfl)

/-! ### The links (R103) -/

theorem stopLinks_line {s : State} {g : LinkConfig} (h : s.links.cfg = some g) (k : Stage) :
    s.stopLinks.links.lines[k] = s.links.lines[k].stop k g.stopCeiling := by
  unfold State.stopLinks
  rw [h]
  exact forStages_modLink (fun _ => ()) (fun _ _ _ => rfl) (fun _ k => Link.stop k g.stopCeiling) s k

theorem stopLinks_cfg (s : State) : s.stopLinks.links.cfg = s.links.cfg := by
  unfold State.stopLinks
  split
  · exact forStages_keeps (fun t => t.links.cfg) _ (fun k t => rfl) s
  · rfl

/-- R88, R103: a stage that is not DISABLED carries the stop ceiling as a new command. -/
theorem stop_carries {l : Link} (h : l.state ≠ .disabled) (k : Stage) (v : Nat) :
    (∃ c, (l.stop k v).out = some c ∧ c.seq = l.seq ∧ c.ceiling = v ∧ c.attempt = 1) ∧ (l.stop k v).pend = none ∧
      (l.stop k v).hold = false ∧ (l.stop k v).state = l.state ∧ (l.stop k v).limiter = l.limiter ∧
      (l.stop k v).failed = l.failed := by
  have he : l.stop k v = ({ l.clear with hold := false } : Link).begin k v := if_neg h
  rw [he]
  exact ⟨⟨_, rfl, rfl, rfl, rfl⟩, rfl, rfl, rfl, rfl, rfl⟩

/-! ### The stop put together (R165) -/

/-- R165: the stop up to the minute's closure and the stations. -/
def State.stoppedWork (s : State) : State := s.stopAmbient.stopRound.stopTest.stopMinute.stopStations

theorem stopShow_eq (s : State) :
    s.stopShow =
      let t := ({ s with run := { s.run with state := .idle, runBit := false } } : State).stoppedWork.stopGain.stopLinks
      State.postRunState s.run.state { t with walker := t.walker.stop } := rfl

/-- R13, R75, R83, R84, R186: the Poller, the accounts and the minute after a stop's work has ended. -/
theorem stoppedWork_ends {s : State} (hr : s.run.state = .idle) (h : ceilingsBounded s.gain.stages) :
    let t := s.stoppedWork
    WindsDown s t ∧ t.acc.ambient.phase = .none ∧ t.poller.roundOpen = false ∧ t.poller.exch = none ∧ t.poller.probe = none ∧
      t.poller.test = none ∧ (∀ st : Station, t.poller.states[st] = .unknown ∧ t.acc.accts[st].missing = 0) ∧
      t.log.minuteOpen = false := by
  unfold State.stoppedWork
  obtain ⟨w1, hphase⟩ := windsDown_stopAmbient h
  generalize s.stopAmbient = a at *
  have w2 := windsDown_stopRound (w1.run ▸ hr) w1.bounded
  obtain ⟨hopen, hexch, hprobe⟩ := stopRound_poller a
  have hphase := w2.phase hphase
  replace w2 := w1.trans w2
  generalize a.stopRound = b at *
  have w3 := windsDown_stopTest w2.bounded
  obtain ⟨htest, -, -, gopen, gexch, gprobe⟩ := stopTest_poller b
  have hphase := w3.phase hphase
  replace w3 := w2.trans w3
  rw [← gopen] at hopen
  rw [← gexch] at hexch
  rw [← gprobe] at hprobe
  generalize b.stopTest = c at *
  have w4 := windsDown_stopMinute w3.bounded
  have hphase := w4.phase hphase
  obtain ⟨-, hminute⟩ := stopMinute_log c
  have hpoll : c.stopMinute.poller = c.poller := (stopMinute_keeps c).2.2.2.2.2.1
  replace w4 := w3.trans w4
  rw [← hpoll] at hopen hexch hprobe htest
  generalize c.stopMinute = d at *
  have w5 := windsDown_stopStations w4.bounded
  have hphase := w5.phase hphase
  have hacc := stopStations_acc d
  have hlog : d.stopStations.log = d.log := (stopStations_keeps d).2.2.2.2.2.2.2.2.1
  refine ⟨w4.trans w5, hphase, ?_, ?_, ?_, ?_, fun st => ⟨stopStations_states d st, ?_⟩, by rw [hlog]; exact hminute⟩
  · rw [stopStations_poller]; exact hopen
  · rw [stopStations_poller]; exact hexch
  · rw [stopStations_poller]; exact hprobe
  · rw [stopStations_poller]; exact htest
  · rw [hacc]
    unfold Accumulator.unmissed
    dsimp only
    rw [ofFn_get]

theorem stop_exec {s : State} {high : Half} (hr : s.run.state = .running) (hb : s.run.runBit = true)
    (hw : s.WritesControl high false s.run.muteBit s.run.intBit) : exec (.stop high) s = .next s.stopShow := by
  obtain ⟨hsoft, hrun, hmute, hint⟩ := hw
  have hm : s.writeMute (bit (s.written high) 2) = s := if_pos hmute
  have hi : s.writeIntEnable (bit (s.written high) 3) = s := if_pos hint
  have hstop : s.writeRun false = s.stopShow := by
    unfold State.writeRun
    rw [if_neg (by simp [hb]), hr]
  have hreg : s.writeRegister .control high = s.stopShow := by
    have hc : s.writeControl (s.written high) = s.stopShow := by
      unfold State.writeControl
      rw [if_neg (by simp [hsoft]), hm, hi, hrun, hstop]
    exact (if_neg (by simp [hr])).trans hc
  exact congrArg Host.Outcome.next hreg

end Sys2Proof.Machine

/-! SUPPORT. O22: the stop. -/

namespace Sys2Proof.Machine

theorem stoppedWork_keeps (s : State) :
    s.stoppedWork.run = s.run ∧ s.stoppedWork.clock = s.clock ∧ s.stoppedWork.regs = s.regs ∧ s.stoppedWork.walker = s.walker ∧
      s.stoppedWork.book = s.book := by
  unfold State.stoppedWork
  simp

/-- The state that a stop's work begins from: IDLE, with RUN 0. -/
def State.toIdle (s : State) : State := { s with run := { s.run with state := .idle, runBit := false } }

/-- R54, R103: the terms removed and the stop ceiling sent. -/
def State.stopped (s : State) : State := s.toIdle.stoppedWork.stopGain.stopLinks

/-- R165: a stop, seen from what its work leaves. -/
theorem stopShow_of {s : State} {v : State} (hv : s.stopped = v) :
    ∃ r n, s.stopShow = { v with ram := r, notices := n, walker := v.walker.stop } := by
  rw [stopShow_eq]
  dsimp only
  rw [show (({ s with run := { s.run with state := .idle, runBit := false } } : State).stoppedWork.stopGain.stopLinks) = v from hv]
  exact ⟨_, _, post_only _ _ _ { v with walker := v.walker.stop }⟩

theorem stopped_stage (s : State) (k : Stage) : s.stopped.gain.stages[k] = s.toIdle.stoppedWork.gain.stages[k].stop := by
  unfold State.stopped
  rw [(stopLinks_keeps _).2.2.2.2.2.1]
  exact ofFn_get _ k

theorem stopped_line {s : State} {g : LinkConfig} (h : s.toIdle.stoppedWork.links.cfg = some g) (k : Stage) :
    s.stopped.links.lines[k] = s.toIdle.stoppedWork.links.lines[k].stop k g.stopCeiling := by
  unfold State.stopped
  generalize s.toIdle.stoppedWork = w at h ⊢
  exact stopLinks_line (s := w.stopGain) h k

/-- What the removal of the terms and the sending of the stop ceiling leave alone. -/
theorem stopped_keeps (s : State) :
    let w := s.toIdle.stoppedWork
    s.stopped.run = w.run ∧ s.stopped.clock = w.clock ∧ s.stopped.regs = w.regs ∧ s.stopped.acc = w.acc ∧
      s.stopped.poller = w.poller ∧ s.stopped.walker = w.walker ∧ s.stopped.book = w.book ∧ s.stopped.scanner = w.scanner ∧
      s.stopped.log = w.log ∧ s.stopped.gain.cfg = w.gain.cfg ∧ s.stopped.links.cfg = w.links.cfg := by
  unfold State.stopped
  generalize s.toIdle.stoppedWork = w
  obtain ⟨hrun, hclock, hregs, -, hacc, hgain, hpoll, hwalk, hbook, hscan, -, hlog, -⟩ := stopLinks_keeps w.stopGain
  have hcfg := stopLinks_cfg w.stopGain
  exact ⟨hrun, hclock, hregs, hacc, hpoll, hwalk, hbook, hscan, hlog, by rw [hgain]; rfl, hcfg⟩

/-- Settles O22: the stop's parts in turn, none of which clips a ceiling or sends a value but the last. -/
theorem stopReturnsToIdle : Obligations.StopReturnsToIdle := by
  unfold Obligations.StopReturnsToIdle
  intro s high g hr hb hw hbound hcfg
  have hexec := stop_exec hr hb hw
  obtain ⟨wd, hphase, hopen, hexch, hprobe, htest, hstations, hminute⟩ := stoppedWork_ends (s := s.toIdle) rfl hbound
  obtain ⟨-, kclock, kregs, kwalk, kbook⟩ := stoppedWork_keeps s.toIdle
  obtain ⟨vrun, vclock, vregs, vacc, vpoll, vwalk, vbook, vscan, vlog, vcfg, vlcfg⟩ := stopped_keeps s
  have hline := stopped_line (s := s) (g := g) ((congrArg LinkController.cfg wd.links).trans hcfg)
  have hstage := stopped_stage s
  obtain ⟨r, n, ht⟩ := stopShow_of (s := s) rfl
  rw [ht] at hexec
  generalize s.stopped = v at *
  generalize s.toIdle.stoppedWork = w at *
  obtain ⟨iw, iset, ih, ik, ip⟩ : w.acc.w = s.acc.w ∧ w.acc.set = s.acc.set ∧ w.acc.h = s.acc.h ∧ w.acc.k = s.acc.k ∧
      w.acc.primePending = s.acc.primePending := by
    have := wd.inForce
    simpa [Accumulator.inForce, State.toIdle] using this
  refine ⟨_, hexec, vrun.trans wd.run, ?_⟩
  dsimp only
  rw [vpoll, vacc, vscan, vlog, vwalk, vcfg, vlcfg]
  refine ⟨hopen, hexch, hprobe, htest, wd.copy, wd.timing, hphase, hstations, fun k => (hstage k).trans (wd.stages k), wd.cfg,
    congrArg LinkController.cfg wd.links, fun k hk => ?_, ?_, hminute, wd.mode, vclock.trans kclock, vregs.trans kregs,
    vbook.trans kbook, wd.flags, wd.pointer, iw, iset, ih, ik, ip⟩
  · rw [hline, wd.links]
    exact stop_carries hk k g.stopCeiling
  · rw [kwalk]
    rfl

end Sys2Proof.Machine

/-! SUPPORT. The successful start (R22, R53, R96, R100, R101, R128, R164): the links, the ceilings and the first pass. -/

namespace Sys2Proof.Machine

/-! ### The links at a start (R96, R100, R101) -/

/-- R96, R100, R101: the link `m` of a stage in the start hold with the value `v` pending, or of one disabled; `l` is the link
before the start. -/
def heldLine (enabled : Bool) (l m : Link) (v : Nat) : Prop :=
  if enabled then m.hold = true ∧ m.out = none ∧ m.pend = some v ∧ m.limiter = l.limiter ∧
    m.state = (if l.state = .lost then .lost else .unknown)
  else m.state = .disabled ∧ m.limiter = .unknown ∧ m.out = none

/-- R96, R100: a link as the start checks succeed. -/
def Link.started (enabled : Bool) (l : Link) : Link := if enabled then l.startEnabled else l.startDisabled

theorem startLinks_line (cfg : LinkConfig) (s : State) (k : Stage) :
    (s.startLinks cfg).links.lines[k] = s.links.lines[k].started cfg.enabled[k] := by
  unfold State.startLinks
  refine forStages_each (fun _ => True) (fun _ _ _ => trivial) (fun t k => t.links.lines[k])
    (fun k l => l.started cfg.enabled[k]) (fun k t _ => ?_) (fun k j t _ hj => ?_) trivial k
  · simp only [reevaluateLink_keeps]
    exact upd_same _ _ _
  · simp only [reevaluateLink_keeps]
    exact upd_other _ _ _ _ hj

theorem startLinks_cfg (cfg : LinkConfig) (s : State) : (s.startLinks cfg).links.cfg = some cfg := by
  unfold State.startLinks
  refine (forStages_keeps (fun t => t.links.cfg) _ (fun k t => ?_) _).trans rfl
  simp only [reevaluateLink_keeps]
  rfl

/-- R101: the applied ceiling at the start becomes the pending value. -/
theorem heldLine_started (enabled : Bool) (l : Link) (v : Nat) : heldLine enabled l ((l.started enabled).holdValue v) v := by
  cases enabled with
  | true => exact ⟨rfl, rfl, rfl, rfl, rfl⟩
  | false => exact ⟨rfl, rfl, rfl⟩

/-- R101: a hard drop in the start hold becomes the pending value. -/
theorem heldLine_hardDrop {enabled : Bool} {l m : Link} {v : Nat} (h : heldLine enabled l m v) (running : Bool) (k : Stage)
    (w : Nat) : heldLine enabled l (m.hardDrop running k w) w := by
  cases enabled with
  | true =>
    obtain ⟨hhold, hout, -, hlim, hstate⟩ : m.hold = true ∧ m.out = none ∧ m.pend = some v ∧ m.limiter = l.limiter ∧
      m.state = (if l.state = .lost then .lost else .unknown) := h
    have hne : m.state ≠ .disabled := by rw [hstate]; split <;> simp
    have he : m.hardDrop running k w = { m with pend := some w } := (if_neg hne).trans (if_pos hhold)
    rw [he]
    exact ⟨hhold, hout, rfl, hlim, hstate⟩
  | false =>
    have hm : m.state = .disabled ∧ m.limiter = .unknown ∧ m.out = none := h
    have he : m.hardDrop running k w = m := if_pos hm.1
    rw [he]
    exact hm

/-! ### What holds from the start ceilings on -/

/-- The state of a start once the applied ceilings have been handed: the configuration values in force, the minute open, the targets
4096, the holds kept, and each link in the start hold with its applied ceiling pending. -/
structure StartHold (d : StartData) (s t : State) : Prop where
  edges : t.notices.edges = d.config.edges
  mode : t.log.mode = d.config.mode
  minuteOpen : t.log.minuteOpen = true
  writeIdx : t.log.writeIdx = s.log.writeIdx
  gainCfg : t.gain.cfg = some d.config.gain
  linkCfg : t.links.cfg = some d.config.link
  stage : ∀ k : Stage, t.gain.stages[k].target = 4096 ∧ t.gain.stages[k].hold = s.gain.stages[k].hold
  line : ∀ k : Stage, heldLine d.config.link.enabled[k] s.links.lines[k] t.links.lines[k] t.gain.stages[k].applied

namespace StartHold

variable {d : StartData} {s t u : State}

/-- A change outside the gain and the links that keeps the log but for the minute accumulators. -/
theorem congr (h : StartHold d s t) (he : u.notices.edges = t.notices.edges) (hl : u.log.frame = t.log.frame)
    (hg : u.gain = t.gain) (hk : u.links = t.links) : StartHold d s u := by
  obtain ⟨hidx, hmode, -, -, -, hopen⟩ := logFrame_iff.1 hl
  refine ⟨he.trans h.edges, hmode.trans h.mode, hopen.trans h.minuteOpen, hidx.trans h.writeIdx, ?_, ?_, ?_, ?_⟩
  · rw [hg]; exact h.gainCfg
  · rw [hk]; exact h.linkCfg
  · rw [hg]; exact h.stage
  · rw [hg, hk]; exact h.line

theorem report (h : StartHold d s t) (cls : CondClass) (sub : Fin 16) (now : Bool) (v : Nat) :
    StartHold d s (t.report cls sub now v) :=
  h.congr (report_edges _ _ _ _ _) (by rw [report_log]) (by simp) (by simp)

theorem post (h : StartHold d s t) (kind sub detail : Nat) : StartHold d s (t.post kind sub detail) :=
  h.congr (post_edges _ _ _ _) (by rw [(post_keeps _ _ _ _).2.2.2.2.2.2.2.2.2.2.1]) (by simp) (by simp)

theorem stageConditions (h : StartHold d s t) (k : Stage) : StartHold d s (t.stageConditions k) := by
  unfold State.stageConditions
  dsimp only
  split
  · exact (h.report _ _ _ _).report _ _ _ _
  · exact (h.report _ _ _ _).report _ _ _ _

theorem logClip (h : StartHold d s t) (k : Stage) (v : Nat) : StartHold d s (t.logClip k v) :=
  h.congr (by simp) (logClip_logFrame _ _ _) (by simp) (by simp)

/-- R48, R101: a clip's new ceiling, handed as a hard drop. -/
theorem drop (h : StartHold d s t) (k : Stage) (v : Nat) :
    StartHold d s ((t.setGain k { t.gain.stages[k] with applied := v }).hardDrop k v) := by
  refine ⟨h.edges, h.mode, h.minuteOpen, h.writeIdx, h.gainCfg, h.linkCfg, fun j => ?_, fun j => ?_⟩
  · refine (?_ : (upd t.gain.stages k { t.gain.stages[k] with applied := v })[j].target = 4096 ∧
      (upd t.gain.stages k { t.gain.stages[k] with applied := v })[j].hold = s.gain.stages[j].hold)
    rw [upd_get]
    split
    · next hj => subst hj; exact h.stage j
    · exact h.stage j
  · refine (?_ : heldLine _ _ (upd t.links.lines k (Link.hardDrop (t.run.state == .running) k v t.links.lines[k]))[j]
      (upd t.gain.stages k { t.gain.stages[k] with applied := v })[j].applied)
    rw [upd_get, upd_get]
    split
    · next hj => subst hj; exact heldLine_hardDrop (h.line j) _ j v
    · exact h.line j

theorem clipStage (h : StartHold d s t) (k : Stage) : StartHold d s (t.clipStage k) := by
  unfold State.clipStage
  dsimp only
  split
  · exact ((h.drop k _).logClip k _).stageConditions k
  · exact h

/-- R41: a change of terms that keeps targets, holds and applied ceilings. -/
theorem changeTerms (h : StartHold d s t) {f : Stage → GainStage → GainStage}
    (hf : ∀ k g, (f k g).target = g.target ∧ (f k g).hold = g.hold ∧ (f k g).applied = g.applied) :
    StartHold d s (t.changeTerms f) := by
  refine forStages_preserves (StartHold d s) _ (fun k _ ht => ht.clipStage k) _
    ⟨h.edges, h.mode, h.minuteOpen, h.writeIdx, h.gainCfg, h.linkCfg, fun k => ?_, fun k => ?_⟩
  · dsimp only
    obtain ⟨h1, h2, -⟩ := hf k t.gain.stages[k]
    rw [ofFn_get, h1, h2]
    exact h.stage k
  · dsimp only
    obtain ⟨-, -, h3⟩ := hf k t.gain.stages[k]
    rw [ofFn_get, h3]
    exact h.line k

/-- R41: after a change of terms no applied ceiling is above its bound. -/
theorem changeTerms_post (h : StartHold d s t) {f : Stage → GainStage → GainStage}
    (hf : ∀ k g, (f k g).target = g.target ∧ (f k g).hold = g.hold ∧ (f k g).applied = g.applied) (kind sub detail : Nat) :
    StartHold d s ((t.changeTerms f).post kind sub detail) ∧
      ceilingsBounded ((t.changeTerms f).post kind sub detail).gain.stages := by
  refine ⟨(h.changeTerms hf).post _ _ _, fun k => ?_⟩
  rw [(post_keeps _ _ _ _).2.2.2.2.1, changeTerms_stage]
  exact min_le_right _ _

/-- R125: an entry activated. -/
theorem activate (h : StartHold d s t) (cause : PassCause) (b : Bool) (e : LimitEntry) :
    StartHold d s (t.activate cause b e) ∧ ceilingsBounded (t.activate cause b e).gain.stages := by
  unfold State.activate State.postEntryActivated
  have h1 : StartHold d s (State.putInForce e.w e.set e.h e.k { t with walker := { t.walker with active := some e } }) :=
    h.congr rfl rfl rfl rfl
  generalize State.putInForce e.w e.set e.h e.k { t with walker := { t.walker with active := some e } } = u at *
  dsimp only
  refine h1.changeTerms_post ?_ _ _ _
  exact fun _ _ => ⟨rfl, rfl, rfl⟩

end StartHold

end Sys2Proof.Machine

/-! SUPPORT. The start's first pass and the priming (R22, R23, R128, R129), and O21. -/

namespace Sys2Proof.Machine

/-! ### The start ceilings (R53, R101) -/

/-- R53: the stages at a start. -/
def State.startStages (s : State) : State :=
  { s with gain := { s.gain with stages := Vector.ofFn fun k : Fin 4 => s.gain.stages[k].start } }

/-- R101: the applied ceiling of a stage handed at a start. -/
def State.handStart (k : Stage) (s : State) : State :=
  ((s.modLink k (Link.holdValue s.gain.stages[k].applied)).logClip k s.gain.stages[k].applied).stageConditions k

theorem startGain_eq (s : State) : s.startGain = forStages State.handStart s.startStages := rfl

theorem handStart_keeps (k : Stage) (s : State) :
    (s.handStart k).gain = s.gain ∧ (s.handStart k).links.cfg = s.links.cfg ∧
      (s.handStart k).notices.edges = s.notices.edges ∧ (s.handStart k).log.frame = s.log.frame := by
  unfold State.handStart
  obtain ⟨-, -, -, -, hgain, -, hlinks, -, -, -, hlog, -⟩ := stageConditions_keeps k
    ((s.modLink k (Link.holdValue s.gain.stages[k].applied)).logClip k s.gain.stages[k].applied)
  obtain ⟨-, -, -, -, -, ggain, -, glinks, -⟩ := logClip_keeps k s.gain.stages[k].applied
    (s.modLink k (Link.holdValue s.gain.stages[k].applied))
  refine ⟨hgain.trans ggain, ?_, ?_, ?_⟩
  · rw [hlinks, glinks]
    rfl
  · unfold State.stageConditions
    dsimp only
    split <;> simp [State.modLink, State.setLink]
  · rw [hlog, logClip_logFrame]
    rfl

theorem handStart_line (k j : Stage) (s : State) :
    (s.handStart k).links.lines[j] =
      if j = k then s.links.lines[k].holdValue s.gain.stages[k].applied else s.links.lines[j] := by
  unfold State.handStart
  rw [(stageConditions_keeps _ _).2.2.2.2.2.2.1, (logClip_keeps _ _ _).2.2.2.2.2.2.2.1, modLink_line]

theorem handStart_all (s : State) :
    (forStages State.handStart s).gain = s.gain ∧ (forStages State.handStart s).links.cfg = s.links.cfg ∧
      (forStages State.handStart s).notices.edges = s.notices.edges ∧
      (forStages State.handStart s).log.frame = s.log.frame :=
  ⟨forStages_keeps State.gain _ (fun k t => (handStart_keeps k t).1) s,
    forStages_keeps (fun t => t.links.cfg) _ (fun k t => (handStart_keeps k t).2.1) s,
    forStages_keeps (fun t => t.notices.edges) _ (fun k t => (handStart_keeps k t).2.2.1) s,
    forStages_keeps (fun t => t.log.frame) _ (fun k t => (handStart_keeps k t).2.2.2) s⟩

theorem startGain_line (s : State) (k : Stage) :
    s.startGain.links.lines[k] = s.links.lines[k].holdValue s.startGain.gain.stages[k].applied := by
  have hgain : s.startGain.gain = s.startStages.gain := forStages_keeps State.gain _ (fun k t => (handStart_keeps k t).1) _
  rw [hgain, startGain_eq]
  refine forStages_each (fun t => t.gain = s.startStages.gain) (fun k t ht => (handStart_keeps k t).1.trans ht)
    (fun t k => t.links.lines[k]) (fun k l => l.holdValue s.startStages.gain.stages[k].applied) (fun k t ht => ?_)
    (fun k j t _ hj => ?_) rfl k
  · rw [handStart_line, if_pos rfl, ht]
  · rw [handStart_line, if_neg hj]

theorem startGain_fields (s : State) :
    s.startGain.gain = s.startStages.gain ∧ s.startGain.links.cfg = s.links.cfg ∧
      s.startGain.notices.edges = s.notices.edges ∧ s.startGain.log.frame = s.log.frame := by
  have h := handStart_all s.startStages
  rw [startGain_eq]
  exact h

theorem startGain_stage (s : State) (k : Stage) :
    s.startGain.gain.stages[k].target = 4096 ∧ s.startGain.gain.stages[k].hold = s.gain.stages[k].hold := by
  rw [(startGain_fields s).1]
  unfold State.startStages
  dsimp only
  rw [ofFn_get]
  exact ⟨rfl, rfl⟩

/-- R164, step 1: the Poller and the Gain Allocator with their configuration values. -/
def State.withConfig (d : StartData) (s : State) : State :=
  { s with
    poller := { s.poller with copy := some d.copy, timing := some d.config.timing }
    gain := { s.gain with cfg := some d.config.gain } }

theorem takeConfig_eq (d : StartData) (s : State) :
    s.takeConfig d = ((s.withConfig d).startLinks d.config.link).startWriters d.config := rfl

theorem startWriters_writers (c : StartConfig) (s : State) :
    (s.startWriters c).notices.edges = c.edges ∧ (s.startWriters c).log.mode = c.mode ∧
      (s.startWriters c).log.minuteOpen = true ∧ (s.startWriters c).log.writeIdx = s.log.writeIdx := by
  unfold State.startWriters State.writeLogHeader State.setRam
  exact ⟨rfl, rfl, rfl, rfl⟩

/-- What a start has taken before its ceilings are handed. -/
structure Configured (d : StartData) (s u : State) : Prop where
  edges : u.notices.edges = d.config.edges
  mode : u.log.mode = d.config.mode
  minuteOpen : u.log.minuteOpen = true
  writeIdx : u.log.writeIdx = s.log.writeIdx
  gain : u.gain = { s.gain with cfg := some d.config.gain }
  linkCfg : u.links.cfg = some d.config.link
  line : ∀ k : Stage, u.links.lines[k] = s.links.lines[k].started d.config.link.enabled[k]

theorem takeConfig_configured (d : StartData) (s : State) : Configured d s (s.takeConfig d) := by
  obtain ⟨-, -, -, hgain, -, -, -, -, hlog, -⟩ := startLinks_keeps d.config.link (s.withConfig d)
  have hcfg := startLinks_cfg d.config.link (s.withConfig d)
  have hline := startLinks_line d.config.link (s.withConfig d)
  rw [takeConfig_eq]
  generalize (s.withConfig d).startLinks d.config.link = u at *
  obtain ⟨hedges, hmode, hopen, hidx⟩ := startWriters_writers d.config u
  exact ⟨hedges, hmode, hopen, hidx.trans (congrArg LogWriter.writeIdx hlog), hgain, hcfg, hline⟩

theorem startHold_startGain {d : StartData} {s u : State} (h : Configured d s u) : StartHold d s u.startGain := by
  have hline := startGain_line u
  have hstage := startGain_stage u
  obtain ⟨hgain, hcfg, hedges, hlog⟩ := startGain_fields u
  obtain ⟨hidx, hmode, -, -, -, hopen⟩ := logFrame_iff.1 hlog
  refine ⟨hedges.trans h.edges, hmode.trans h.mode, hopen.trans h.minuteOpen, hidx.trans h.writeIdx, ?_, hcfg.trans h.linkCfg,
    fun k => ⟨(hstage k).1, (hstage k).2.trans ?_⟩, fun k => ?_⟩
  · rw [hgain]
    exact congrArg GainAllocator.cfg h.gain
  · rw [h.gain]
  · rw [hline, h.line]
    exact heldLine_started _ _ _

/-! ### The first pass (R128, R129) -/

/-- R120, R121: a pass that has reached a LIMIT entry ends with one reached. -/
theorem follow_last (s : State) (count left : Nat) {last : Option LimitEntry} (h : last.isSome = true) (linker start link : Nat) :
    (s.follow count left last linker start link).last.isSome = true := by
  induction left generalizing last linker start link with
  | zero =>
    unfold State.follow
    dsimp only
    repeat' split
    all_goals exact h
  | succ left ih =>
    unfold State.follow
    dsimp only
    repeat' split
    · exact h
    · exact h
    · exact h
    · exact h
    · exact h
    · exact h
    · exact h
    · exact ih h _ _ _
    · exact ih h _ _ _
    · rfl
    · exact ih rfl _ _ _

theorem passAtStart_last (s : State) (count : Nat) (head : LimitEntry) : (s.passAtStart count head).last.isSome = true := by
  unfold State.passAtStart
  split
  · rfl
  · exact follow_last s _ _ rfl _ _ _

/-- From `a` to `t` only the walker's state and pause, shared RAM and the notices written have changed, and the walker is no longer
UNSTARTED. -/
structure PassEnded (a t : State) : Prop where
  gain : t.gain = a.gain
  links : t.links = a.links
  log : t.log = a.log
  acc : t.acc = a.acc
  edges : t.notices.edges = a.notices.edges
  active : t.walker.active = a.walker.active
  watch : t.walker.watch = a.walker.watch
  state : t.walker.state ≠ .unstarted

theorem passEnded_goTo (a : State) {w : WalkerState} (h : w ≠ .unstarted) : PassEnded a (a.goTo w) :=
  ⟨rfl, rfl, rfl, rfl, rfl, rfl, rfl, h⟩

/-- R122, R123, R125, R130, R134: the start's first pass ends with the activation of the last LIMIT reached, whatever ends it. -/
theorem endPass_start (s : State) (found : WalkerState) {p : Pass} {e : LimitEntry} (hp : p.last = some e) :
    ∃ b, PassEnded ((s.countLinks p.links).activate .start b e) (s.endPass .start true found p) := by
  have hl : ∀ t : State, t.takeLast .start p = t.activate .start false e := fun t => by
    unfold State.takeLast
    rw [hp]
  have hf : ∀ t : State, t.takeFault .start true p = t.activate .start true e := fun t => by
    unfold State.takeFault
    rw [hp]
  cases he : p.ending with
  | notDue =>
    rw [endPass_notDue _ _ _ _ he, hl]
    exact ⟨false, passEnded_goTo _ (by decide)⟩
  | final =>
    rw [endPass_final _ _ _ _ he, hl]
    exact ⟨false, passEnded_goTo _ (by decide)⟩
  | watch pause =>
    rw [endPass_watch _ _ _ _ he, hl]
    refine ⟨false, ?_⟩
    generalize (s.countLinks p.links).activate .start false e = a
    unfold State.postWatchReached
    obtain ⟨-, -, -, hacc, hgain, -, hlinks, hwalk, -, -, hlog, -⟩ := post_keeps 18 pause.index
      ((a.walker.active.map LimitEntry.index).getD 0 % 256) (a.pauseAt pause)
    refine ⟨hgain, hlinks, hlog, hacc, post_edges _ _ _ _, ?_, ?_, ?_⟩
    · rw [hwalk]; rfl
    · rw [hwalk]; rfl
    · rw [hwalk]; exact fun h => nomatch h
  | fault reason entry link =>
    rw [endPass_fault _ _ _ _ he, hf]
    refine ⟨true, ?_⟩
    generalize (s.countLinks p.links).activate .start true e = a
    unfold State.reportFault State.postScheduleFault
    obtain ⟨-, -, -, hacc, hgain, -, hlinks, hwalk, -, -, hlog, -⟩ := post_keeps 19 entry (reason.code + 256 * (link % 256))
      (a.goTo .faulted)
    have hedges := post_edges 19 entry (reason.code + 256 * (link % 256)) (a.goTo .faulted)
    generalize (a.goTo .faulted).post 19 entry (reason.code + 256 * (link % 256)) = u at *
    have hactive : u.walker.active = a.walker.active := by rw [hwalk]; rfl
    have hwatch : u.walker.watch = a.walker.watch := by rw [hwalk]; rfl
    have hstate : u.walker.state ≠ .unstarted := by rw [hwalk]; exact fun h => nomatch h
    exact ⟨hgain, hlinks, hlog, hacc, hedges, hactive, hwatch, hstate⟩

end Sys2Proof.Machine

/-! SUPPORT. The priming at a start (R22, R23), and O21: the successful start put together. -/

namespace Sys2Proof.Machine

/-! ### The prime-pending flag until the priming (R22) -/

theorem stageFive_primePending (st : Station) (s : State) : (s.stageFive st).acc.primePending = s.acc.primePending := by
  rw [stageFive_acc]

theorem reevaluateLink_primePending (k : Stage) (s : State) : (s.reevaluateLink k).acc.primePending = s.acc.primePending := by
  unfold State.reevaluateLink
  dsimp only
  rw [(report_keeps _ _ _ _ _).2.2.2.1]
  split
  · rfl
  · unfold State.takeControllability
    refine (forStations_keeps (fun t => t.acc.primePending) _ (fun st t => ?_) _).trans rfl
    split
    · exact stageFive_primePending st t
    · rfl

theorem startLinks_primePending (cfg : LinkConfig) (s : State) : (s.startLinks cfg).acc.primePending = s.acc.primePending := by
  unfold State.startLinks
  refine (forStages_keeps (fun t => t.acc.primePending) _ (fun k t => ?_) _).trans rfl
  rw [reevaluateLink_primePending]
  rfl

theorem takeConfig_primePending (d : StartData) (s : State) : (s.takeConfig d).acc.primePending = s.acc.primePending := by
  rw [takeConfig_eq, (startWriters_keeps _ _).2.2.2.1]
  exact startLinks_primePending _ _

theorem activate_primePending (cause : PassCause) (b : Bool) (e : LimitEntry) (s : State) :
    (s.activate cause b e).acc.primePending = s.acc.primePending := by
  unfold State.activate
  simp [State.putInForce]

/-! ### The first pass from the start ceilings (R128, R129) -/

theorem startWalker_ends {d : StartData} {s u : State} (h : StartHold d s u) :
    let t := u.startWalker d
    StartHold d s t ∧ ceilingsBounded t.gain.stages ∧ t.walker.state ≠ .unstarted ∧ t.walker.active.isSome = true ∧
      t.walker.watch = d.config.watch ∧ t.acc.primePending = u.acc.primePending := by
  have h0 : StartHold d s { u with walker := { u.walker with watch := d.config.watch } } := h.congr rfl rfl rfl rfl
  unfold State.startWalker
  generalize hv : ({ u with walker := { u.walker with watch := d.config.watch } } : State) = v at h0
  have hwatch : v.walker.watch = d.config.watch := by rw [← hv]
  have hpend : v.acc.primePending = u.acc.primePending := by rw [← hv]
  obtain ⟨e, he⟩ := Option.isSome_iff_exists.1 (passAtStart_last v d.count d.head)
  obtain ⟨b, hend⟩ := endPass_start v .unstarted he
  dsimp only
  have h1 : StartHold d s (v.countLinks (v.passAtStart d.count d.head).links) := h0.congr rfl rfl rfl rfl
  have hw1 : (v.countLinks (v.passAtStart d.count d.head).links).walker.watch = v.walker.watch := rfl
  have hp1 : (v.countLinks (v.passAtStart d.count d.head).links).acc.primePending = v.acc.primePending := rfl
  generalize v.countLinks (v.passAtStart d.count d.head).links = c at *
  obtain ⟨h2, hbound⟩ := h1.activate .start b e
  have hwalk : (c.activate .start b e).walker = { c.walker with active := some e } := by
    unfold State.activate
    simp
  have hp2 := activate_primePending .start b e c
  generalize c.activate .start b e = a at *
  refine ⟨h2.congr hend.edges (by rw [hend.log]) hend.gain hend.links, by rw [hend.gain]; exact hbound, hend.state, ?_, ?_, ?_⟩
  · rw [hend.active, hwalk]
    rfl
  · rw [hend.watch, hwalk]
    exact hw1.trans hwatch
  · rw [hend.acc, hp2, hp1, hpend]

/-! ### The priming (R21 to R23) -/

/-- R22, R23: a station at the start's priming. -/
def State.primeDue (pending : Bool) (st : Station) (s : State) : State :=
  if s.enabledStation st && (pending || decide (s.acc.accts[st].n = 0)) then s.prime st else s

theorem startPriming_eq (s : State) :
    s.startPriming =
      { forStations (State.primeDue s.acc.primePending) s with
        acc := { (forStations (State.primeDue s.acc.primePending) s).acc with primePending := false } } := by
  unfold State.startPriming State.primeDue
  rfl

theorem prime_others (st : Station) (s : State) :
    (s.prime st).acc.w = s.acc.w ∧ ∀ o : Station, o ≠ st → (s.prime st).acc.accts[o] = s.acc.accts[o] := by
  unfold State.prime
  split
  · exact ⟨rfl, fun o ho => upd_other _ _ _ _ ho⟩
  · exact ⟨rfl, fun _ _ => rfl⟩

theorem primeDue_keeps (b : Bool) (st : Station) (s : State) :
    (s.primeDue b st).acc.w = s.acc.w ∧ (s.primeDue b st).book = s.book ∧ (s.primeDue b st).poller = s.poller := by
  unfold State.primeDue
  split
  · exact ⟨(prime_others st s).1, (prime_keeps st s).2.2.2.2.2.2.2.2.1, (prime_keeps st s).2.2.2.2.2.1⟩
  · exact ⟨rfl, rfl, rfl⟩

/-- R22, R23: the counts after the start's priming, while a working book is held. -/
theorem startPriming_count {s : State} (hb : s.book.working.isSome = true) (st : Station) :
    s.startPriming.acc.accts[st].n =
      if s.enabledStation st = true ∧ (s.acc.primePending = true ∨ s.acc.accts[st].n = 0) then s.acc.w
      else s.acc.accts[st].n := by
  have hiff : ∀ n : Nat, (s.enabledStation st && (s.acc.primePending || decide (n = 0))) = true ↔
      s.enabledStation st = true ∧ (s.acc.primePending = true ∨ n = 0) := fun n => by simp
  have h : (forStations (State.primeDue s.acc.primePending) s).acc.accts[st].n =
      if s.enabledStation st && (s.acc.primePending || decide (s.acc.accts[st].n = 0)) then s.acc.w else s.acc.accts[st].n := by
    refine forStations_each (fun t => t.acc.w = s.acc.w ∧ t.book = s.book ∧ t.poller = s.poller)
      (fun st t ht => ?_) (fun t st => t.acc.accts[st].n)
      (fun st n => if s.enabledStation st && (s.acc.primePending || decide (n = 0)) then s.acc.w else n)
      (fun st t ht => ?_) (fun st o t _ ho => ?_) ⟨rfl, rfl, rfl⟩ st
    · obtain ⟨k1, k2, k3⟩ := primeDue_keeps s.acc.primePending st t
      exact ⟨k1.trans ht.1, k2.trans ht.2.1, k3.trans ht.2.2⟩
    · obtain ⟨hw, hbook, hpoll⟩ := ht
      have hen : t.enabledStation st = s.enabledStation st := by unfold State.enabledStation; rw [hpoll]
      unfold State.primeDue
      rw [hen]
      split
      · rw [prime_count (by rw [hbook]; exact hb), hw]
      · rfl
    · unfold State.primeDue
      split
      · rw [(prime_others st t).2 o ho]
      · rfl
  rw [startPriming_eq]
  dsimp only
  rw [h]
  exact if_congr (hiff _) rfl rfl

theorem startPriming_acc (s : State) : s.startPriming.acc.w = s.acc.w ∧ s.startPriming.acc.primePending = false := by
  have h : (forStations (State.primeDue s.acc.primePending) s).acc.w = s.acc.w :=
    forStations_keeps (fun t => t.acc.w) _ (fun st t => (primeDue_keeps _ st t).1) s
  exact ⟨h, rfl⟩

end Sys2Proof.Machine

/-! SUPPORT. O21: the successful start. -/

namespace Sys2Proof.Machine

/-- The book held and the watch aside, the state that a start's ceilings are handed from. -/
def State.configured (d : StartData) (s : State) : State :=
  { s.takeConfig d with book := { (s.takeConfig d).book with working := some d.book, area := d.area } }

/-- R164: a successful start up to the change of the run state. -/
def State.started (d : StartData) (s : State) : State := (((s.configured d).startGain.startWalker d).startPriming).startStations

theorem leaveStarting_flags (c : Scanner) : c.leaveStarting.flags = c.flags := by
  unfold Scanner.leaveStarting Scanner.beginScan
  repeat' split
  all_goals rfl

/-- R164: the change of the run state writes the notices and shared RAM, and has the pending scan begin. -/
theorem succeedStart_of (d : StartData) {s v : State} (hv : s.started d = v) :
    ∃ r n c, s.succeedStart d =
        { v with run := { v.run with state := .running, error := .none }, ram := r, notices := n, scanner := c } ∧
      n.edges = v.notices.edges ∧ c.flags = v.scanner.flags := by
  have h : s.succeedStart d =
      (let t := State.postRunState s.run.state { v with run := { v.run with state := .running, error := .none } }
       { t with scanner := t.scanner.leaveStarting }) := by
    rw [← hv]
    rfl
  rw [h]
  dsimp only
  generalize hu : ({ v with run := { v.run with state := .running, error := .none } } : State) = u
  have hedges : (u.postRunState s.run.state).notices.edges = u.notices.edges := post_edges _ _ _ _
  have hscan : (u.postRunState s.run.state).scanner = u.scanner := (postRunState_keeps _ _).2.2.2.2.2.2.2.2.2.1
  have honly : u.postRunState s.run.state =
      { u with ram := (u.postRunState s.run.state).ram, notices := (u.postRunState s.run.state).notices } := post_only _ _ _ u
  generalize u.postRunState s.run.state = w at *
  refine ⟨w.ram, w.notices, w.scanner.leaveStarting, ?_, hedges.trans (by rw [← hu]), ?_⟩
  · rw [← hu] at honly
    rw [honly]
  · rw [leaveStarting_flags, hscan, ← hu]

theorem configured_configured (d : StartData) (s : State) : Configured d s (s.configured d) := by
  have h := takeConfig_configured d s
  unfold State.configured
  generalize s.takeConfig d = u at *
  exact ⟨h.edges, h.mode, h.minuteOpen, h.writeIdx, h.gain, h.linkCfg, h.line⟩

/-- What a start takes from the RAM and keeps of the state before, in the blocks that the ceilings and the pass leave alone. -/
theorem configured_keeps (d : StartData) (s : State) :
    (s.configured d).run = s.run ∧ (s.configured d).clock = s.clock ∧ (s.configured d).regs = s.regs ∧
      (s.configured d).poller = { s.poller with copy := some d.copy, timing := some d.config.timing } ∧
      (s.configured d).book = { s.book with working := some d.book, area := d.area } ∧
      (s.configured d).scanner = s.scanner ∧ (s.configured d).acc.primePending = s.acc.primePending := by
  obtain ⟨hrun, hclock, hregs, -, hbook, hscan, -⟩ := takeConfig_keeps d s
  have hpoll : (s.takeConfig d).poller = (s.withConfig d).poller := by
    rw [takeConfig_eq, (startWriters_keeps _ _).2.2.2.2.2.1, (startLinks_keeps _ _).2.2.2.2.1]
  have hpend := takeConfig_primePending d s
  unfold State.configured
  generalize s.takeConfig d = u at *
  exact ⟨hrun, hclock, hregs, hpoll, by rw [hbook], hscan, hpend⟩

/-- R60: the station states as the start reaches RUNNING. -/
theorem startStations_states {s : State} {copy : Vector StationEntry 16} (h : s.poller.copy = some copy) (st : Station) :
    s.startStations.poller.states[st] = if copy[st].enabled then .unknown else .disabled := by
  have he : s.enabledStation st = copy[st].enabled := by
    unfold State.enabledStation
    rw [h]
  unfold State.startStations
  dsimp only
  rw [ofFn_get, he]

theorem startStations_poller (s : State) :
    s.startStations.poller = { s.poller with states := s.startStations.poller.states } := rfl

theorem start_exec {s : State} {d : StartData} (hr : s.run.state = .starting) (hc : startCheck s.ram = .ok d) :
    exec .startChecksComplete s = .next (s.succeedStart d) := by
  have h : s.completeStart = s.succeedStart d := by
    unfold State.completeStart
    rw [if_pos hr, hc]
  exact congrArg Host.Outcome.next h

/-- Settles O21: the start's parts in turn, the links and ceilings through the first pass. -/
theorem startSucceeds : Obligations.StartSucceeds := by
  unfold Obligations.StartSucceeds
  intro s d hr hc
  have hexec := start_exec hr hc
  obtain ⟨r, n, c, ht, hedges, hflags⟩ := succeedStart_of d (s := s) rfl
  obtain ⟨crun, cclock, cregs, cpoll, cbook, cscan, cpend⟩ := configured_keeps d s
  have h1 := startHold_startGain (configured_configured d s)
  obtain ⟨grun, gclock, gregs, gacc, gpoll, -, gbook, gscan, -⟩ := startGain_keeps (s.configured d)
  obtain ⟨h2, hbound, hstate, hactive, hwatch, hpend⟩ := startWalker_ends h1
  obtain ⟨wrun, wclock, wregs, wpoll, wbook, wscan, -⟩ := startWalker_keeps d (s.configured d).startGain
  rw [ht] at hexec
  unfold State.started at hexec hedges hflags
  rw [gacc, cpend] at hpend
  replace wrun := wrun.trans (grun.trans crun)
  replace wclock := wclock.trans (gclock.trans cclock)
  replace wregs := wregs.trans (gregs.trans cregs)
  replace wpoll := wpoll.trans (gpoll.trans cpoll)
  replace wbook := wbook.trans (gbook.trans cbook)
  replace wscan := wscan.trans (gscan.trans cscan)
  generalize (s.configured d).startGain.startWalker d = w at *
  obtain ⟨prun, pclock, pregs, -, pgain, ppoll, plinks, pwalk, pbook, pscan, pnote, plog, -⟩ := startPriming_keeps w
  have hcount := startPriming_count (s := w) (by rw [wbook]; rfl)
  obtain ⟨hw, hflag⟩ := startPriming_acc w
  have hen : ∀ st : Station, w.enabledStation st = d.copy[st].enabled := fun st => by
    unfold State.enabledStation
    rw [wpoll]
  have hcopy : w.startPriming.poller.copy = some d.copy := by rw [ppoll, wpoll]
  have hstates := fun st => startStations_states hcopy st
  obtain ⟨qrun, qclock, qregs, -, qacc, qgain, qlinks, qwalk, qbook, qscan, qnote, qlog, -⟩ := startStations_keeps w.startPriming
  have qpoll := startStations_poller w.startPriming
  generalize w.startPriming = q at *
  generalize q.startStations = v at *
  refine ⟨_, hexec, ?_⟩
  dsimp only
  rw [qrun, prun, wrun, qpoll, ppoll, wpoll, qgain, pgain, qlinks, plinks, qbook, pbook, wbook, qwalk, pwalk, qlog, plog, qacc,
    qclock, pclock, wclock, qregs, pregs, wregs]
  refine ⟨rfl, rfl, rfl, h2.gainCfg, h2.linkCfg, rfl, rfl, hwatch, ?_, h2.mode, h2.minuteOpen, h2.writeIdx, hflag, hstate, hactive,
    hstates, fun st hst hdue => ?_, fun k => ⟨(h2.stage k).1, hbound k, (h2.stage k).2⟩, h2.line, rfl, rfl, rfl, rfl, ?_⟩
  · rw [hedges, qnote, pnote]
    exact h2.edges
  · rw [hcount, hen, hst, hpend] at hdue ⊢
    rw [hw]
    by_cases hn : s.acc.primePending = true ∨ w.acc.accts[st].n = 0
    · exact if_pos ⟨rfl, hn⟩
    · rw [if_neg fun h => hn h.2] at hdue
      exact absurd hdue hn
  · rw [hflags, qscan, pscan, wscan]

end Sys2Proof.Machine

/-! SUPPORT. What the invariants of the ceilings, of a running part and of the hard bound's terms read of a state, and the shared
operations that leave all of it alone: one equation for each. -/

namespace Sys2Proof.Machine

/-- What those invariants read of a state. -/
structure View where
  state : RunState
  mute : Bool
  gain : GainAllocator
  linkCfg : Bool
  walker : WalkerState
  active : Option LimitEntry
  set : Fin 8
  phase : AmbientPhase
  enabled : Option (Vector Bool 16)
  timing : Bool
  roundOpen : Bool
  exch : Bool
  states : Vector StationState 16
  working : Option (List BookRecord)

/-- The limit set in force and the phase of the measurement. -/
def Accumulator.causes (c : Accumulator) : Fin 8 × AmbientPhase := (c.set, c.ambient.phase)

/-- Of the Poller: the stations enabled in the copy, whether the timing values are held, the round and the stations' states. -/
def Poller.causes (p : Poller) : Option (Vector Bool 16) × Bool × Bool × Bool × Vector StationState 16 :=
  (p.copy.map fun c => c.map StationEntry.enabled, p.timing.isSome, p.roundOpen, p.exch.isSome, p.states)

def State.view (s : State) : View where
  state := s.run.state
  mute := s.run.muteBit
  gain := s.gain
  linkCfg := s.links.cfg.isSome
  walker := s.walker.state
  active := s.walker.active
  set := s.acc.causes.1
  phase := s.acc.causes.2
  enabled := s.poller.causes.1
  timing := s.poller.causes.2.1
  roundOpen := s.poller.causes.2.2.1
  exch := s.poller.causes.2.2.2.1
  states := s.poller.causes.2.2.2.2
  working := s.book.working

theorem view_of {s t : State} (hr : t.run = s.run := by simp) (hg : t.gain = s.gain := by simp)
    (hl : t.links.cfg = s.links.cfg := by simp) (hw : t.walker = s.walker := by simp)
    (hb : t.book.working = s.book.working := by simp) (ha : t.acc.causes = s.acc.causes := by simp)
    (hp : t.poller.causes = s.poller.causes := by simp) : t.view = s.view := by
  unfold State.view
  rw [hr, hg, hl, hw, hb, ha, hp]

theorem causes_of_frame {c d : Accumulator} (h : c.frame = d.frame) : c.causes = d.causes := by
  obtain ⟨-, hs, -, -, -, -, ha⟩ := frame_iff.1 h
  unfold Accumulator.causes
  rw [hs, ha]

theorem causes_of_round {p q : Poller} (h : p.round = q.round) : p.causes = q.causes := by
  obtain ⟨hc, ht, hs, ho, -, -, -, he, -⟩ := round_iff.1 h
  unfold Poller.causes
  rw [hc, ht, hs, ho, he]

section

variable (s : State)

/-! ### Notices and the log -/

@[simp] theorem post_view (kind sub detail : Nat) : (s.post kind sub detail).view = s.view := view_of

@[simp] theorem report_view (cls : CondClass) (sub : Fin 16) (now : Bool) (v : Nat) : (s.report cls sub now v).view = s.view :=
  view_of

@[simp] theorem logClip_view (k : Stage) (v : Nat) : (s.logClip k v).view = s.view := view_of

@[simp] theorem logClosure_view : s.logClosure.view = s.view := view_of

@[simp] theorem readOccupancy_view : s.readOccupancy.view = s.view := view_of

@[simp] theorem closeMinute_view (minute : Nat) (f : RecordFlags) : (s.closeMinute minute f).view = s.view := view_of

@[simp] theorem stopMinute_view : s.stopMinute.view = s.view := view_of

/-! ### Exposure Accumulator -/

@[simp] theorem setAccount_view (st : Station) (a : Account) : (s.setAccount st a).view = s.view := rfl

@[simp] theorem handExceed_view (st : Station) : (s.handExceed st).view = s.view := view_of

@[simp] theorem stageFive_view (st : Station) : (s.stageFive st).view = s.view := by simp [State.stageFive]

@[simp] theorem takeControllability_view (k : Stage) (now : Bool) : (s.takeControllability k now).view = s.view :=
  forStations_keeps State.view _ (fun st t => by split <;> simp) { s with acc := { s.acc with ctrl := upd s.acc.ctrl k now } }

@[simp] theorem advanceRest_view : s.advanceRest.view = s.view := view_of (ha := causes_of_frame (advanceRest_frame s))

@[simp] theorem advanceAll_view : s.advanceAll.view = s.view := view_of (ha := causes_of_frame (advanceAll_frame s))

@[simp] theorem storeOutcome_view (st : Station) (o : SecondOutcome) : (s.storeOutcome st o).view = s.view := by
  cases h : s.acc.advanced[st] with
  | true => rw [show s.storeOutcome st o = s from if_pos h]
  | false =>
    refine view_of (ha := ?_)
    rw [storeOutcome_acc h]
    unfold Accumulator.causes
    rw [collect_phase]

@[simp] theorem prime_view (st : Station) : (s.prime st).view = s.view := by
  unfold State.prime
  split <;> simp

@[simp] theorem disableAccount_view (st : Station) : (s.disableAccount st).view = s.view := by simp [State.disableAccount]

/-! ### Stage Link Controller -/

@[simp] theorem modLink_view (k : Stage) (f : Link → Link) : (s.modLink k f).view = s.view := rfl

@[simp] theorem reevaluateLink_view (k : Stage) : (s.reevaluateLink k).view = s.view := by
  unfold State.reevaluateLink
  dsimp only
  split <;> simp

@[simp] theorem acknowledge_view (k : Stage) (m : LimiterState) : (s.acknowledge k m).view = s.view := by
  simp [State.acknowledge]

@[simp] theorem exhaust_view (k : Stage) : (s.exhaust k).view = s.view := by simp [State.exhaust]

@[simp] theorem failCommand_view (k : Stage) (c : Command) : (s.failCommand k c).view = s.view := by
  unfold State.failCommand
  split <;> simp

@[simp] theorem judgeAck_view (k : Stage) (f : Option AckFrame) : (s.judgeAck k f).view = s.view := by
  unfold State.judgeAck
  repeat' split
  all_goals simp

@[simp] theorem ackExpiry_view (k : Stage) (b : Bool) : (s.ackExpiry k b).view = s.view := by
  unfold State.ackExpiry
  repeat' split
  all_goals simp

@[simp] theorem clearCharged_view : s.clearCharged.view = s.view := rfl

@[simp] theorem offerStopCeiling_view : s.offerStopCeiling.view = s.view := view_of (hl := offerStopCeiling_cfg s)

/-! ### Gain Allocator -/

@[simp] theorem stageConditions_view (k : Stage) : (s.stageConditions k).view = s.view := view_of

@[simp] theorem offerAll_view : s.offerAll.view = s.view :=
  forStages_keeps State.view _ (fun _ _ => modLink_view _ _ _) s

theorem driveGain_view : s.driveGain.view = s.rampAll.view := by
  rw [driveGain_eq, forStages_keeps State.view _ (fun k t => stageConditions_view t k), logClosure_view, offerAll_view]

/-! ### Requests -/

@[simp] theorem setRam_view (m : Memory) : (s.setRam m).view = s.view := rfl

@[simp] theorem answer_view (i : Slot) (copy : List Byte) (r : Reply) : (s.answer i copy r).view = s.view := view_of

@[simp] theorem markInFlight_view (i : Slot) (copy : List Byte) (r : Reply) : (s.markInFlight i copy r).view = s.view := by
  unfold State.markInFlight
  split <;> rfl

@[simp] theorem complete_view (i : Slot) (rs : List Result) : (s.complete i rs).view = s.view := view_of

/-! ### Station Poller -/

@[simp] theorem setLoop_view (l : Loop) (v : LoopLine) : (s.setLoop l v).view = s.view := rfl

@[simp] theorem modLoop_view (l : Loop) (f : LoopLine → LoopLine) : (s.modLoop l f).view = s.view := by
  simp [State.modLoop, State.reportLoop]

@[simp] theorem putPoll_view (l : Loop) (addr : Nat) : (s.putPoll l addr).1.view = s.view := by
  unfold State.putPoll
  dsimp only
  split <;> rfl

/-- What changes the frames on the loops and the probes alone. -/
theorem probesOnly_view {s t : State} (h : ProbesOnly s t) : t.view = s.view := by
  have hr := causes_of_round h.round
  obtain ⟨p, rfl⟩ := h.rest
  exact view_of rfl rfl rfl rfl rfl rfl hr

@[simp] theorem beginProbe_view : s.beginProbe.view = s.view := probesOnly_view (probesOnly_beginProbe s)

@[simp] theorem takeProbes_view : s.takeProbes.view = s.view := probesOnly_view (probesOnly_takeProbes s)

/-- What the Poller holds but for the loops, the probes and the lists of the round. -/
theorem withPoller_view {p : Poller} (h : p.causes = s.poller.causes) : ({ s with poller := p } : State).view = s.view :=
  view_of rfl rfl rfl rfl rfl rfl h

@[simp] theorem endProbe_view (p : Probe) (f : LoopLine → LoopLine) : (s.endProbe p f).view = s.view := by
  unfold State.endProbe
  dsimp only
  rw [beginProbe_view, modLoop_view]
  exact withPoller_view s rfl

@[simp] theorem abandonProbe_view : s.abandonProbe.view = s.view :=
  view_of (hl := by simp) (ha := by simp) (hp := causes_of_round (abandonProbe_poller s).2)

@[simp] theorem countProbes_view : s.countProbes.view = s.view := rfl

@[simp] theorem completeTest_view (t : LoopTest) : (s.completeTest t).view = s.view := by
  unfold State.completeTest
  rw [modLoop_view, complete_view]
  exact withPoller_view s rfl

@[simp] theorem endTestFrame_view (t : LoopTest) (b : Bool) : (s.endTestFrame t b).view = s.view := by
  unfold State.endTestFrame
  dsimp only
  split
  · exact completeTest_view s _
  · exact withPoller_view s rfl

@[simp] theorem testExpiry_view : s.testExpiry.view = s.view := by
  unfold State.testExpiry
  repeat' split
  all_goals simp

@[simp] theorem stopTest_view : s.stopTest.view = s.view := by
  unfold State.stopTest
  split
  · rw [modLoop_view, complete_view]
    exact withPoller_view s rfl
  · rfl

theorem frameAtProbe_view (l : Loop) (p : Probe) (kind : ReplyKind) : (s.frameAtProbe l p kind).view = s.view := by
  unfold State.frameAtProbe
  repeat' split
  all_goals simp

theorem probeSent_view (b : Probe) : (s.probeSent b).view = s.view := by
  unfold State.probeSent
  repeat' split
  · exact (withPoller_view _ rfl).trans (putPoll_view s _ _)
  · rw [beginProbe_view]
    exact withPoller_view s rfl
  all_goals rfl

end

end Sys2Proof.Machine

/-! SUPPORT. What a step can do to the ceilings, the terms and what a running part holds, said once: a sequence of moves, each one
of a few kinds. The three invariants are then proved of the moves. -/

namespace Sys2Proof.Machine

/-- One move. `live` says whether the moves that only a show makes are allowed: a round or an exchange begun, a station LOST. -/
inductive Move (live : Prop) (s : State) : State → Prop
  /-- Nothing of the view changes. -/
  | same {t : State} (h : t.view = s.view) : Move live s t
  /-- The run state changes with no show before and none after (R158, R159, R161, R163). -/
  | run {t : State} (r : RunState) (hr : r ≠ .running) (hs : s.run.state ≠ .running) (h : t.view = { s.view with state := r }) :
    Move live s t
  /-- R47, R160. -/
  | mute (b : Bool) : Move live s (State.setImmediateMute b { s with run := { s.run with muteBit := b } })
  /-- R43. -/
  | hold (k : Stage) (v : Option Nat) : Move live s (s.setHold k v)
  /-- R49, R50. -/
  | ramp : Move live s s.rampAll
  /-- R149: a measurement begins. -/
  | measure (m : Ambient) (hm : m.phase ≠ .none) :
    Move live s (State.setAmbientMute true { s with acc := { s.acc with ambient := m } })
  /-- R150: a measurement goes on. -/
  | counted (m : Ambient) (hs : s.acc.ambient.phase ≠ .none) (hm : m.phase ≠ .none) :
    Move live s { s with acc := { s.acc with ambient := m } }
  /-- R152, R153: a measurement ends. -/
  | unmute : Move live s (s.setAmbientMute false).endAmbient
  /-- R143, R145. -/
  | exchange (b : List BookRecord) : Move live s (s.exchangeBook b)
  /-- R63, R69: the round and its exchange. -/
  | round (p : Poller) (hc : p.copy = s.poller.copy) (ht : p.timing = s.poller.timing) (hs : p.states = s.poller.states)
    (hl : p.roundOpen = true ∨ p.exch.isSome = true → live) : Move live s { s with poller := p }
  /-- R72, R74. -/
  | station (st : Station) (v : StationState) (hl : v = .lost → live) : Move live s (s.setStationState st v)
  /-- R61, R73: an entry of the station table, with the state that an enable or a disable gives. -/
  | entry (st : Station) (e : StationEntry) (v : StationState) {u : State} (hu : u.view = (s.putEntry st e).view) (hv : v ≠ .lost) :
    Move live s (u.setStationState st v)
  /-- R119, R136: a pass of the walker, which leaves FAULTED before it begins. -/
  | pass (cause : PassCause) (found : WalkerState) (p : Pass) : Move live s (s.leaveFaulted.endPass cause false found p)

/-- A sequence of moves. -/
def Moves (live : Prop) : State → State → Prop := Relation.ReflTransGen (Move live)

variable {live : Prop} {s t u : State}

theorem Move.moves (h : Move live s t) : Moves live s t := .single h

theorem Moves.trans (h : Moves live s t) (g : Moves live t u) : Moves live s u := Relation.ReflTransGen.trans h g

theorem Moves.refl (s : State) : Moves live s s := Relation.ReflTransGen.refl

theorem moves_same (h : t.view = s.view) : Moves live s t := (Move.same h).moves

theorem Moves.same (h : Moves live s t) (g : u.view = t.view) : Moves live s u := h.trans (moves_same g)

/-- What every move keeps, a sequence of moves keeps. -/
theorem Moves.induct {P : State → Prop} (hP : ∀ s t, P s → Move live s t → P t) (h : Moves live s t) (hs : P s) : P t := by
  induction h with
  | refl => exact hs
  | tail _ hm ih => exact hP _ _ ih hm

theorem moves_foldl {α : Type} (P : State → Prop) (f : State → α → State) (hf : ∀ s a, P s → Moves live s (f s a))
    (hP : ∀ s t, P s → Moves live s t → P t) (l : List α) (hs : P s) : Moves live s (l.foldl f s) := by
  induction l generalizing s with
  | nil => exact .refl s
  | cons a l ih => exact (hf s a hs).trans (ih (hP _ _ hs (hf s a hs)))

/-! ### When a show runs -/

/-- A show runs, or a round or an exchange is left of one. -/
def State.Busy (s : State) : Prop := s.run.state = .running ∨ s.poller.roundOpen = true ∨ s.poller.exch.isSome = true

theorem busy_view (s : State) : s.Busy ↔ s.view.state = .running ∨ s.view.roundOpen = true ∨ s.view.exch = true := Iff.rfl

theorem busy_congr (hr : t.run.state = s.run.state := by simp) (hp : t.poller = s.poller := by simp) : t.Busy ↔ s.Busy := by
  unfold State.Busy
  rw [hr, hp]

theorem busy_setStationState (st : Station) (v : StationState) (s : State) : (s.setStationState st v).Busy ↔ s.Busy := by
  unfold State.Busy
  rw [(setStationState_keeps st v s).1, setStationState_poller]

/-- Where a show is allowed if one runs, the moves make none where it is not. -/
theorem Move.busy (h : Move live s t) (hs : s.Busy → live) : t.Busy → live := by
  cases h with
  | same h => rw [busy_view, h]; exact hs
  | run r hr _ h =>
    rw [busy_view, h]
    rintro (h | h | h)
    · exact absurd h hr
    · exact hs (.inr (.inl h))
    · exact hs (.inr (.inr h))
  | mute b => rw [busy_congr (s := { s with run := { s.run with muteBit := b } })]; exact hs
  | hold k v => rw [busy_congr (s := s)]; exact hs
  | ramp => rw [busy_congr (s := s)]; exact hs
  | measure m hm => rw [busy_congr (s := { s with acc := { s.acc with ambient := m } })]; exact hs
  | counted m _ hm => exact hs
  | unmute => rw [busy_congr (s := s)]; exact hs
  | exchange b => rw [busy_congr (s := s)]; exact hs
  | round p _ _ _ hl => exact fun h => h.elim (fun hr => hs (.inl hr)) hl
  | station st v => rw [busy_setStationState]; exact hs
  | entry st e v hu => rw [busy_setStationState, busy_view, hu]; exact hs
  | pass cause found p => rw [busy_congr (s := s)]; exact hs

theorem Moves.busy (h : Moves live s t) (hs : s.Busy → live) : t.Busy → live :=
  h.induct (P := fun s => s.Busy → live) (fun _ _ hs hm => hm.busy hs) hs

/-! ### The measurement (R150 to R153) -/

theorem endAmbient_view (s : State) : s.endAmbient.view = { s.view with phase := .none } := rfl

theorem moves_completeAmbient (m : Ambient) (s : State) : Moves live s (s.completeAmbient m) := by
  have h1 : Moves live s { s with book := s.book.takeAmbient m } := moves_same rfl
  refine (h1.trans Move.unmute.moves).same ?_
  unfold State.completeAmbient
  dsimp only
  rw [endAmbient_view, endAmbient_view, complete_view]

theorem moves_abortAmbient (s : State) : Moves live s s.abortAmbient := by
  refine (Move.unmute (s := s)).moves.same ?_
  unfold State.abortAmbient
  rw [endAmbient_view, endAmbient_view, complete_view]

theorem moves_ambientClosure (s : State) : Moves live s s.ambientClosure := by
  unfold State.ambientClosure
  dsimp only
  split
  · exact .refl s
  · next h =>
    split
    · exact (Move.counted _ (by simp [h]) (by simp)).moves
    · exact (Move.counted _ (by simp [h]) (by simp [h])).moves
  · next h =>
    have hc : ∀ m : Ambient, m.phase ≠ .none → Moves live s { s with acc := { s.acc with ambient := m } } := fun m hm =>
      (Move.counted m (by simp [h]) hm).moves
    split
    · exact (hc _ (by simp [h])).trans (moves_completeAmbient _ _)
    · exact hc _ (by simp [h])

/-! ### Rounds (R63, R68 to R70) -/

theorem moves_driveGain (s : State) : Moves live s s.driveGain := (Move.ramp (s := s)).moves.same (driveGain_view s)

theorem moves_closeRound (s : State) : Moves live s s.closeRound := by
  have h1 : Moves live s s.shutRound := 
    (Move.round { s.poller with roundOpen := false, exch := none, todo := [] } rfl rfl rfl (by simp)).moves
  have h2 : Moves live s s.beforeDrive := (h1.same (advanceRest_view _)).trans (moves_ambientClosure _)
  rw [closeRound_eq]
  exact (h2.trans (moves_driveGain _)).same (countProbes_view _)

theorem moves_closeByLastOutcome (s : State) : Moves live s s.closeByLastOutcome :=
  (moves_closeRound s).same (takeProbes_view _)

section

variable (hl : live)

include hl

theorem moves_withExch (p : Poller) (hc : p.copy = s.poller.copy := by rfl) (ht : p.timing = s.poller.timing := by rfl)
    (hs : p.states = s.poller.states := by rfl) : Moves live s { s with poller := p } :=
  (Move.round p hc ht hs fun _ => hl).moves

theorem moves_takeOutcome (st : Station) (o : SecondOutcome) (s : State) : Moves live s (s.takeOutcome st o) := by
  unfold State.takeOutcome
  split
  · exact .refl s
  · exact (moves_same (storeOutcome_view s st o)).trans (Move.station st _ fun _ => hl).moves

theorem moves_handMissing (sts : List Station) (s : State) : Moves live s (s.handMissing sts) := by
  unfold State.handMissing
  exact moves_foldl (fun _ => True) (fun t st => t.takeOutcome st .missing) (fun s st _ => moves_takeOutcome hl st .missing s)
    (fun _ _ _ _ => trivial) sts trivial

theorem moves_closeByDeadline (s : State) : Moves live s s.closeByDeadline := by
  have h1 : Moves live s { s with poller := { s.poller with exch := none, todo := [] } } := moves_withExch hl _
  have h2 := (h1.trans (moves_handMissing hl s.poller.unresolved _)).trans (moves_closeRound _)
  unfold State.closeByDeadline
  dsimp only
  split
  · exact h2.same (post_view _ _ _ _)
  · exact h2

theorem moves_sendAttempt (e : Exchange) (s : State) : Moves live s (s.sendAttempt e) := by
  rw [sendAttempt_eq]
  exact moves_withExch hl _

theorem moves_beginExchange (st : Station) (e : StationEntry) (s : State) : Moves live s (s.beginExchange st e) :=
  moves_sendAttempt hl _ s

theorem moves_proceed (s : State) : Moves live s s.proceed := by
  unfold State.proceed
  split
  · next rest copy _ _ =>
    have h1 : Moves live s { s with poller := { s.poller with todo := rest } } := moves_withExch hl _
    exact h1.trans (moves_beginExchange hl _ _ _)
  · exact moves_closeByLastOutcome s

theorem moves_settle (e : Exchange) (s : State) : Moves live s (s.settle e) := moves_withExch hl _

theorem moves_endExchange (e : Exchange) (o : SecondOutcome) (s : State) : Moves live s (s.endExchange e o) :=
  ((moves_settle hl e s).trans (moves_takeOutcome hl e.station o _)).trans (moves_proceed hl _)

theorem moves_failAttempt (e : Exchange) (s : State) : Moves live s (s.failAttempt e) := by
  have h1 : Moves live s (s.modLoop e.loop LoopLine.failed) := moves_same (modLoop_view s _ _)
  unfold State.failAttempt
  dsimp only
  split
  · exact h1.trans (moves_sendAttempt hl _ _)
  · exact h1.trans (moves_endExchange hl e .missing _)

theorem moves_openRound (s : State) : Moves live s s.openRound := by
  have h1 : Moves live s { s with acc := { s.acc with advanced := Vector.replicate 16 false } } := moves_same rfl
  have h2 : Moves live s s.roundOpened := h1.trans (moves_withExch hl _)
  exact h2.trans (moves_proceed hl _)

theorem moves_pollerSecond (s : State) : Moves live s s.pollerSecond := by
  unfold State.pollerSecond
  dsimp only
  split
  · exact ((moves_closeByDeadline hl s).same (abandonProbe_view _)).trans (moves_openRound hl _)
  · exact (moves_same (abandonProbe_view s)).trans (moves_openRound hl _)

theorem moves_frameAtExchange (l : Loop) (e : Exchange) (kind : ReplyKind) (s : State) :
    Moves live s (s.frameAtExchange l e kind) := by
  have hend : ∀ o, Moves live s ((s.modLoop l LoopLine.answered).endExchange e o) := fun o =>
    (moves_same (modLoop_view s _ _)).trans (moves_endExchange hl e o _)
  unfold State.frameAtExchange
  repeat' split
  · exact hend _
  · exact moves_failAttempt hl e s
  · exact .refl s
  · exact moves_failAttempt hl e s
  · exact .refl s
  · exact hend _
  · exact .refl s
  · exact .refl s
  · exact .refl s

theorem moves_attemptSent (e : Exchange) (s : State) : Moves live s (s.attemptSent e) := by
  unfold State.attemptSent
  split
  · exact moves_sendAttempt hl e s
  · exact moves_withExch hl _
  · exact .refl s
  · exact .refl s

end

/-! ### The events of the Station Poller -/

section

variable (hs : s.Busy → live)

include hs

theorem moves_loopFrame (l : Loop) (bytes : List Byte) : Moves live s (s.loopFrame l bytes) := by
  unfold State.loopFrame
  repeat' split
  · exact moves_same (endTestFrame_view s _ _)
  · exact .refl s
  · exact .refl s
  · next h => exact moves_frameAtExchange (hs (.inr (.inr (by simp [h])))) l _ _ s
  · exact moves_same (frameAtProbe_view s _ _ _)
  · exact .refl s

theorem moves_replyExpiry (l : Loop) (b : Bool) : Moves live s (s.replyExpiry l b) := by
  unfold State.replyExpiry
  split
  · next h =>
    have hl : live := hs (.inr (.inr (by simp [h])))
    repeat' split
    · exact moves_withExch hl _
    · exact moves_failAttempt hl _ s
    · exact .refl s
  · repeat' split
    · exact moves_same (withPoller_view s rfl)
    · exact moves_same (endProbe_view s _ _)
    · exact .refl s
  · exact .refl s

theorem moves_pollSent (l : Loop) : Moves live s (s.pollSent l) := by
  unfold State.pollSent
  split
  · exact .refl s
  · have h1 : Moves live s (s.setLoop l { s.loopLine l with tx := none }) := moves_same (setLoop_view s _ _)
    dsimp only
    repeat' split
    · next e he _ =>
      have hx : s.poller.exch = some e := he
      exact h1.trans (moves_attemptSent (hs (.inr (.inr (by simp [hx])))) _ _)
    · exact h1
    · exact h1.same (probeSent_view _ _)
    · exact h1
    · exact h1

theorem moves_roundDeadline : Moves live s s.roundDeadline := by
  unfold State.roundDeadline
  split
  · next h => exact moves_closeByDeadline (hs (.inl h.1)) s
  · exact .refl s

/-! ### Schedule Walker -/

omit hs in
theorem leaveFaulted_of_ne (h : s.walker.state ≠ .faulted) : s.leaveFaulted = s := if_neg h

omit hs in
theorem moves_endPass (h : s.walker.state ≠ .faulted) (cause : PassCause) (found : WalkerState) (p : Pass) :
    Moves live s (s.endPass cause false found p) := by
  have hm := (Move.pass (live := live) (s := s) cause found p).moves
  rwa [leaveFaulted_of_ne h] at hm

omit hs in
theorem moves_walkerSecond (s : State) : Moves live s s.walkerSecond := by
  unfold State.walkerSecond
  repeat' split
  · next h _ _ _ => exact moves_endPass (by simp [h]) _ _ _
  · exact .refl s
  · exact .refl s

omit hs in
theorem moves_walkerMoved (s : State) : Moves live s s.walkerMoved := by
  unfold State.walkerMoved
  split
  · next h => exact moves_endPass (by rcases h with h | h | h <;> simp [h]) _ _ _
  · exact .refl s

/-! ### Requests (R170) -/

omit hs in
theorem moves_clockMoved (b : Bool) (before : Nat) (s : State) : Moves live s (s.clockMoved b before) := by
  unfold State.clockMoved
  dsimp only
  repeat' split
  · exact (moves_same (closeMinute_view s _ _)).trans (moves_walkerMoved _)
  · exact moves_walkerMoved s
  · exact (moves_walkerMoved s).same (closeMinute_view _ _ _)
  · exact moves_walkerMoved s

omit hs in
/-- R61: a change of an entry that leaves the station as enabled as it was. -/
theorem putEntry_view {st : Station} {e : StationEntry} (h : e.enabled = s.entries[st].enabled) :
    (s.putEntry st e).view = s.view := by
  refine withPoller_view s (p := { s.poller with copy := s.poller.copy.map fun copy => upd copy st e }) ?_
  unfold Poller.causes
  cases hc : s.poller.copy with
  | none => rfl
  | some copy =>
    have hmap : (upd copy st e).map StationEntry.enabled = copy.map StationEntry.enabled := by
      unfold State.entries at h
      rw [hc] at h
      refine vector_ext fun o => ?_
      by_cases ho : o = st
      · subst ho
        simpa using h
      · simpa using congrArg StationEntry.enabled (upd_other copy st o e ho)
    dsimp only [Option.map_some]
    rw [hmap]

theorem moves_disableInRound (st : Station) : Moves live s (s.disableInRound st) := by
  unfold State.disableInRound
  repeat' split
  · next ho _ _ _ _ => exact (moves_settle (hs (.inr (.inl ho))) _ s).trans (moves_proceed (hs (.inr (.inl ho))) _)
  · exact moves_same (withPoller_view s rfl)
  · exact .refl s
  · exact .refl s

theorem moves_changeStation (st : Station) (after : StationEntry) :
    Moves live s (s.changeStation st s.entries[st] after) := by
  cases hb : s.entries[st].enabled <;> cases ha : after.enabled
  · rw [changeStation_same (hb.trans ha.symm)]
    exact moves_same (putEntry_view (ha.trans hb.symm))
  · rw [changeStation_enable hb ha]
    have h1 : Moves live s (s.enabledAt st after) := (Move.entry st after .unknown rfl (by simp)).moves
    split
    · exact h1.same (prime_view _ _)
    · exact h1
  · rw [changeStation_disable hb ha]
    have h1 : Moves live s (s.disabledAt st after) :=
      (Move.entry st after .disabled (disableAccount_view _ _) (by simp)).moves
    exact h1.trans (moves_disableInRound (h1.busy hs) st)
  · rw [changeStation_same (hb.trans ha.symm)]
    exact moves_same (putEntry_view (ha.trans hb.symm))

omit hs in
theorem moves_serveSwapBook (copy : List Byte) (s : State) : Moves live s (serveSwapBook copy s).1 := by
  have h : (serveSwapBook copy s).1 = s ∨ ∃ b, (serveSwapBook copy s).1 = s.exchangeBook b := by
    unfold serveSwapBook
    split
    · exact .inl rfl
    · dsimp only
      split
      · next b _ => exact .inr ⟨b, by dsimp only⟩
      · exact .inl rfl
  obtain h | ⟨b, h⟩ := h
  · rw [h]
    exact .refl s
  · rw [h]
    exact (Move.exchange b).moves

omit hs in
theorem withTest_view (x : Option LoopTest) (s : State) : ({ s with poller := { s.poller with test := x } } : State).view = s.view :=
  withPoller_view s rfl

omit hs in
theorem moves_serveLoopTest (i : Slot) (copy : List Byte) (s : State) : Moves live s (serveLoopTest i copy s).1 := by
  unfold serveLoopTest
  split
  · exact .refl s
  · split
    · exact .refl s
    · split
      · exact .refl s
      · split
        · exact .refl s
        · exact (moves_same (modLoop_view s _ _)).same (withTest_view _ _)

theorem moves_serveSetStation (copy : List Byte) : Moves live s (serveSetStation copy s).1 := by
  unfold serveSetStation
  dsimp only
  split
  · exact .refl s
  · split
    · exact .refl s
    · split
      · exact .refl s
      · split
        · exact .refl s
        · exact moves_changeStation hs _ _

theorem moves_serve (o : Open) (i : Slot) (copy : List Byte) (k : RequestKind) : Moves live s (serve o i copy s k).1 := by
  cases k <;> simp only [serve]
  case setClock =>
    unfold serveSetClock
    dsimp only
    have h1 : ∀ v : Nat, Moves live s { s with clock := v } := fun v => moves_same rfl
    repeat' split
    · exact .refl s
    · exact h1 _
    · exact (h1 _).trans (moves_clockMoved _ _ _)
  case restartSchedule =>
    unfold serveRestartSchedule
    split
    · exact .refl s
    · exact (Move.pass _ _ _).moves
  case resumeSchedule =>
    unfold serveResumeSchedule
    repeat' split
    · exact .refl s
    · next h _ => exact moves_endPass (by simp [h]) _ _ _
    · exact .refl s
  case setWatch =>
    unfold serveSetWatch
    dsimp only
    repeat' split
    all_goals exact moves_same rfl
  case swapBook => exact moves_serveSwapBook copy s
  case setFlags =>
    unfold serveSetFlags
    dsimp only
    split <;> exact moves_same rfl
  case holdStage =>
    unfold serveHoldStage
    split
    · exact .refl s
    · dsimp only
      exact (Move.hold _ _).moves
  case releaseStage =>
    unfold serveReleaseStage
    split
    · exact .refl s
    · dsimp only
      exact (Move.hold _ _).moves
  case measureAmbient =>
    unfold serveMeasureAmbient
    dsimp only
    repeat' split
    · exact .refl s
    · exact .refl s
    · exact .refl s
    · dsimp only
      exact (Move.measure (Ambient.begin i (field copy 0x08 4) (field copy 0x04 2)) AmbientPhase.noConfusion).moves
  case abortAmbient =>
    unfold serveAbortAmbient
    split
    · exact moves_abortAmbient s
    · exact .refl s
  case setAmbient =>
    unfold serveSetAmbient
    repeat' split
    all_goals exact moves_same rfl
  case loopTest => exact moves_serveLoopTest i copy s
  case setStation => exact moves_serveSetStation hs copy
  case readWindow =>
    unfold serveReadWindow
    split <;> exact .refl s

omit hs in
theorem withScanner_view (c : Scanner) (s : State) : ({ s with scanner := c } : State).view = s.view := rfl

theorem moves_takeSlot (o : Open) (i : Slot) (p : Scan) : Moves live s (s.takeSlot o i p) := by
  have h1 : Moves live s { s with scanner := { s.scanner with scan := some p } } := moves_same (withScanner_view _ s)
  unfold State.takeSlot
  dsimp only
  cases s.ram.slotKind i with
  | kind k => exact ((h1.trans (moves_serve (h1.busy hs) o i _ k)).same (answer_view _ _ _ _)).same (markInFlight_view _ _ _ _)
  | bad code => exact (h1.same (answer_view _ _ _ _)).same (markInFlight_view _ _ _ _)

theorem moves_takeKind (o : Open) (want : SlotKind → Bool) (i : Slot) : Moves live s (s.takeKind o want i) := by
  unfold State.takeKind
  repeat' split
  · exact moves_takeSlot hs o i _
  · exact .refl s
  · exact .refl s

theorem moves_runScan (o : Open) (n : Nat) : Moves live s (s.runScan o n) := by
  induction n generalizing s with
  | zero => exact .refl s
  | succ n ih =>
    unfold State.runScan
    repeat' split
    · next i p _ =>
      have h1 := moves_takeSlot hs o i p
      exact h1.trans (ih (h1.busy hs))
    · exact moves_same (withScanner_view _ s)
    · exact .refl s

theorem moves_scanToEnd (o : Open) : Moves live s (s.scanToEnd o) := by
  unfold State.scanToEnd
  repeat' split
  · exact moves_runScan hs o _
  · exact .refl s
  · exact .refl s

/-! ### The second event (Table 5-1) -/

theorem moves_secondWork (wrapped : Bool) (w : SecondWork) : Moves live s (s.secondWork wrapped w) := by
  cases w <;> simp only [State.secondWork]
  case accumulator => split <;> exact moves_same (by simp)
  case poller =>
    split
    · next h => exact moves_pollerSecond (hs (.inl h)) s
    · exact .refl s
  case linkSecond => exact moves_same (clearCharged_view s)
  case linkOffer => split <;> exact moves_same (by simp)
  case scanner => split <;> exact moves_same rfl
  case walker =>
    split
    · exact (moves_walkerSecond s).trans (moves_walkerMoved _)
    · exact moves_walkerSecond s
  case minute => split <;> exact moves_same (by simp)
  case occupancy => exact moves_same (readOccupancy_view s)

theorem moves_secondEvent (order : List SecondWork) : Moves live s (s.secondEvent order) := by
  unfold State.secondEvent
  split
  · exact .refl s
  · have h1 : Moves live s { s with clock := clockAfter s.clock } := moves_same rfl
    exact h1.trans (moves_foldl (fun s => s.Busy → live) _ (fun s w hs => moves_secondWork hs _ w) (fun _ _ hs h => h.busy hs) _
      (h1.busy hs))

end

end Sys2Proof.Machine

/-! SUPPORT. One step of the part in moves: a sequence of them, or a stop after some, a start that succeeds, or a reset. -/

namespace Sys2Proof.Machine

/-- What a step does to what the invariants read. -/
inductive Stride (live : Prop) (s : State) : State → Prop
  | moved {t : State} (h : Moves live s t) : Stride live s t
  /-- R165. -/
  | stopped {u : State} (h : Moves live s u) (hu : u.run.state = .running) : Stride live s u.stopShow
  /-- R164. -/
  | started (d : StartData) (hs : s.run.state = .starting) (hd : startCheck s.ram = .ok d) : Stride live s (s.succeedStart d)
  /-- R166. -/
  | cleared : Stride live s s.softReset
  /-- R159. -/
  | reset : Stride live s s.assertReset

variable {live : Prop} {s t u : State}

theorem Stride.same (h : t.view = s.view) : Stride live s t := .moved (moves_same h)

theorem Stride.none (s : State) : Stride live s s := .moved (.refl s)

/-! ### Starts that begin and that fail (R161, R163) -/

theorem moves_beginStart (h : s.run.state ≠ .running) : Moves live s s.beginStart := by
  have h1 : Moves live s { s with run := { s.run with state := .starting, runBit := true } } :=
    (Move.run .starting (by decide) h rfl).moves
  exact h1.same (post_view _ _ _ _)

theorem moves_failStart (h : s.run.state ≠ .running) (e : StartError) : Moves live s (s.failStart e) := by
  have h1 : Moves live s { s with run := { s.run with state := .idle, error := e, runBit := false } } :=
    (Move.run .idle (by decide) h rfl).moves
  exact (h1.same (post_view _ _ _ _)).same (withScanner_view _ _)

theorem endClearing_stride (s : State) : Stride live s s.endClearing := by
  unfold State.endClearing
  split
  · next h =>
    have h1 : Moves live s { s with run := { s.run with state := .idle } } :=
      (Move.run .idle (by decide) (by simp [h.1]) rfl).moves
    exact .moved (h1.same (post_view _ _ _ _))
  · exact .none s

theorem releaseReset_stride (s : State) : Stride live s s.releaseReset := by
  unfold State.releaseReset
  split
  · exact .same rfl
  · exact .none s

theorem completeStart_stride (s : State) : Stride live s s.completeStart := by
  unfold State.completeStart
  split
  · next h =>
    split
    · next d hd => exact .started d h hd
    · exact .moved (moves_failStart (by simp [h]) _)
  · exact .none s

/-! ### The registers (R160, R192) -/

theorem moves_writeMute (v : Bool) (s : State) : Moves live s (s.writeMute v) := by
  unfold State.writeMute
  split
  · exact .refl s
  · exact (Move.mute v).moves

theorem moves_writeIntEnable (v : Bool) (s : State) : Moves live s (s.writeIntEnable v) := by
  unfold State.writeIntEnable
  split
  · exact .refl s
  · exact moves_same rfl

/-- R160: of a write to CONTROL, CONTROL.RUN last. -/
theorem writeRun_stride (h : Moves live s u) (v : Bool) : Stride live s (u.writeRun v) := by
  unfold State.writeRun
  split
  · exact .moved h
  · split
    · next hr _ => exact .moved (h.trans (moves_beginStart (by simp [hr])))
    · next hr _ => exact .stopped h hr
    · next hr _ => exact .moved (h.trans (moves_failStart (by simp [hr]) _))
    · exact .moved (h.same rfl)

theorem writeControl_stride (v : Nat) (s : State) : Stride live s (s.writeControl v) := by
  unfold State.writeControl
  split
  · exact .cleared
  · exact writeRun_stride ((moves_writeMute _ s).trans (moves_writeIntEnable _ _)) _

theorem writeRegister_stride (reg : Reg) (high : Half) (s : State) : Stride live s (s.writeRegister reg high) := by
  unfold State.writeRegister
  dsimp only
  split
  · exact .none s
  · cases reg <;> dsimp only
    case control => exact writeControl_stride _ s
    case status =>
      unfold State.writeStatus
      split
      · exact .same rfl
      · exact .none s
    case attention =>
      unfold State.writeAttention
      split
      · exact .none s
      · exact .same rfl
      · exact .same rfl
      · exact .same rfl
    case noticeTail =>
      unfold State.writeNoticeTail
      split
      · exact .same rfl
      · exact .none s
    all_goals exact .none s

/-! ### Every command -/

theorem exec_stride (hs : s.Busy → live) (c : Instr) (ht : exec c s = .next t) : Stride live s t := by
  cases c <;> cases ht
  case hardwareReset => exact .reset
  case resetRelease => exact releaseReset_stride s
  case ramClearComplete => exact endClearing_stride s
  case secondEvent => exact .moved (moves_secondEvent hs _)
  case startChecksComplete => exact completeStart_stride s
  case start | stop | softReset | immediateMute | intEnable | noticeOverrunClear | attention | noticeTailWrite
      | registerWriteIgnored => exact writeRegister_stride _ _ s
  case registerLowHalfWrite =>
    unfold State.writeLowHalf
    split
    · exact .none s
    · exact .same rfl
  case hostRamAccess word access =>
    unfold State.hostAccess
    cases access with
    | read => exact .same rfl
    | write data low high =>
      dsimp only
      split
      · exact .none s
      · exact .same (setRam_view _ _)
  case requestScan => exact .moved (moves_scanToEnd hs _)
  case setClock | restartSchedule | resumeSchedule | setWatch | swapBook | setFlags | holdStage | releaseStage
      | measureAmbient | abortAmbient | setAmbient | loopTest | setStation | readWindow | requestBadKind =>
    exact .moved (moves_takeKind hs _ _ _)
  case pollSent => exact .moved (moves_pollSent hs _)
  case replyTimeout => exact .moved (moves_replyExpiry hs _ _)
  case loopFrameReceived => exact .moved (moves_loopFrame hs _ _)
  case loopFrameSilence => exact .moved (moves_loopFrame hs _ _)
  case roundDeadline => exact .moved (moves_roundDeadline hs)
  case ceilingSent => exact .same (modLink_view _ _ _)
  case ackTimeout => exact .same (ackExpiry_view _ _ _)
  case linkFrameReceived => exact .same (judgeAck_view _ _ _)
  case linkFrameSilence => exact .same (judgeAck_view _ _ _)
  case testFrameTimeout => exact .same (testExpiry_view _)
  case registerLowHalfRead => exact .same rfl
  case ramContentDisturbed => exact .same (setRam_view _ _)

/-- A step is a stride from the state with the rest of the queue left waiting. -/
theorem step_stride (hs : s.Busy → live) (ht : step s = .next t) : ∃ u : State, u.view = s.view ∧ Stride live u t := by
  unfold step at ht
  split at ht
  · cases ht
    exact ⟨s, rfl, .none s⟩
  · next c rest _ => exact ⟨{ s with pending := rest }, rfl, exec_stride hs c ht⟩

end Sys2Proof.Machine

/-! SUPPORT. The end of a pass as the view sees it, and O5: no step leaves an applied ceiling above its hard bound. -/

namespace Sys2Proof.Machine

variable {live : Prop} {s t u : State}

/-! ### The end of a pass (R122, R123, R130, R134) -/

/-- R134: the fault-ceiling term on every stage. -/
def State.raiseFault (s : State) : State := s.changeTerms fun _ g => { g with fault := s.faultTerm true }

theorem takeFault_eq (cause : PassCause) (p : Pass) (s : State) : s.takeFault cause false p = s.raiseFault := rfl

/-- A pass either takes the last LIMIT reached or puts the fault ceiling. -/
theorem endPass_view (cause : PassCause) (starting : Bool) (found : WalkerState) (p : Pass) (s : State) :
    (∃ w, w ≠ .faulted ∧ (s.endPass cause starting found p).view = (((s.countLinks p.links).takeLast cause p).goTo w).view) ∨
      (s.endPass cause starting found p).view = (((s.countLinks p.links).takeFault cause starting p).goTo .faulted).view := by
  cases he : p.ending with
  | notDue => exact .inl ⟨.waiting, by decide, by rw [endPass_notDue _ _ _ _ he]⟩
  | final => exact .inl ⟨.final, by decide, by rw [endPass_final _ _ _ _ he]⟩
  | watch pause =>
    refine .inl ⟨.paused, by decide, ?_⟩
    rw [endPass_watch _ _ _ _ he]
    exact post_view _ _ _ _
  | fault reason entry link =>
    refine .inr ?_
    rw [endPass_fault _ _ _ _ he]
    exact (setRam_view _ _).trans (post_view _ _ _ _)

/-! ### The clip (R48) -/

/-- R41, R48: one event that changes terms leaves no applied ceiling above its bound. -/
theorem changeTerms_bounded (f : Stage → GainStage → GainStage) (s : State) : ceilingsBounded (s.changeTerms f).gain.stages := by
  intro k
  rw [changeTerms_stage]
  exact min_le_right _ _

theorem gain_of_view (h : t.view = s.view) : t.gain = s.gain := congrArg View.gain h

theorem bounded_of_gain (h : t.gain = s.gain) (hs : ceilingsBounded s.gain.stages) : ceilingsBounded t.gain.stages := by
  rw [h]
  exact hs

theorem goTo_gain (w : WalkerState) (s : State) : (s.goTo w).gain = s.gain := rfl

theorem evaluateLost_bounded (s : State) : ceilingsBounded s.evaluateLost.gain.stages := by
  unfold State.evaluateLost
  exact changeTerms_bounded _ _

theorem raiseFault_bounded (s : State) : ceilingsBounded s.raiseFault.gain.stages := by
  unfold State.raiseFault
  exact changeTerms_bounded _ _

theorem setImmediateMute_bounded (b : Bool) (s : State) : ceilingsBounded (s.setImmediateMute b).gain.stages := by
  unfold State.setImmediateMute
  exact changeTerms_bounded _ _

theorem setAmbientMute_bounded (b : Bool) (s : State) : ceilingsBounded (s.setAmbientMute b).gain.stages := by
  unfold State.setAmbientMute
  exact changeTerms_bounded _ _

theorem setHold_bounded (k : Stage) (v : Option Nat) (s : State) : ceilingsBounded (s.setHold k v).gain.stages := by
  unfold State.setHold
  exact changeTerms_bounded _ _

theorem exchangeBook_bounded (b : List BookRecord) (s : State) : ceilingsBounded (s.exchangeBook b).gain.stages := by
  unfold State.exchangeBook
  exact evaluateLost_bounded _

/-- R49: the ramp ends no higher than the bound. -/
theorem close_le (target dn up : Nat) (g : GainStage) : (g.close target dn up).applied ≤ (g.close target dn up).bound := by
  show ramp target g.applied dn up g.bound ≤ g.bound
  unfold ramp
  exact Nat.min_le_right _ _

theorem rampAll_bounded (h : ceilingsBounded s.gain.stages) : ceilingsBounded s.rampAll.gain.stages := by
  cases hc : s.gain.cfg with
  | none =>
    have he : s.rampAll = s := by
      unfold State.rampAll
      rw [hc]
    rw [he]
    exact h
  | some c =>
    intro k
    rw [rampAll_stage hc]
    exact close_le _ _ _ _

theorem setStationState_bounded (h : ceilingsBounded s.gain.stages) (st : Station) (v : StationState) :
    ceilingsBounded (s.setStationState st v).gain.stages := by
  rw [setStationState_eq]
  split
  · exact bounded_of_gain (by simp) h
  · exact evaluateLost_bounded _

theorem takeLast_bounded (h : ceilingsBounded s.gain.stages) (cause : PassCause) (p : Pass) :
    ceilingsBounded (s.takeLast cause p).gain.stages := by
  unfold State.takeLast
  split
  · unfold State.activate
    exact bounded_of_gain (gain_of_view (post_view _ _ _ _)) (changeTerms_bounded _ _)
  · exact h

theorem leaveFaulted_bounded (h : ceilingsBounded s.gain.stages) : ceilingsBounded s.leaveFaulted.gain.stages := by
  unfold State.leaveFaulted
  split
  · exact changeTerms_bounded _ _
  · exact h

theorem endPass_bounded (h : ceilingsBounded s.gain.stages) (cause : PassCause) (found : WalkerState) (p : Pass) :
    ceilingsBounded (s.endPass cause false found p).gain.stages := by
  rcases endPass_view cause false found p s with ⟨w, -, hv⟩ | hv
  · exact bounded_of_gain ((gain_of_view hv).trans (goTo_gain _ _)) (takeLast_bounded (s := s.countLinks p.links) h cause p)
  · rw [takeFault_eq] at hv
    exact bounded_of_gain ((gain_of_view hv).trans (goTo_gain _ _)) (raiseFault_bounded _)

theorem Move.bounded (h : ceilingsBounded s.gain.stages) (hm : Move live s t) : ceilingsBounded t.gain.stages := by
  cases hm with
  | same hv => exact bounded_of_gain (gain_of_view hv) h
  | run r hr hs hv => exact bounded_of_gain (congrArg View.gain hv) h
  | mute b => exact setImmediateMute_bounded b _
  | hold k v => exact setHold_bounded k v s
  | measure m => exact setAmbientMute_bounded true _
  | unmute => exact bounded_of_gain (by simp) (setAmbientMute_bounded false s)
  | exchange b => exact exchangeBook_bounded b s
  | ramp => exact rampAll_bounded h
  | counted | round => exact h
  | station st v => exact setStationState_bounded h st v
  | entry st e v hu => exact setStationState_bounded (bounded_of_gain (congrArg View.gain hu) h) st v
  | pass cause found p => exact endPass_bounded (leaveFaulted_bounded h) cause found p

/-! ### The stop, the start and the resets -/

/-- The terms present for a stage (Table 2-3), one by one. -/
theorem mem_terms_iff (g : GainStage) (x : Nat) :
    x ∈ g.terms ↔ g.sched = some x ∨ g.hold = some x ∨ g.fault = some x ∨ g.lost = some x ∨ g.ambient = some x ∨
      g.immediate = some x := by
  simp [GainStage.terms, eq_comm]

/-- R48: a stage whose terms are among those of another has no lower bound. -/
theorem bound_le_of_terms {g h : GainStage} (hs : ∀ x ∈ h.terms, x ∈ g.terms) : g.bound ≤ h.bound :=
  bound_mono fun x hx => ⟨x, hs x hx, le_refl x⟩

/-- R48, R54: the removal of a stop's terms raises no bound above what it was. -/
theorem bound_le_stop (g : GainStage) : g.bound ≤ g.stop.bound := by
  refine bound_le_of_terms fun x hx => ?_
  rw [mem_terms_iff] at hx ⊢
  simp only [GainStage.stop, reduceCtorEq, false_or] at hx
  tauto

theorem stopShow_gain (s : State) : s.stopShow.gain = s.stopped.gain := by
  obtain ⟨r, n, h⟩ := stopShow_of (s := s) rfl
  rw [h]

theorem stopShow_bounded (h : ceilingsBounded s.gain.stages) : ceilingsBounded s.stopShow.gain.stages := by
  obtain ⟨wd, -⟩ := stoppedWork_ends (s := s.toIdle) rfl h
  intro k
  rw [stopShow_gain, stopped_stage]
  generalize s.toIdle.stoppedWork = w at wd ⊢
  exact (wd.bounded k).trans (bound_le_stop _)

/-- O21 for the successful start. -/
theorem succeedStart_after {d : StartData} (hs : s.run.state = .starting) (hd : startCheck s.ram = .ok d) :
    (s.succeedStart d).run.state = .running ∧ (s.succeedStart d).poller.copy = some d.copy ∧
      (s.succeedStart d).poller.timing = some d.config.timing ∧ (s.succeedStart d).gain.cfg = some d.config.gain ∧
      (s.succeedStart d).links.cfg = some d.config.link ∧ (s.succeedStart d).book.working = some d.book ∧
      ceilingsBounded (s.succeedStart d).gain.stages := by
  obtain ⟨t, ht, hrun, hcopy, htiming, hgain, hlink, hbook, -, -, -, -, -, -, -, -, -, -, -, hstage, -⟩ := startSucceeds s d hs hd
  rw [start_exec hs hd] at ht
  cases ht
  exact ⟨by rw [hrun], hcopy, htiming, hgain, hlink, hbook, fun k => (hstage k).2.1⟩

theorem softReset_bounded (s : State) : ceilingsBounded s.softReset.gain.stages := by
  have h : s.softReset.gain = { stages := Vector.replicate 4 .reset, cfg := none } := gain_of_view (post_view _ _ _ _)
  intro k
  rw [h, replicate_get]
  decide

theorem assertReset_bounded (s : State) : ceilingsBounded s.assertReset.gain.stages := by
  intro k
  have h : s.assertReset.gain.stages[k] = GainStage.reset := replicate_get _ _
  rw [h]
  decide

theorem Stride.bounded (h : ceilingsBounded s.gain.stages) (hx : Stride live s t) : ceilingsBounded t.gain.stages := by
  have key : ∀ {u}, Moves live s u → ceilingsBounded u.gain.stages := fun hm =>
    hm.induct (P := fun u => ceilingsBounded u.gain.stages) (fun _ _ h hm => hm.bounded h) h
  cases hx with
  | moved hm => exact key hm
  | stopped hm => exact stopShow_bounded (key hm)
  | started d hs hd => exact (succeedStart_after hs hd).2.2.2.2.2.2
  | cleared => exact softReset_bounded s
  | reset => exact assertReset_bounded s

/-- Settles O5: every change of terms ends with the clip, and what else changes a ceiling or a bound takes their minimum or only
removes terms. -/
theorem stepKeepsCeilingsBounded : Obligations.StepKeepsCeilingsBounded := by
  unfold Obligations.StepKeepsCeilingsBounded
  intro s t h ht
  obtain ⟨u, hu, hx⟩ := step_stride (live := True) (fun _ => trivial) ht
  have hb : ceilingsBounded t.gain.stages := hx.bounded (bounded_of_gain (gain_of_view hu) h)
  exact ⟨hb, fun k => (hb k).trans (bound_le _).1⟩

end Sys2Proof.Machine

/-! SUPPORT. What the operations that do move the view leave of it, and O8: in RUNNING what the blocks read is present, and outside it
no round is open and no station LOST. -/

namespace Sys2Proof.Machine

variable {live : Prop} {s t u : State}

/-! ### The operations that move the view -/

theorem clipStage_linkCfg (k : Stage) (s : State) : (s.clipStage k).links.cfg = s.links.cfg := by
  unfold State.clipStage
  dsimp only
  split
  · rw [(stageConditions_keeps _ _).2.2.2.2.2.2.1, (logClip_keeps _ _ _).2.2.2.2.2.2.2.1]
    rfl
  · rfl

theorem changeTerms_linkCfg (f : Stage → GainStage → GainStage) (s : State) : (s.changeTerms f).links.cfg = s.links.cfg :=
  forStages_keeps (fun t => t.links.cfg) _ clipStage_linkCfg
    { s with gain := { s.gain with stages := Vector.ofFn fun k : Fin 4 => f k s.gain.stages[k] } }

/-- R41, R48: an event that changes terms moves the gain alone. -/
theorem changeTerms_view (f : Stage → GainStage → GainStage) (s : State) :
    (s.changeTerms f).view = { s.view with gain := (s.changeTerms f).gain } := by
  unfold State.view
  simp [changeTerms_linkCfg]

theorem noteState_view (st : Station) (v : StationState) (s : State) :
    (s.noteState st v).view = { s.view with states := upd s.view.states st v } := by
  unfold State.view Poller.causes
  simp [noteState_poller]

theorem evaluateLost_view (s : State) : s.evaluateLost.view = { s.view with gain := s.evaluateLost.gain } := by
  unfold State.evaluateLost
  exact changeTerms_view _ s

theorem setStationState_view (st : Station) (v : StationState) (s : State) :
    (s.setStationState st v).view =
      { s.view with gain := (s.setStationState st v).gain, states := upd s.view.states st v } := by
  have hg : (s.noteState st v).gain = s.gain := by simp
  rw [setStationState_eq]
  split
  · rw [noteState_view, hg]
    rfl
  · rw [evaluateLost_view, noteState_view]

/-- R125: an activation moves the gain, the active entry and the limit set. -/
theorem activate_view (cause : PassCause) (b : Bool) (e : LimitEntry) (s : State) :
    (s.activate cause b e).view =
      { s.view with gain := (s.activate cause b e).gain, active := some e, set := e.set } := by
  unfold State.activate State.postEntryActivated
  dsimp only
  rw [post_view, changeTerms_view, gain_of_view (post_view _ _ _ _)]
  rfl

/-! ### What a running part holds (R52, R60, R71, R96, R142) -/

/-- The working book, the configuration values, the copy and the timing values are present. -/
def View.Held (v : View) : Prop :=
  v.working.isSome = true ∧ v.gain.cfg.isSome = true ∧ v.linkCfg = true ∧ v.enabled.isSome = true ∧ v.timing = true

theorem loaded_iff (s : State) : s.Loaded ↔ (s.view.state = .running → s.view.Held) := by
  have hcopy : (s.poller.copy.map fun c => c.map StationEntry.enabled).isSome = s.poller.copy.isSome := Option.isSome_map
  unfold State.Loaded View.Held
  refine imp_congr_right fun _ => ?_
  refine and_congr_right fun _ => and_congr_right fun _ => and_congr_right fun _ => and_congr_left fun _ => ?_
  exact (congrArg (· = true) hcopy).symm.to_iff

/-- No RUNNING entered and nothing held lost. -/
def View.Holds (v w : View) : Prop := (w.state = .running → v.state = .running) ∧ (v.Held → w.Held)

theorem View.Holds.trans {u v w : View} (h : u.Holds v) (g : v.Holds w) : u.Holds w :=
  ⟨fun hw => h.1 (g.1 hw), fun hu => g.2 (h.2 hu)⟩

theorem View.holds_refl (v : View) : v.Holds v := ⟨id, id⟩

/-- A change of the ceilings, of the causes of the terms and of the stations' states. -/
theorem holds_of (v : View) {g : GainAllocator} (h : g.cfg = v.gain.cfg) (m : Bool) (w : WalkerState) (a : Option LimitEntry)
    (set : Fin 8) (p : AmbientPhase) (st : Vector StationState 16) :
    v.Holds { v with mute := m, gain := g, walker := w, active := a, set := set, phase := p, states := st } := by
  unfold View.Holds View.Held
  dsimp only
  rw [h]
  exact ⟨id, id⟩

theorem changeTerms_holds (f : Stage → GainStage → GainStage) (s : State) : s.view.Holds (s.changeTerms f).view := by
  rw [changeTerms_view]
  exact holds_of _ (changeTerms_cfg f s) _ _ _ _ _ _

theorem evaluateLost_holds (s : State) : s.view.Holds s.evaluateLost.view := by
  unfold State.evaluateLost
  exact changeTerms_holds _ s

theorem setStationState_holds (st : Station) (v : StationState) (s : State) : s.view.Holds (s.setStationState st v).view := by
  rw [setStationState_view]
  exact holds_of _ (setStationState_cfg st v s) _ _ _ _ _ _

theorem putEntry_moves (st : Station) (e : StationEntry) (s : State) :
    (s.putEntry st e).view =
      { s.view with enabled := (s.poller.copy.map fun copy => upd copy st e).map fun c => c.map StationEntry.enabled } := rfl

theorem putEntry_holds (st : Station) (e : StationEntry) (s : State) : s.view.Holds (s.putEntry st e).view := by
  have hv : s.view.enabled.isSome = s.poller.copy.isSome := Option.isSome_map
  rw [putEntry_moves]
  unfold View.Holds View.Held
  dsimp only
  rw [hv, Option.isSome_map, Option.isSome_map]
  exact ⟨id, id⟩

theorem leaveFaulted_holds (s : State) : s.view.Holds s.leaveFaulted.view := by
  unfold State.leaveFaulted
  split
  · exact changeTerms_holds _ s
  · exact View.holds_refl _

theorem activate_cfg (cause : PassCause) (b : Bool) (e : LimitEntry) (s : State) :
    (s.activate cause b e).gain.cfg = s.gain.cfg := by
  unfold State.activate State.postEntryActivated
  dsimp only
  rw [gain_of_view (post_view _ _ _ _), changeTerms_cfg]
  rfl

theorem takeLast_holds (cause : PassCause) (p : Pass) (s : State) : s.view.Holds (s.takeLast cause p).view := by
  unfold State.takeLast
  split
  · rw [activate_view]
    exact holds_of _ (activate_cfg _ _ _ s) _ _ _ _ _ _
  · exact View.holds_refl _

theorem goTo_view (w : WalkerState) (s : State) : (s.goTo w).view = { s.view with walker := w } := rfl

theorem goTo_holds (w : WalkerState) (s : State) : s.view.Holds (s.goTo w).view :=
  holds_of s.view rfl _ w _ _ _ _

theorem raiseFault_holds (s : State) : s.view.Holds s.raiseFault.view := by
  unfold State.raiseFault
  exact changeTerms_holds _ s

theorem countLinks_view (n : Nat) (s : State) : (s.countLinks n).view = s.view := rfl

theorem endPass_holds (cause : PassCause) (found : WalkerState) (p : Pass) (s : State) :
    s.view.Holds (s.endPass cause false found p).view := by
  rcases endPass_view cause false found p s with ⟨w, -, hv⟩ | hv
  · rw [hv, ← countLinks_view p.links s]
    exact (takeLast_holds _ _ _).trans (goTo_holds _ _)
  · rw [hv, takeFault_eq, ← countLinks_view p.links s]
    exact (raiseFault_holds _).trans (goTo_holds _ _)

theorem setImmediateMute_holds (b : Bool) (s : State) : s.view.Holds (s.setImmediateMute b).view := by
  unfold State.setImmediateMute
  exact changeTerms_holds _ s

theorem setAmbientMute_holds (b : Bool) (s : State) : s.view.Holds (s.setAmbientMute b).view := by
  unfold State.setAmbientMute
  exact changeTerms_holds _ s

theorem setHold_holds (k : Stage) (v : Option Nat) (s : State) : s.view.Holds (s.setHold k v).view := by
  unfold State.setHold
  exact changeTerms_holds _ s

theorem rampAll_view (s : State) : s.rampAll.view = { s.view with gain := s.rampAll.gain } := by
  unfold State.rampAll
  split <;> rfl

theorem rampAll_holds (s : State) : s.view.Holds s.rampAll.view := by
  rw [rampAll_view]
  exact holds_of _ (rampAll_cfg s) _ _ _ _ _ _

theorem exchangeBook_holds (b : List BookRecord) (s : State) : s.view.Holds (s.exchangeBook b).view := by
  unfold State.exchangeBook
  have h1 : s.view.Holds
      ({ s with book := { s.book with working := some b, area := otherArea s.book.area } } : State).view :=
    ⟨id, fun ⟨_, hg, hl, he, ht⟩ => ⟨rfl, hg, hl, he, ht⟩⟩
  exact h1.trans (evaluateLost_holds _)

theorem withRound_view {p : Poller} (hc : p.copy = s.poller.copy) (ht : p.timing = s.poller.timing) (hs : p.states = s.poller.states) :
    ({ s with poller := p } : State).view = { s.view with roundOpen := p.roundOpen, exch := p.exch.isSome } := by
  unfold State.view Poller.causes
  dsimp only
  rw [hc, ht, hs]

theorem Move.holds (h : Move live s t) : s.view.Holds t.view := by
  cases h with
  | same h => rw [h]; exact View.holds_refl _
  | run r hr _ h => rw [h]; exact ⟨fun e => absurd e hr, id⟩
  | mute b => exact setImmediateMute_holds b { s with run := { s.run with muteBit := b } }
  | hold k v => exact setHold_holds k v s
  | ramp => exact rampAll_holds s
  | measure m => exact setAmbientMute_holds true { s with acc := { s.acc with ambient := m } }
  | counted m => exact holds_of s.view rfl _ _ _ _ m.phase _
  | unmute =>
    rw [endAmbient_view]
    exact (setAmbientMute_holds false s).trans (holds_of (s.setAmbientMute false).view rfl _ _ _ _ _ _)
  | exchange b => exact exchangeBook_holds b s
  | round p hc ht hs =>
    rw [withRound_view hc ht hs]
    exact ⟨id, id⟩
  | station st v => exact setStationState_holds st v s
  | entry st e v hu => exact (hu ▸ putEntry_holds st e s).trans (setStationState_holds st v _)
  | pass cause found p => exact (leaveFaulted_holds s).trans (endPass_holds cause found p _)

theorem Moves.holds (h : Moves live s t) : s.view.Holds t.view :=
  h.induct (P := fun u => s.view.Holds u.view) (fun _ _ hu hm => hu.trans hm.holds) (View.holds_refl _)

/-! ### What a show leaves behind (R63, R75, R84) -/

/-- No round, no exchange and no station LOST. -/
def State.Over (s : State) : Prop :=
  s.poller.roundOpen = false ∧ s.poller.exch = none ∧ ∀ st : Station, s.poller.states[st] ≠ StationState.lost

theorem showOver_iff (s : State) : s.ShowOver ↔ (s.run.state ≠ .running → s.Over) := Iff.rfl

theorem over_congr (hp : t.poller = s.poller := by simp) (h : s.Over) : t.Over := by
  unfold State.Over at h ⊢
  rw [hp]
  exact h

theorem over_iff (s : State) :
    s.Over ↔ s.view.roundOpen = false ∧ s.view.exch = false ∧ ∀ st : Station, s.view.states[st] ≠ StationState.lost := by
  unfold State.Over
  refine and_congr_right fun _ => and_congr_left fun _ => ?_
  exact Option.isSome_eq_false_iff.trans Option.isNone_iff_eq_none |>.symm

theorem over_of_view (hr : t.view.roundOpen = s.view.roundOpen) (he : t.view.exch = s.view.exch)
    (hs : t.view.states = s.view.states) (h : s.Over) : t.Over := by
  rw [over_iff] at h ⊢
  rw [hr, he, hs]
  exact h

theorem over_setStationState (h : s.Over) (st : Station) {v : StationState} (hv : v ≠ .lost) : (s.setStationState st v).Over := by
  obtain ⟨ho, he, hs⟩ := h
  unfold State.Over
  rw [setStationState_poller]
  refine ⟨ho, he, fun o => ?_⟩
  dsimp only
  rw [upd_get]
  split
  · exact hv
  · exact hs o

/-- Where no show runs no move begins a round or an exchange or loses a station. -/
theorem Move.over (hl : ¬ live) (hm : Move live s t) (h : s.Over) : t.Over := by
  cases hm with
  | same hv => exact over_of_view (by rw [hv]) (by rw [hv]) (by rw [hv]) h
  | run r hr hs hv => exact over_of_view (by rw [hv]) (by rw [hv]) (by rw [hv]) h
  | mute b => exact over_congr (s := s) (by simp) h
  | hold k v => exact over_congr (s := s) (by simp) h
  | ramp => exact over_congr (s := s) (by simp) h
  | measure m => exact over_congr (s := s) (by simp) h
  | counted m => exact over_congr (s := s) rfl h
  | unmute => exact over_congr (s := s) (by simp) h
  | exchange b => exact over_congr (s := s) (by simp) h
  | round p hc ht hs hp =>
    have hopen : p.roundOpen = false := Bool.eq_false_iff.2 fun e => hl (hp (.inl e))
    have hexch : p.exch = none := Option.not_isSome_iff_eq_none.1 fun e => hl (hp (.inr e))
    exact ⟨hopen, hexch, by rw [hs]; exact h.2.2⟩
  | station st v hv => exact over_setStationState h st fun e => hl (hv e)
  | entry st e v hu hv =>
    exact over_setStationState (over_of_view (s := s) (by rw [hu]; rfl) (by rw [hu]; rfl) (by rw [hu]; rfl) h) st hv
  | pass cause found p => exact over_congr (s := s) (by simp) h

/-- No move enters RUNNING or leaves it. -/
theorem Move.running (hm : Move live s t) : t.run.state = .running ↔ s.run.state = .running := by
  have hrun : ∀ {u v : State}, v.view.state = u.view.state → (v.run.state = .running ↔ u.run.state = .running) :=
    fun {u v} h => by
      have e : v.run.state = u.run.state := h
      rw [e]
  cases hm with
  | same hv => exact hrun (by rw [hv])
  | run r hr hs hv =>
    have ht : t.run.state = r := congrArg View.state hv
    rw [ht]
    exact iff_of_false hr hs
  | entry st e v hu =>
    rw [(setStationState_keeps _ _ _).1]
    exact hrun (by rw [hu]; rfl)
  | mute | hold | ramp | measure | counted | unmute | exchange | round | station | pass => simp

theorem Moves.running (h : Moves live s t) : t.run.state = .running ↔ s.run.state = .running :=
  h.induct (P := fun u => u.run.state = .running ↔ s.run.state = .running) (fun _ _ hu hm => hm.running.trans hu) Iff.rfl

theorem Moves.over (hl : ¬ live) (hm : Moves live s t) (h : s.Over) : t.Over :=
  hm.induct (P := State.Over) (fun _ _ hu hm => hm.over hl hu) h

/-- R75, R84: the Poller after a stop's work. -/
theorem stoppedWork_over (s : State) : s.stoppedWork.Over := by
  obtain ⟨hopen, hexch, -⟩ := stopRound_poller s.stopAmbient
  obtain ⟨-, -, -, topen, texch, -⟩ := stopTest_poller s.stopAmbient.stopRound
  have hp := stopStations_poller s.stopAmbient.stopRound.stopTest.stopMinute
  have hm : s.stopAmbient.stopRound.stopTest.stopMinute.poller = s.stopAmbient.stopRound.stopTest.poller :=
    (stopMinute_keeps _).2.2.2.2.2.1
  unfold State.stoppedWork
  refine ⟨?_, ?_, fun st => ?_⟩
  · rw [hp, hm]
    exact topen.trans hopen
  · rw [hp, hm]
    exact texch.trans hexch
  · rw [stopStations_states]
    decide

theorem stopShow_over (s : State) : s.stopShow.Over := by
  obtain ⟨r, n, h⟩ := stopShow_of (s := s) rfl
  have hp : s.stopShow.poller = s.toIdle.stoppedWork.poller := by
    have hv := (stopped_keeps s).2.2.2.2.1
    rw [h]
    generalize s.stopped = v at hv ⊢
    exact hv
  exact over_congr hp (stoppedWork_over _)

theorem stopShow_idle (s : State) : s.stopShow.run.state = .idle := by
  obtain ⟨r, n, h⟩ := stopShow_of (s := s) rfl
  have hr : s.stopped.run = s.toIdle.run := (stopped_keeps s).1.trans (stoppedWork_keeps _).1
  rw [h]
  generalize s.stopped = v at hr ⊢
  exact congrArg RunControl.state hr

theorem softReset_idle (s : State) : s.softReset.run.state = .idle := by
  rw [softReset_eq]
  rfl

theorem softReset_over (s : State) : s.softReset.Over := by
  rw [softReset_eq]
  exact ⟨rfl, rfl, fun st => by
    show (Vector.replicate 16 StationState.unknown)[st] ≠ _
    rw [replicate_get]
    decide⟩

theorem assertReset_over (s : State) : s.assertReset.Over :=
  ⟨rfl, rfl, fun st => by
    show (Vector.replicate 16 StationState.unknown)[st] ≠ _
    rw [replicate_get]
    decide⟩

theorem Stride.loaded (hx : Stride live s t) (h : s.Loaded) : t.Loaded := by
  have key : ∀ {u}, Moves live s u → u.Loaded := fun hm => by
    obtain ⟨hstate, hheld⟩ := hm.holds
    rw [loaded_iff] at h ⊢
    exact fun hu => hheld (h (hstate hu))
  cases hx with
  | moved hm => exact key hm
  | stopped => exact fun hr => absurd hr (by rw [stopShow_idle]; decide)
  | started d hs hd =>
    obtain ⟨-, hcopy, htiming, hgain, hlink, hbook, -⟩ := succeedStart_after hs hd
    exact fun _ => by simp [hcopy, htiming, hgain, hlink, hbook]
  | cleared => exact fun hr => absurd hr (by rw [softReset_idle]; decide)
  | reset => exact fun hr => absurd hr RunState.noConfusion

theorem Stride.showOver (hx : Stride (s.run.state = .running) s t) (h : s.ShowOver) : t.ShowOver := by
  cases hx with
  | moved hm => exact fun ht => hm.over (fun hs => ht (hm.running.2 hs)) (h fun hs => ht (hm.running.2 hs))
  | stopped => exact fun _ => stopShow_over _
  | started d hs hd => exact fun hr => absurd (succeedStart_after hs hd).1 hr
  | cleared => exact fun _ => softReset_over s
  | reset => exact fun _ => assertReset_over s

/-- A show that is over leaves nothing of one. -/
theorem ShowOver_busy (h : s.ShowOver) (hb : s.Busy) : s.run.state = .running := by
  by_contra hr
  obtain ⟨hopen, hexch, -⟩ := h hr
  rcases hb with hb | hb | hb
  · exact hr hb
  · simp [hopen] at hb
  · simp [hexch] at hb

theorem loaded_view (h : t.view = s.view) : t.Loaded ↔ s.Loaded := by
  rw [loaded_iff, loaded_iff, h]

theorem showOver_view (h : t.view = s.view) : t.ShowOver ↔ s.ShowOver := by
  have hr : t.run.state = s.run.state := congrArg View.state h
  rw [showOver_iff, showOver_iff, over_iff, over_iff, hr, h]

/-- Settles O8: RUNNING is entered by a successful start alone, which takes all that is held, and left by a stop or a reset, which
ends the round and leaves no station LOST. -/
theorem stepKeepsRunningLoaded : Obligations.StepKeepsRunningLoaded := by
  unfold Obligations.StepKeepsRunningLoaded
  intro s t ht
  constructor
  · intro h
    obtain ⟨u, hu, hx⟩ := step_stride (live := True) (fun _ => trivial) ht
    exact hx.loaded ((loaded_view hu).2 h)
  · intro h
    obtain ⟨u, hu, hx⟩ := step_stride (ShowOver_busy h) ht
    have hr : u.run.state = s.run.state := congrArg View.state hu
    rw [← hr] at hx
    exact hx.showOver ((showOver_view hu).2 h)

end Sys2Proof.Machine

/-! SUPPORT. The causes of the hard bound's terms (Table 2-3) as the view holds them, and what each event makes of the terms. -/

namespace Sys2Proof.Machine

variable {live : Prop} {s t u : State} {v : View}

/-! ### The causes -/

/-- R45: a station enabled in the copy. -/
def View.enabledAt (v : View) (st : Station) : Bool :=
  match v.enabled with
  | some on => on[st]
  | none => false

/-- R45: the share of a station in the set in force is at least c_min. -/
def View.hears (v : View) (st : Station) (k : Stage) : Bool :=
  match v.working.map fun b => b.getD (16 * v.set.val + st.val) BookRecord.zero, v.gain.cfg with
  | some r, some c => decide (c.cMin ≤ r.shares[k])
  | _, _ => false

def View.lostHeard (v : View) (k : Stage) : Bool :=
  allStations.any fun st => v.enabledAt st && decide (v.states[st] = StationState.lost) && v.hears st k

theorem enabledAt_view (s : State) (st : Station) : s.view.enabledAt st = s.enabledStation st := by
  have he : s.view.enabled = s.poller.copy.map fun c => c.map StationEntry.enabled := rfl
  unfold View.enabledAt State.enabledStation
  rw [he]
  cases s.poller.copy <;> simp

theorem hears_view (s : State) (st : Station) (k : Stage) : s.view.hears st k = s.hears st k := rfl

theorem lostHeard_view (s : State) (k : Stage) : s.view.lostHeard k = s.lostHeard k := by
  unfold View.lostHeard State.lostHeard
  simp only [enabledAt_view, hears_view]
  rfl

/-- Table 2-3: the terms of a stage are what their causes give, the operator hold aside. -/
structure View.Sourced (v : View) (k : Stage) (g : GainStage) : Prop where
  sched : g.sched = v.active.map fun e => e.ceil[k]
  fault : g.fault = if v.walker = .faulted then v.gain.cfg.map GainConfig.fault else none
  lost : g.lost = if v.lostHeard k then v.gain.cfg.map (fun c => c.lost[k]) else none
  ambient : g.ambient = if v.phase = .none then none else some 0
  immediate : g.immediate = if v.mute then some 0 else none

/-- Of every stage. -/
def View.Sound (v : View) : Prop := ∀ k : Stage, v.Sourced k v.gain.stages[k]

theorem termsSound_iff (s : State) : s.TermsSound ↔ s.view.Sound := by
  refine forall_congr' fun k => ?_
  rw [← lostHeard_view]
  exact ⟨fun ⟨h1, h2, h3, h4, h5⟩ => ⟨h1, h2, h3, h4, h5⟩, fun h => ⟨h.sched, h.fault, h.lost, h.ambient, h.immediate⟩⟩

/-- No station LOST. -/
def View.Unlost (v : View) : Prop := ∀ st : Station, v.states[st] ≠ StationState.lost

theorem View.Unlost.lostHeard (h : v.Unlost) (k : Stage) : v.lostHeard k = false := by
  unfold View.lostHeard
  refine List.any_eq_false.2 fun st _ => ?_
  rw [decide_eq_false (h st)]
  simp

/-- A state in which the model evaluates the lost-station term as Table 2-3 has it: a show runs, or no station is LOST. -/
def View.Ready (v : View) : Prop := v.state = .running ∨ v.Unlost

theorem ready_gain (g : GainAllocator) : View.Ready { v with gain := g } ↔ v.Ready := Iff.rfl

theorem lostTerm_view (h : s.view.Ready) (k : Stage) :
    s.lostTerm k = if s.view.lostHeard k then s.view.gain.cfg.map (fun c => c.lost[k]) else none := by
  rcases h with h | h
  · rw [lostHeard_view]
    exact lostTerm_running h k
  · have hp : s.lostPresent k = false := by
      unfold State.lostPresent
      rw [Bool.and_eq_false_iff]
      refine .inr (List.any_eq_false.2 fun st _ => ?_)
      have hst : s.poller.states[st] ≠ .lost := h st
      rw [beq_eq_false_iff_ne.2 hst]
      simp
    rw [h.lostHeard]
    unfold State.lostTerm
    rw [hp]
    cases s.gain.cfg <;> rfl

/-! ### An event that changes terms -/

/-- The applied ceiling is not a term. -/
theorem sourced_applied {k : Stage} {g : GainStage} (h : v.Sourced k g) (a : Nat) : v.Sourced k { g with applied := a } :=
  ⟨h.sched, h.fault, h.lost, h.ambient, h.immediate⟩

theorem sourced_gain {w : GainAllocator} (hc : w.cfg = v.gain.cfg) {k : Stage} {g : GainStage} (h : v.Sourced k g) :
    View.Sourced { v with gain := w } k g := by
  refine ⟨h.sched, ?_, ?_, h.ambient, h.immediate⟩
  · dsimp only
    rw [hc]
    exact h.fault
  · have hl : View.lostHeard { v with gain := w } k = v.lostHeard k := by
      unfold View.lostHeard View.hears View.enabledAt
      dsimp only
      rw [hc]
    rw [hl]
    dsimp only
    rw [hc]
    exact h.lost

/-- The stages may hold any applied ceilings. -/
theorem sound_of_stages {w : GainAllocator} {g : Stage → GainStage} (hc : w.cfg = v.gain.cfg)
    (hw : ∀ k : Stage, ∃ a, w.stages[k] = { g k with applied := a }) (h : ∀ k, v.Sourced k (g k)) :
    View.Sound { v with gain := w } := by
  intro k
  obtain ⟨a, ha⟩ := hw k
  have h1 := sourced_gain hc (sourced_applied (h k) a)
  rw [← ha] at h1
  exact h1

/-- R41, R48: an event that changes terms, as the view sees it. -/
theorem changeTerms_stages (f : Stage → GainStage → GainStage) (s : State) :
    ∃ w : GainAllocator, (s.changeTerms f).view = { s.view with gain := w } ∧ w.cfg = s.view.gain.cfg ∧
      ∀ k : Stage, ∃ a, w.stages[k] = { f k s.gain.stages[k] with applied := a } :=
  ⟨_, changeTerms_view f s, changeTerms_cfg f s, fun k => ⟨_, changeTerms_stage f s k⟩⟩

theorem changeTerms_sound {f : Stage → GainStage → GainStage} (h : ∀ k : Stage, s.view.Sourced k (f k s.gain.stages[k])) :
    (s.changeTerms f).view.Sound := by
  obtain ⟨w, hv, hc, hstage⟩ := changeTerms_stages f s
  rw [hv]
  exact sound_of_stages hc hstage h

/-! ### The mutes, the hold and the ramp (R43, R46, R47, R49) -/

theorem setImmediateMute_sound (h : s.view.Sound) (b : Bool) :
    (State.setImmediateMute b { s with run := { s.run with muteBit := b } }).view.Sound := by
  unfold State.setImmediateMute
  refine changeTerms_sound fun k => ?_
  obtain ⟨h1, h2, h3, h4, -⟩ := h k
  exact ⟨h1, h2, h3, h4, rfl⟩

theorem setHold_sound (h : s.view.Sound) (k : Stage) (v : Option Nat) : (s.setHold k v).view.Sound := by
  unfold State.setHold
  refine changeTerms_sound fun j => ?_
  obtain ⟨h1, h2, h3, h4, h5⟩ := h j
  split
  · exact ⟨h1, h2, h3, h4, h5⟩
  · exact ⟨h1, h2, h3, h4, h5⟩

theorem rampAll_sound (h : s.view.Sound) : s.rampAll.view.Sound := by
  cases hc : s.gain.cfg with
  | none =>
    have he : s.rampAll = s := by
      unfold State.rampAll
      rw [hc]
    rw [he]
    exact h
  | some c =>
    have hcfg : s.rampAll.gain.cfg = s.view.gain.cfg := rampAll_cfg s
    have hstage := rampAll_stage hc
    rw [rampAll_view]
    generalize s.rampAll.gain = w at hcfg hstage ⊢
    intro k
    obtain ⟨h1, h2, h3, h4, h5⟩ := sourced_gain hcfg (h k)
    dsimp only
    rw [hstage]
    exact ⟨h1, h2, h3, h4, h5⟩

theorem withPhase_view (m : Ambient) (s : State) :
    ({ s with acc := { s.acc with ambient := m } } : State).view = { s.view with phase := m.phase } := rfl

theorem measure_sound (h : s.view.Sound) {m : Ambient} (hm : m.phase ≠ .none) :
    (State.setAmbientMute true { s with acc := { s.acc with ambient := m } }).view.Sound := by
  unfold State.setAmbientMute
  refine changeTerms_sound fun k => ?_
  obtain ⟨h1, h2, h3, -, h5⟩ := h k
  rw [withPhase_view]
  exact ⟨h1, h2, h3, (if_neg hm).symm, h5⟩

theorem counted_sound (h : s.view.Sound) {m : Ambient} (hs : s.acc.ambient.phase ≠ .none) (hm : m.phase ≠ .none) :
    ({ s with acc := { s.acc with ambient := m } } : State).view.Sound := by
  intro k
  obtain ⟨h1, h2, h3, h4, h5⟩ := h k
  rw [withPhase_view]
  exact ⟨h1, h2, h3, h4.trans ((if_neg hs).trans (if_neg hm).symm), h5⟩

theorem unmute_sound (h : s.view.Sound) : (s.setAmbientMute false).endAmbient.view.Sound := by
  unfold State.setAmbientMute
  obtain ⟨w, hv, hc, hstage⟩ := changeTerms_stages (fun _ g => { g with ambient := if false then some 0 else none }) s
  rw [endAmbient_view, hv]
  refine sound_of_stages (v := { s.view with phase := .none }) hc hstage fun k => ?_
  obtain ⟨h1, h2, h3, -, h5⟩ := h k
  exact ⟨h1, h2, h3, rfl, h5⟩

/-! ### The lost-station term (R45) -/

/-- The state whose terms an evaluation takes, with the terms other than the lost-station term sound. -/
theorem evaluateLost_sound (hr : s.view.Ready)
    (h : ∀ k : Stage, ∃ l, s.view.Sourced k { s.gain.stages[k] with lost := l }) : s.evaluateLost.view.Sound := by
  unfold State.evaluateLost
  refine changeTerms_sound fun k => ?_
  obtain ⟨l, h1, h2, -, h4, h5⟩ := h k
  exact ⟨h1, h2, lostTerm_view hr k, h4, h5⟩

/-- The terms of `w` but the lost-station term, where the stations, the copy, the book and the limit set may have changed. -/
theorem sourced_unheard {w : View} {k : Stage} (h : w.Sourced k g) (e : Option (Vector Bool 16)) (x : Vector StationState 16)
    (b : Option (List BookRecord)) : ∃ l, View.Sourced { w with enabled := e, states := x, working := b } k { g with lost := l } := by
  obtain ⟨h1, h2, -, h4, h5⟩ := h
  exact ⟨if View.lostHeard { w with enabled := e, states := x, working := b } k then w.gain.cfg.map (fun c => c.lost[k]) else none,
    h1, h2, rfl, h4, h5⟩

theorem exchangeBook_sound (h : s.view.Sound) (hr : s.view.Ready) (b : List BookRecord) : (s.exchangeBook b).view.Sound := by
  unfold State.exchangeBook
  exact evaluateLost_sound hr fun k => sourced_unheard (h k) s.view.enabled s.view.states (some b)

end Sys2Proof.Machine

/-! SUPPORT. A station's state, a pass, the start and the stop as the hard bound's terms see them, and O10. -/

namespace Sys2Proof.Machine

variable {live : Prop} {s t u : State} {v : View}

/-! ### A station's state (R45, R72, R74) -/

/-- R45: the stations that count are the same where LOST is neither entered nor left and the enabled stations that are LOST are the
same. -/
theorem lostHeard_same {w : View} (hg : w.gain = v.gain) (hs : w.set = v.set) (hb : w.working = v.working)
    (h : ∀ st : Station, (w.enabledAt st && decide (w.states[st] = StationState.lost)) =
      (v.enabledAt st && decide (v.states[st] = StationState.lost))) (k : Stage) : w.lostHeard k = v.lostHeard k := by
  have hh : ∀ st : Station, w.hears st k = v.hears st k := fun st => by
    unfold View.hears
    rw [hg, hs, hb]
  unfold View.lostHeard
  refine congrArg (fun f => List.any allStations f) (funext fun st => ?_)
  rw [h st, hh st]

theorem sourced_same {w : View} (hw : w = { v with enabled := w.enabled, states := w.states })
    (h : ∀ st : Station, (w.enabledAt st && decide (w.states[st] = StationState.lost)) =
      (v.enabledAt st && decide (v.states[st] = StationState.lost))) {k : Stage} {g : GainStage} (hg : v.Sourced k g) :
    w.Sourced k g := by
  have hl := lostHeard_same (by rw [hw]) (by rw [hw]) (by rw [hw]) h k
  obtain ⟨h1, h2, h3, h4, h5⟩ := hg
  rw [← hl] at h3
  rw [hw] at h3 ⊢
  exact ⟨h1, h2, h3, h4, h5⟩

/-- A station's state set, in a state whose terms are those of a view `w` that differs in that station's entry alone. -/
theorem setStationState_sound {w : View} {e : Option (Vector Bool 16)} (h : w.Sound) (hs : s.view = { w with enabled := e })
    {st : Station} {x : StationState} (hother : ∀ o, o ≠ st → s.view.enabledAt o = w.enabledAt o)
    (hst : s.view.enabledAt st = w.enabledAt st ∨ x ≠ .lost) (hr : (s.setStationState st x).view.Ready) :
    (s.setStationState st x).view.Sound := by
  have hnote : (s.noteState st x).view = { w with enabled := e, states := upd w.states st x } := by rw [noteState_view, hs]
  have hstates : s.view.states = w.states := by rw [hs]
  rw [setStationState_eq] at hr ⊢
  split at hr
  · next heq =>
    rw [if_pos heq]
    have hiff : s.poller.states[st] = .lost ↔ x = .lost := by
      have := Bool.eq_iff_iff.1 heq
      rwa [beq_iff_eq, beq_iff_eq] at this
    rw [show s.poller.states = w.states from hstates] at hiff
    rw [hnote]
    refine fun k => sourced_same (v := w) rfl (fun o => ?_) (h k)
    have hen : View.enabledAt { w with enabled := e, states := upd w.states st x } o = s.view.enabledAt o := by rw [hs]; rfl
    rw [hen]
    dsimp only
    by_cases ho : o = st
    · subst ho
      rw [upd_same, decide_eq_decide.2 hiff.symm]
      rcases hst with hst | hx
      · exact congrArg (· && _) hst
      · rw [decide_eq_false fun e => hx (hiff.1 e), Bool.and_false, Bool.and_false]
    · rw [upd_other _ _ _ _ ho, hother o ho]
  · next hne =>
    rw [if_neg hne]
    have hready : (s.noteState st x).view.Ready := by
      rw [evaluateLost_view] at hr
      exact (ready_gain _).1 hr
    have hg : (s.noteState st x).gain = w.gain := (noteState_keeps st x s).2.2.2.2.1.trans (congrArg View.gain hs)
    generalize s.noteState st x = n at hready hnote hg ⊢
    refine evaluateLost_sound hready fun k => ?_
    rw [hnote, hg]
    exact sourced_unheard (h k) e (upd w.states st x) w.working

/-! ### A pass (R122 to R125, R134) -/

/-- R125: the entry active and in force. -/
def State.atEntry (e : LimitEntry) (s : State) : State :=
  State.putInForce e.w e.set e.h e.k { s with walker := { s.walker with active := some e } }

/-- R125, R134: the terms of an entry activated. -/
def State.entryTerms (faulted : Bool) (e : LimitEntry) (s : State) (k : Stage) (g : GainStage) : GainStage :=
  { g with
    sched := some e.ceil[k]
    lost := if decide (e.set ≠ s.acc.set) then (s.atEntry e).lostTerm k else g.lost
    fault := if faulted then (s.atEntry e).faultTerm true else g.fault }

theorem activate_eq (cause : PassCause) (b : Bool) (e : LimitEntry) (s : State) :
    s.activate cause b e = ((s.atEntry e).changeTerms (s.entryTerms b e)).postEntryActivated e.index cause := rfl

/-- R45, R134: the lost-station term of an entry activated, given how it stood before, is evaluated afresh if the set moved. -/
theorem entryTerms_lost (b : Bool) (e : LimitEntry) {k : Stage} (hr : s.view.Ready)
    (h : s.gain.stages[k].lost = if s.view.lostHeard k then s.view.gain.cfg.map (fun c => c.lost[k]) else none) :
    (s.entryTerms b e k s.gain.stages[k]).lost =
      if (s.atEntry e).view.lostHeard k then s.view.gain.cfg.map (fun c => c.lost[k]) else none := by
  unfold State.entryTerms
  dsimp only
  split
  · exact lostTerm_view (s := s.atEntry e) hr k
  · next hset =>
    have hs : e.set = s.acc.set := by simpa using hset
    have hl : (s.atEntry e).view.lostHeard k = s.view.lostHeard k :=
      lostHeard_same (w := { s.view with active := some e, set := e.set }) (v := s.view) rfl hs rfl (fun _ => rfl) k
    rw [hl]
    exact h

/-- R122, R125, R134: an entry activated, and the state that the pass then goes to. -/
theorem activate_sound (cause : PassCause) (b : Bool) (e : LimitEntry) {w : WalkerState} (hr : s.view.Ready)
    (hf : ∀ k : Stage, (if b then s.gain.cfg.map GainConfig.fault else s.gain.stages[k].fault) =
      if w = .faulted then s.gain.cfg.map GainConfig.fault else none)
    (h : ∀ k : Stage, ∃ x, s.view.Sourced k { s.gain.stages[k] with fault := x }) :
    ((s.activate cause b e).goTo w).view.Sound := by
  obtain ⟨g, hv, hc, hstage⟩ := changeTerms_stages (s.entryTerms b e) (s.atEntry e)
  rw [goTo_view, activate_eq]
  unfold State.postEntryActivated
  rw [post_view, hv]
  refine sound_of_stages (v := { s.view with active := some e, set := e.set, walker := w }) hc hstage fun k => ?_
  obtain ⟨x, -, -, h3, h4, h5⟩ := h k
  exact ⟨rfl, hf k, entryTerms_lost b e hr h3, h4, h5⟩

end Sys2Proof.Machine

/-! SUPPORT. The passes, the start and the stop as the hard bound's terms see them, and O10. -/

namespace Sys2Proof.Machine

variable {live : Prop} {s t u : State} {v : View}

/-! ### A pass (R122, R134) -/

/-- The terms but the fault ceiling are sound. -/
def View.Unfaulted (v : View) : Prop := ∀ k : Stage, ∃ x, v.Sourced k { v.gain.stages[k] with fault := x }

theorem View.Sound.unfaulted (h : v.Sound) : v.Unfaulted := fun k => ⟨v.gain.stages[k].fault, h k⟩

theorem goTo_sound (h : s.view.Unfaulted) {w : WalkerState} (hf : ∀ k : Stage, s.gain.stages[k].fault =
      if w = .faulted then s.gain.cfg.map GainConfig.fault else none) : (s.goTo w).view.Sound := by
  intro k
  obtain ⟨x, h1, -, h3, h4, h5⟩ := h k
  exact ⟨h1, hf k, h3, h4, h5⟩

theorem takeLast_sound (h : s.view.Unfaulted) (hf : ∀ k : Stage, s.gain.stages[k].fault = none) (hr : s.view.Ready)
    (cause : PassCause) (p : Pass) {w : WalkerState} (hw : w ≠ .faulted) : ((s.takeLast cause p).goTo w).view.Sound := by
  have hnone : ∀ k : Stage, s.gain.stages[k].fault = if w = .faulted then s.gain.cfg.map GainConfig.fault else none :=
    fun k => (hf k).trans (if_neg hw).symm
  unfold State.takeLast
  split
  · next e _ => exact activate_sound cause false e hr hnone h
  · exact goTo_sound h hnone

theorem raiseFault_sound (h : s.view.Unfaulted) : (s.raiseFault.goTo .faulted).view.Sound := by
  unfold State.raiseFault
  obtain ⟨w, hv, hc, hstage⟩ := changeTerms_stages (fun _ g => { g with fault := s.faultTerm true }) s
  rw [goTo_view, hv]
  refine sound_of_stages (v := { s.view with walker := .faulted }) hc hstage fun k => ?_
  obtain ⟨x, h1, -, h3, h4, h5⟩ := h k
  exact ⟨h1, rfl, h3, h4, h5⟩

theorem takeFault_sound (h : s.view.Unfaulted) (hr : s.view.Ready) (cause : PassCause) (starting : Bool) (p : Pass) :
    ((s.takeFault cause starting p).goTo .faulted).view.Sound := by
  unfold State.takeFault
  split
  · next e _ => exact activate_sound cause true e hr (fun _ => rfl) h
  · exact raiseFault_sound h

/-- A pass from a walker whose fault ceiling is gone. -/
theorem endPass_sound (h : s.view.Unfaulted) (hf : ∀ k : Stage, s.gain.stages[k].fault = none) (hr : s.view.Ready)
    (cause : PassCause) (starting : Bool) (found : WalkerState) (p : Pass) :
    (s.endPass cause starting found p).view.Sound := by
  rcases endPass_view cause starting found p s with ⟨w, hw, hv⟩ | hv
  · rw [hv]
    exact takeLast_sound (s := s.countLinks p.links) h hf hr cause p hw
  · rw [hv]
    exact takeFault_sound (s := s.countLinks p.links) h hr cause starting p

theorem dropFault_sound (h : s.view.Sound) (hu : u = s.changeTerms fun _ g => { g with fault := none }) :
    u.view.Unfaulted ∧ ∀ k : Stage, u.gain.stages[k].fault = none := by
  obtain ⟨w, hv, hc, hstage⟩ := changeTerms_stages (fun _ g => { g with fault := none }) s
  rw [← hu] at hv
  refine ⟨?_, fun k => ?_⟩
  · rw [hv]
    intro k
    obtain ⟨a, ha⟩ := hstage k
    obtain ⟨h1, h2, h3, h4, h5⟩ := sourced_gain hc (h k)
    refine ⟨s.gain.stages[k].fault, ?_⟩
    dsimp only
    rw [ha]
    exact ⟨h1, h2, h3, h4, h5⟩
  · show u.view.gain.stages[k].fault = none
    obtain ⟨a, ha⟩ := hstage k
    rw [hv]
    dsimp only
    rw [ha]

/-- R136: a walker that leaves FAULTED takes the fault ceiling with it. -/
theorem leaveFaulted_sound (h : s.view.Sound) :
    s.leaveFaulted.view.Unfaulted ∧ ∀ k : Stage, s.leaveFaulted.gain.stages[k].fault = none := by
  by_cases hw : s.walker.state = .faulted
  · exact dropFault_sound h (if_pos hw)
  · rw [leaveFaulted_of_ne hw]
    exact ⟨h.unfaulted, fun k => (h k).fault.trans (if_neg hw)⟩

theorem leaveFaulted_view (s : State) : s.leaveFaulted.view = { s.view with gain := s.leaveFaulted.gain } := by
  unfold State.leaveFaulted
  split
  · exact changeTerms_view _ s
  · rfl

/-! ### The moves -/

theorem Move.sound (hm : Move live s t) (hs : s.view.Ready) (ht : t.view.Ready) (h : s.view.Sound) : t.view.Sound := by
  cases hm with
  | same hv => rw [hv]; exact h
  | run r _ _ hv => rw [hv]; exact fun k => ⟨(h k).sched, (h k).fault, (h k).lost, (h k).ambient, (h k).immediate⟩
  | mute b => exact setImmediateMute_sound h b
  | hold k v => exact setHold_sound h k v
  | ramp => exact rampAll_sound h
  | measure m hm => exact measure_sound h hm
  | counted m hs hm => exact counted_sound h hs hm
  | unmute => exact unmute_sound h
  | exchange b => exact exchangeBook_sound h hs b
  | round p hc hp hst =>
    rw [withRound_view hc hp hst]
    exact fun k => ⟨(h k).sched, (h k).fault, (h k).lost, (h k).ambient, (h k).immediate⟩
  | station st v => exact setStationState_sound h rfl (fun _ _ => rfl) (.inl rfl) ht
  | entry st e v hu hv =>
    rw [putEntry_moves] at hu
    refine setStationState_sound h hu (fun o ho => ?_) (.inr hv) ht
    rw [hu]
    unfold View.enabledAt
    have he : s.view.enabled = s.poller.copy.map fun c => c.map StationEntry.enabled := rfl
    rw [he]
    dsimp only
    cases s.poller.copy with
    | none => rfl
    | some copy =>
      have hget : (upd copy st e)[o] = copy[o] := upd_other _ _ _ _ ho
      simpa using congrArg StationEntry.enabled hget
  | pass cause found p =>
    obtain ⟨h1, h2⟩ := leaveFaulted_sound h
    refine endPass_sound h1 h2 ?_ cause false found p
    rw [leaveFaulted_view]
    exact (ready_gain _).2 hs

end Sys2Proof.Machine

/-! SUPPORT. O10: the stop, the start and the resets as the hard bound's terms see them. -/

namespace Sys2Proof.Machine

variable {live : Prop} {s t u : State} {v : View}

/-- With no station LOST no lost-station term is present. -/
theorem View.Sourced.unlost {k : Stage} {g : GainStage} (h : v.Sourced k g) (hv : v.Unlost) : g.lost = none := by
  have hl := h.lost
  rw [hv.lostHeard k] at hl
  exact hl

/-! ### The stop (R54, R75, R154) -/

/-- What a stop's work keeps for the immediate mute and for the measurement. -/
structure KeepsMute (s t : State) : Prop where
  immediate : ∀ k : Stage, t.gain.stages[k].immediate = s.gain.stages[k].immediate
  phase : s.acc.ambient.phase = .none → t.acc.ambient.phase = .none

theorem KeepsMute.refl (s : State) : KeepsMute s s := ⟨fun _ => rfl, id⟩

theorem KeepsMute.trans (h : KeepsMute s t) (g : KeepsMute t u) : KeepsMute s u :=
  ⟨fun k => (g.immediate k).trans (h.immediate k), fun hp => g.phase (h.phase hp)⟩

theorem KeepsMute.of_eq (hg : t.gain = s.gain) (hp : t.acc.ambient.phase = s.acc.ambient.phase) : KeepsMute s t :=
  ⟨fun _ => by rw [hg], fun h => hp.trans h⟩

theorem KeepsMute.of_view (h : t.view = s.view) : KeepsMute s t := .of_eq (gain_of_view h) (congrArg View.phase h)

theorem changeTerms_keepsMute (f : Stage → GainStage → GainStage) (hf : ∀ k g, (f k g).immediate = g.immediate) (s : State) :
    KeepsMute s (s.changeTerms f) := by
  refine ⟨fun k => ?_, fun h => ?_⟩
  · rw [changeTerms_stage]
    exact hf k _
  · rw [(changeTerms_keeps f s).2.2.2.1]
    exact h

theorem evaluateLost_keepsMute (s : State) : KeepsMute s s.evaluateLost := by
  unfold State.evaluateLost
  refine changeTerms_keepsMute _ ?_ s
  exact fun _ _ => rfl

theorem noteState_keepsMute (st : Station) (x : StationState) (s : State) : KeepsMute s (s.noteState st x) := by
  obtain ⟨-, -, -, hacc, hgain, -⟩ := noteState_keeps st x s
  exact .of_eq hgain (by rw [hacc])

theorem setStationState_keepsMute (st : Station) (x : StationState) (s : State) : KeepsMute s (s.setStationState st x) := by
  rw [setStationState_eq]
  split
  · exact noteState_keepsMute st x s
  · exact (noteState_keepsMute st x s).trans (evaluateLost_keepsMute _)

theorem takeOutcome_keepsMute (st : Station) (o : SecondOutcome) (s : State) : KeepsMute s (s.takeOutcome st o) := by
  cases h : s.acc.advanced[st] with
  | true => rw [takeOutcome_of_advanced h]; exact .refl s
  | false =>
    rw [takeOutcome_eq h]
    exact (KeepsMute.of_view (storeOutcome_view s st o)).trans (setStationState_keepsMute _ _ _)

theorem handMissing_keepsMute (sts : List Station) (s : State) : KeepsMute s (s.handMissing sts) :=
  foldl_preserves (KeepsMute s) _ (fun t st ht => ht.trans (takeOutcome_keepsMute st .missing t)) sts s (.refl s)

theorem stopRound_keepsMute (s : State) : KeepsMute s s.stopRound := by
  have h0 : KeepsMute s { s with poller := { s.poller with exch := none, probe := none, probeDue := [], todo := [] } } :=
    .of_eq rfl rfl
  unfold State.stopRound
  dsimp only
  generalize ({ s with poller := { s.poller with exch := none, probe := none, probeDue := [], todo := [] } } : State) = v at h0 ⊢
  split
  · have h1 := (h0.trans (handMissing_keepsMute s.poller.unresolved v)).trans (.of_view (advanceRest_view _))
    generalize (State.handMissing s.poller.unresolved v).advanceRest = w at h1 ⊢
    exact h1.trans (.of_eq rfl rfl)
  · exact h0

theorem setAmbientMute_keepsMute (b : Bool) (s : State) : KeepsMute s (s.setAmbientMute b) := by
  unfold State.setAmbientMute
  refine changeTerms_keepsMute _ ?_ s
  exact fun _ _ => rfl

theorem endAmbient_keepsMute (s : State) : KeepsMute s s.endAmbient := ⟨fun _ => rfl, fun _ => rfl⟩

/-- R154: the stop leaves no measurement. -/
theorem stopAmbient_keepsMute (s : State) : KeepsMute s s.stopAmbient ∧ s.stopAmbient.acc.ambient.phase = .none := by
  unfold State.stopAmbient State.abortAmbient
  split
  · dsimp only
    refine ⟨?_, rfl⟩
    have h1 := (setAmbientMute_keepsMute false s).trans (.of_view (complete_view _ s.acc.ambient.slot
      (ambientResults 2 s.acc.ambient.settled s.acc.ambient.measured 0)))
    exact h1.trans (endAmbient_keepsMute _)
  · next hn =>
    have hp : s.acc.ambient.phase = .none := by simpa [Ambient.inFlight] using hn
    exact ⟨.refl s, hp⟩

theorem stopStations_keepsMute (s : State) : KeepsMute s s.stopStations := by
  obtain ⟨-, -, -, hgain, -⟩ := stopStations_keeps s
  exact .of_eq hgain (by rw [stopStations_acc]; rfl)

theorem stoppedWork_keepsMute (s : State) : KeepsMute s s.stoppedWork ∧ s.stoppedWork.acc.ambient.phase = .none := by
  obtain ⟨h1, hp⟩ := stopAmbient_keepsMute s
  have h2 : KeepsMute s.stopAmbient s.stoppedWork := by
    unfold State.stoppedWork
    exact (((stopRound_keepsMute _).trans (.of_view (stopTest_view _))).trans (.of_view (stopMinute_view _))).trans
      (stopStations_keepsMute _)
  exact ⟨h1.trans h2, h2.phase hp⟩

theorem stopShow_sound (h : s.view.Sound) : s.stopShow.view.Sound := by
  obtain ⟨hmute, hphase⟩ := stoppedWork_keepsMute s.toIdle
  obtain ⟨-, -, hstates⟩ := stoppedWork_over s.toIdle
  obtain ⟨krun, -⟩ := stoppedWork_keeps s.toIdle
  obtain ⟨vrun, -, -, vacc, vpoll, -⟩ := stopped_keeps s
  have hstage := stopped_stage s
  obtain ⟨r, n, ht⟩ := stopShow_of (s := s) rfl
  rw [ht]
  generalize s.stopped = w at *
  generalize s.toIdle.stoppedWork = z at *
  intro k
  have hlost : View.Unlost ({ w with ram := r, notices := n, walker := w.walker.stop } : State).view := by
    show ∀ st : Station, w.poller.states[st] ≠ .lost
    rw [vpoll]
    exact hstates
  refine ⟨?_, ?_, ?_, ?_, ?_⟩
  · show w.gain.stages[k].sched = _
    rw [hstage]
    rfl
  · show w.gain.stages[k].fault = _
    rw [hstage]
    rfl
  · rw [hlost.lostHeard]
    show w.gain.stages[k].lost = _
    rw [hstage]
    rfl
  · show w.gain.stages[k].ambient = if w.acc.ambient.phase = .none then none else some 0
    rw [hstage, vacc, if_pos hphase]
    rfl
  · show w.gain.stages[k].immediate = if w.run.muteBit then some 0 else none
    rw [hstage, vrun, krun]
    exact (hmute.immediate k).trans (h k).immediate

/-! ### The start (R53, R60, R128, R164) -/

theorem startLinks_view (cfg : LinkConfig) (s : State) : (s.startLinks cfg).view = { s.view with linkCfg := true } := by
  unfold State.startLinks
  refine (forStages_keeps State.view _ (fun k t => ?_) { s with links := { s.links with cfg := some cfg } }).trans rfl
  rw [reevaluateLink_view, modLink_view]

theorem startWriters_view (c : StartConfig) (s : State) : (s.startWriters c).view = s.view := view_of

theorem configured_view (d : StartData) (s : State) :
    (s.configured d).view =
      { s.view with
        gain := { s.view.gain with cfg := some d.config.gain }
        enabled := some (d.copy.map StationEntry.enabled), timing := true, linkCfg := true, working := some d.book } := by
  have h : (s.takeConfig d).view = { (s.withConfig d).view with linkCfg := true } := by
    rw [takeConfig_eq, startWriters_view, startLinks_view]
  have hb : (s.configured d).view = { (s.takeConfig d).view with working := some d.book } := by
    unfold State.configured
    generalize s.takeConfig d = u
    rfl
  rw [hb, h]
  rfl

theorem handStart_view (k : Stage) (s : State) : (s.handStart k).view = s.view := by
  unfold State.handStart
  rw [stageConditions_view, logClip_view, modLink_view]

theorem startGain_view (s : State) : s.startGain.view = { s.view with gain := s.startStages.gain } := by
  rw [startGain_eq]
  exact forStages_keeps State.view _ handStart_view s.startStages

/-- Where no station is LOST and the walker is UNSTARTED, no term but the mutes is present, whatever configuration values are taken. -/
theorem startGain_sound (h : s.view.Sound) (hl : s.view.Unlost) (hw : s.walker.state = .unstarted) (d : StartData) :
    (s.configured d).startGain.view.Unfaulted ∧ (∀ k : Stage, (s.configured d).startGain.gain.stages[k].fault = none) ∧
      (s.configured d).startGain.view.Unlost := by
  have hgain : (s.configured d).gain = { s.gain with cfg := some d.config.gain } := (configured_configured d s).gain
  have hstage : ∀ k : Stage, (s.configured d).startStages.gain.stages[k] = s.gain.stages[k].start := fun k => by
    unfold State.startStages
    rw [hgain]
    exact ofFn_get _ k
  have hg : (s.configured d).startGain.gain = (s.configured d).startStages.gain := (startGain_fields _).1
  have hfault : ∀ k : Stage, s.gain.stages[k].fault = none := fun k => (h k).fault.trans (if_neg (by
    show s.walker.state ≠ .faulted
    rw [hw]
    decide))
  have hlost : View.Unlost (s.configured d).startGain.view := by
    rw [startGain_view, configured_view]
    generalize (s.configured d).startStages.gain = w
    exact hl
  refine ⟨fun k => ?_, fun k => ?_, hlost⟩
  · have hlk := (h k).unlost hl
    obtain ⟨h1, -, -, h4, h5⟩ := h k
    rw [startGain_view, configured_view] at hlost ⊢
    generalize (s.configured d).startStages.gain = w at hstage hlost ⊢
    dsimp only
    rw [hstage]
    refine ⟨_, h1, rfl, ?_, h4, h5⟩
    rw [hlost.lostHeard]
    exact hlk
  · rw [hg, hstage]
    exact hfault k

theorem startPriming_view (s : State) : s.startPriming.view = s.view := by
  rw [startPriming_eq]
  refine (forStations_keeps State.view (State.primeDue s.acc.primePending) (fun st t => ?_) s)
  unfold State.primeDue
  split
  · exact prime_view t st
  · rfl

/-- R60: with no station LOST before and none after, the stations' states given at the start change no term. -/
theorem startStations_sound (h : s.view.Sound) (hl : s.view.Unlost) : s.startStations.view.Sound := by
  have hnew : s.startStations.view.Unlost := fun st => by
    show (Vector.ofFn fun st : Fin 16 => if s.enabledStation st then StationState.unknown else .disabled)[st] ≠ _
    rw [ofFn_get]
    split <;> decide
  refine fun k => sourced_same (v := s.view) rfl (fun st => ?_) (h k)
  rw [decide_eq_false (hnew st), decide_eq_false (hl st), Bool.and_false, Bool.and_false]

theorem started_sound (h : s.view.Sound) (hl : s.view.Unlost) (hw : s.walker.state = .unstarted) (d : StartData) :
    (s.started d).view.Sound := by
  obtain ⟨h1, h2, h3⟩ := startGain_sound h hl hw d
  unfold State.started
  generalize (s.configured d).startGain = u at h1 h2 h3 ⊢
  have hpoll : (u.startWalker d).poller = u.poller := (startWalker_keeps d u).2.2.2.1
  have h4 : (u.startWalker d).view.Sound :=
    endPass_sound (s := { u with walker := { u.walker with watch := d.config.watch } }) h1 h2 (.inr h3) _ _ _ _
  have h5 : (u.startWalker d).view.Unlost := by
    show ∀ st : Station, (u.startWalker d).poller.states[st] ≠ .lost
    rw [hpoll]
    exact h3
  generalize u.startWalker d = z at h4 h5 ⊢
  rw [← startPriming_view] at h4 h5
  exact startStations_sound h4 h5

theorem succeedStart_sound (h : s.view.Sound) (hl : s.view.Unlost) (hw : s.walker.state = .unstarted) (d : StartData) :
    (s.succeedStart d).view.Sound := by
  have h1 := started_sound h hl hw d
  obtain ⟨r, n, c, ht, -⟩ := succeedStart_of d (s := s) rfl
  rw [ht]
  generalize s.started d = v at h1 ⊢
  exact fun k => ⟨(h1 k).sched, (h1 k).fault, (h1 k).lost, (h1 k).ambient, (h1 k).immediate⟩

/-! ### The resets -/

theorem softReset_sound (s : State) : s.softReset.view.Sound := by
  have hl : s.softReset.view.Unlost := (softReset_over s).2.2
  have hw : s.softReset.walker = .reset := (postRunState_keeps _ _).2.2.2.2.2.2.2.1
  have hp : s.softReset.acc.ambient.phase = .none := by
    unfold State.softReset
    rw [(postRunState_keeps _ _).2.2.2.1]
    rfl
  have hm : s.softReset.run.muteBit = false := by
    unfold State.softReset
    rw [(postRunState_keeps _ _).1]
  have hg : s.softReset.gain = { stages := Vector.replicate 4 .reset, cfg := none } := gain_of_view (post_view _ _ _ _)
  intro k
  have hk : s.softReset.view.gain.stages[k] = GainStage.reset := by
    show s.softReset.gain.stages[k] = _
    rw [hg]
    exact replicate_get _ _
  rw [hk]
  refine ⟨?_, ?_, ?_, ?_, ?_⟩
  · show _ = s.softReset.walker.active.map fun e => e.ceil[k]
    rw [hw]
    rfl
  · show _ = if s.softReset.walker.state = .faulted then _ else none
    rw [hw]
    rfl
  · rw [hl.lostHeard]
    rfl
  · exact (if_pos hp).symm
  · show _ = if s.softReset.run.muteBit then some 0 else none
    rw [hm]
    rfl

theorem assertReset_sound (s : State) : s.assertReset.view.Sound := by
  have hl : s.assertReset.view.Unlost := (assertReset_over s).2.2
  intro k
  have hk : s.assertReset.view.gain.stages[k] = GainStage.reset := replicate_get _ _
  rw [hk]
  refine ⟨rfl, rfl, ?_, rfl, rfl⟩
  rw [hl.lostHeard]
  rfl

/-! ### Every step -/

/-- Along the moves of a show one runs, and along those outside one no station is LOST. -/
theorem Moves.sound (hover : s.run.state ≠ .running → s.Over) (h : s.view.Sound) (hm : Moves (s.run.state = .running) s t) :
    t.view.Sound := by
  have hready : ∀ {u}, Moves (s.run.state = .running) s u → u.view.Ready := fun {u} hu => by
    by_cases hr : s.run.state = .running
    · exact .inl (hu.running.2 hr)
    · exact .inr (hu.over hr (hover hr)).2.2
  induction hm with
  | refl => exact h
  | tail hu hx ih => exact hx.sound (hready hu) (hready (hu.trans hx.moves)) ih

theorem Stride.sound (hx : Stride (s.run.state = .running) s t) (hover : s.run.state ≠ .running → s.Over)
    (hw : s.run.state ≠ .running → s.walker.state = .unstarted) (h : s.view.Sound) : t.view.Sound := by
  cases hx with
  | moved hm => exact hm.sound hover h
  | stopped hm => exact stopShow_sound (hm.sound hover h)
  | started d hs =>
    have hr : s.run.state ≠ .running := by rw [hs]; decide
    exact succeedStart_sound h (hover hr).2.2 (hw hr) d
  | cleared => exact softReset_sound s
  | reset => exact assertReset_sound s

/-- Settles O10: each event that moves a cause changes the term with it, and the stop, the start and the resets find or leave no term
but the immediate mute's. -/
theorem stepKeepsHardBoundTerms : Obligations.StepKeepsHardBoundTerms := by
  unfold Obligations.StepKeepsHardBoundTerms
  intro s t hwalk _ hover hterms ht
  obtain ⟨u, hu, hx⟩ := step_stride (ShowOver_busy hover) ht
  have hr : u.run.state = s.run.state := congrArg View.state hu
  have hw : u.walker.state = s.walker.state := congrArg View.walker hu
  rw [← hr] at hx
  rw [termsSound_iff] at hterms ⊢
  refine hx.sound ((showOver_view hu).2 hover) (fun hn => ?_) (by rw [hu]; exact hterms)
  rw [hr] at hn
  rw [hw]
  by_contra hne
  exact hn (hwalk.1.2 hne)

end Sys2Proof.Machine

/-! SUPPORT. O55: the allowance, the band demand and the stage demand as the rules write them, over the integers. -/

namespace Sys2Proof.Machine

theorem clampInt_cast (b : Nat) (x : Int) : (clampInt b x : Int) = max 0 (min (b : Int) x) := by
  unfold clampInt
  omega

/-- R30: the drawn balance over the integers. -/
theorem drawnBalance_eq (s n pLim pAmb : Nat) :
    drawnBalance s n pLim pAmb = (n : Int) * pLim - max 0 ((s : Int) - n * pAmb) := by
  have hsub : ((s - n * pAmb : Nat) : Int) = max 0 ((s : Int) - n * pAmb) := by
    rw [← Nat.cast_mul]
    omega
  unfold drawnBalance musicAccount
  rw [hsub, Nat.cast_mul]

/-- R32. -/
theorem allowance_cast (d : Int) (pLim h k : Nat) :
    (allowance d pLim h k : Int) = max 0 (min ((k : Int) * pLim) (pLim + d / (h : Int))) := by
  unfold allowance
  rw [clampInt_cast, Nat.cast_mul, Int.fdiv_eq_ediv_of_nonneg _ (Int.natCast_nonneg h)]

/-- R32: with nothing drawn the allowance is the limit power. -/
theorem allowance_zero (pLim h : Nat) {k : Nat} (hk : 1 ≤ k) : allowance 0 pLim h k = pLim := by
  have hle : pLim ≤ k * pLim := Nat.le_mul_of_pos_left _ hk
  unfold allowance clampInt
  rw [Int.zero_fdiv, add_zero, Int.toNat_natCast]
  exact Nat.min_eq_right hle

/-- R33: the demand of a band in which music is heard. -/
theorem bandDemand_cast {allow m : Nat} (h : 0 < m) : (bandDemand allow m : Int) = min 4096 (4096 * (allow : Int) / m) := by
  unfold bandDemand
  rw [if_neg (Nat.pos_iff_ne_zero.1 h), Nat.cast_min, Int.natCast_ediv, Nat.cast_mul]
  rfl

/-- R36: the stage demand of a station with a reducible share. -/
theorem stageDemand_cast {cr : Nat} (h : 0 < cr) (qs : Nat) :
    (stageDemand qs cr : Int) = max 0 (min 4096 ((256 * (qs : Int) - (256 - (cr : Int)) * 4096) / (cr : Int))) := by
  unfold stageDemand
  rw [if_neg (Nat.pos_iff_ne_zero.1 h), clampInt_cast, Int.fdiv_eq_ediv_of_nonneg _ (Int.natCast_nonneg cr)]
  rfl

/-- R36: a station whose demand is full asks its stages for no reduction. -/
theorem stageDemand_full (cr : Nat) : stageDemand 4096 cr = 4096 := by
  rcases Nat.eq_zero_or_pos cr with h | h
  · exact if_pos h
  · have hz : (256 * ((4096 : Nat) : Int) - (256 - (cr : Int)) * 4096) / (cr : Int) = 4096 := by
      have hnum : 256 * ((4096 : Nat) : Int) - (256 - (cr : Int)) * 4096 = 4096 * (cr : Int) := by
        push_cast
        ring
      rw [hnum]
      exact Int.mul_ediv_cancel _ (by omega)
    have hc := stageDemand_cast h 4096
    rw [hz] at hc
    exact Int.ofNat_inj.1 hc

/-- R30 to R33: the stages 1 to 3 of a band. -/
theorem compute_band (b : BandAccount) (n eNew pLim pAmb h : Nat) {k : Nat} (hk : 1 ≤ k) :
    let d : Int := (n : Int) * pLim - max 0 ((b.s : Int) - n * pAmb)
    let m : Int := max 0 ((eNew : Int) - pAmb)
    let r := b.compute n eNew pLim pAmb h k
    (r.allow : Int) = max 0 (min ((k : Int) * pLim) (pLim + d / (h : Int))) ∧
      (d = 0 → r.allow = pLim) ∧ (r.overdrawn = true ↔ d < 0) ∧ r.pLim = pLim ∧ r.pAmb = pAmb ∧ r.s = b.s ∧
      (m = 0 → r.q = 4096) ∧ (0 < m → (r.q : Int) = min 4096 (4096 * (r.allow : Int) / m)) := by
  have hm : max 0 ((eNew : Int) - pAmb) = ((eNew - pAmb : Nat) : Int) := by omega
  intro d m r
  have hd : d = drawnBalance b.s n pLim pAmb := (drawnBalance_eq b.s n pLim pAmb).symm
  have hallow : r.allow = allowance d pLim h k := by rw [hd]; rfl
  have hq : r.q = bandDemand r.allow (eNew - pAmb) := rfl
  have hover : r.overdrawn = decide (d < 0) := by rw [hd]; rfl
  rw [show m = ((eNew - pAmb : Nat) : Int) from hm]
  refine ⟨?_, fun h0 => ?_, ?_, rfl, rfl, rfl, fun h0 => ?_, fun hpos => ?_⟩
  · rw [hallow]
    exact allowance_cast d pLim h k
  · rw [hallow, h0]
    exact allowance_zero pLim h hk
  · rw [hover, decide_eq_true_iff]
  · rw [hq]
    exact if_pos (Int.ofNat_eq_zero.1 h0)
  · rw [hq]
    exact bandDemand_cast (Int.natCast_pos.1 hpos)

/-- Settles O55. -/
theorem allowanceAndDemands : Obligations.AllowanceAndDemands := by
  unfold Obligations.AllowanceAndDemands
  refine ⟨fun b n eNew pLim pAmb h k _ hk => compute_band b n eNew pLim pAmb h hk, fun qs cr _ _ => ⟨fun h => if_pos h, fun h => ?_, ?_⟩⟩
  · exact stageDemand_cast h qs
  · exact stageDemand_full cr

end Sys2Proof.Machine

/-! SUPPORT. A change of terms seen whole (R41, R48, R93): the ceilings, the links, the RAM and the log; and O24. -/

namespace Sys2Proof.Machine

variable {s t u : State}

/-! ### The links (R48, R93) -/

/-- R93: a hard drop in RUNNING is a new command. -/
theorem hardDrop_carries {l : Link} (h : l.state ≠ .disabled) (hh : l.hold = false) (k : Stage) (v : Nat) :
    l.Carries (l.hardDrop true k v) v := by
  have he : l.hardDrop true k v = l.clear.begin k v := by
    unfold Link.hardDrop
    rw [if_neg h, hh]
    rfl
  rw [he]
  exact ⟨⟨_, rfl, rfl, rfl, rfl⟩, rfl, rfl⟩

/-- R48: the ceiling and the link of a stage through a clip. -/
def clipped (running : Bool) (k : Stage) (x : GainStage × Link) : GainStage × Link :=
  ({ x.1 with applied := min x.1.applied x.1.bound },
    if x.1.bound < x.1.applied then x.2.hardDrop running k x.1.bound else x.2)

theorem clipStage_line (k j : Stage) (s : State) :
    (s.clipStage k).links.lines[j] =
      if j = k ∧ s.gain.stages[k].bound < s.gain.stages[k].applied then
        s.links.lines[k].hardDrop (s.run.state == .running) k s.gain.stages[k].bound
      else s.links.lines[j] := by
  by_cases h : s.gain.stages[k].bound < s.gain.stages[k].applied
  · have hl : (s.clipStage k).links = (s.hardDrop k s.gain.stages[k].bound).links := by
      unfold State.clipStage
      dsimp only
      rw [if_pos h]
      exact (stageConditions_keeps _ _).2.2.2.2.2.2.1.trans (logClip_keeps _ _ _).2.2.2.2.2.2.2.1
    rw [hl]
    unfold State.hardDrop
    rw [modLink_line]
    simp only [h, and_true]
  · rw [if_neg fun e => h e.2, clipStage_of_le (Nat.not_lt.1 h)]

theorem clipStage_clipped (k j : Stage) (s : State) :
    ((s.clipStage k).gain.stages[j], (s.clipStage k).links.lines[j]) =
      if j = k then clipped (s.run.state == .running) k (s.gain.stages[k], s.links.lines[k])
      else (s.gain.stages[j], s.links.lines[j]) := by
  rw [clipStage_gain, clipStage_line]
  dsimp only
  rw [upd_get]
  by_cases h : j = k
  · subst h
    simp only [true_and, if_true]
    rfl
  · rw [if_neg h, if_neg h, if_neg fun e => h e.1]

/-- R41, R93: in an event that changes terms a stage's link takes the fall of its ceiling, if it falls, as a hard drop. -/
theorem changeTerms_line (f : Stage → GainStage → GainStage) (s : State) (k : Stage) :
    (s.changeTerms f).links.lines[k] =
      if (f k s.gain.stages[k]).bound < (f k s.gain.stages[k]).applied then
        s.links.lines[k].hardDrop (s.run.state == .running) k (f k s.gain.stages[k]).bound
      else s.links.lines[k] := by
  have h : ((s.changeTerms f).gain.stages[k], (s.changeTerms f).links.lines[k]) =
      clipped (s.run.state == .running) k (f k s.gain.stages[k], s.links.lines[k]) := by
    unfold State.changeTerms
    generalize hv : ({ s with gain := { s.gain with stages := Vector.ofFn fun k : Fin 4 => f k s.gain.stages[k] } } : State) = v
    have hrun : v.run = s.run := by rw [← hv]
    have hstage : v.gain.stages[k] = f k s.gain.stages[k] := by
      rw [← hv]
      exact ofFn_get _ k
    have hline : v.links.lines[k] = s.links.lines[k] := by rw [← hv]
    rw [← hstage, ← hline, ← hrun]
    exact forStages_each (fun t => t.run = v.run) (fun k t ht => ((clipStage_keeps k t).1).trans ht)
      (fun t k => (t.gain.stages[k], t.links.lines[k])) (clipped (v.run.state == .running))
      (fun k t ht => by rw [clipStage_clipped, if_pos rfl, ht]) (fun k j t _ hj => by rw [clipStage_clipped, if_neg hj]) rfl k
  exact (Prod.mk.inj h).2

/-- R48: a stage whose ceiling stands at or below its new bound keeps its link. -/
theorem changeTerms_line_kept {f : Stage → GainStage → GainStage} {k : Stage}
    (h : (f k s.gain.stages[k]).applied ≤ (f k s.gain.stages[k]).bound) : (s.changeTerms f).links.lines[k] = s.links.lines[k] := by
  rw [changeTerms_line, if_neg (Nat.not_lt.2 h)]

/-- R93: in RUNNING a ceiling that falls goes out as a new command. -/
theorem changeTerms_carries {f : Stage → GainStage → GainStage} {k : Stage}
    (h : (f k s.gain.stages[k]).bound < (f k s.gain.stages[k]).applied) (hr : s.run.state = .running)
    (hd : s.links.lines[k].state ≠ .disabled) (hh : s.links.lines[k].hold = false) :
    s.links.lines[k].Carries (s.changeTerms f).links.lines[k] (f k s.gain.stages[k]).bound := by
  rw [changeTerms_line, if_pos h, hr]
  exact hardDrop_carries hd hh k _

/-- R93: in RUNNING a ceiling clipped to 0 goes out as a new command. -/
theorem changeTerms_silences {f : Stage → GainStage → GainStage} {k : Stage} (hz : (f k s.gain.stages[k]).bound = 0)
    (h : 0 < (f k s.gain.stages[k]).applied) (hr : s.run.state = .running)
    (hd : s.links.lines[k].state ≠ .disabled) (hh : s.links.lines[k].hold = false) :
    s.links.lines[k].Carries (s.changeTerms f).links.lines[k] 0 := by
  have hc := changeTerms_carries (s := s) (f := f) (k := k) (by rw [hz]; exact h) hr hd hh
  rwa [hz] at hc

/-! ### The RAM and the log -/

/-- The RAM is canonical and holds what `m` held but for the notice queue, and the log's write index is `i`. -/
structure Noticed (m : Memory) (i : BitVec 10) (s : State) : Prop where
  wf : s.ram.wf = true
  keeps : keepsOutside inNoticeQueue m s.ram
  writeIdx : s.log.writeIdx = i

namespace Noticed

variable {m : Memory} {i : BitVec 10}

theorem refl (h : s.ram.wf = true) : Noticed s.ram s.log.writeIdx s := ⟨h, keepsOutside_refl _ _, rfl⟩

theorem congr (h : Noticed m i s) (hr : t.ram = s.ram := by simp) (hl : t.log.writeIdx = s.log.writeIdx := by simp) :
    Noticed m i t :=
  ⟨by rw [hr]; exact h.wf, by rw [hr]; exact h.keeps, hl.trans h.writeIdx⟩

theorem post (h : Noticed m i s) (kind sub detail : Nat) : Noticed m i (s.post kind sub detail) :=
  ⟨wf_post h.wf kind sub detail,
    keepsOutside_trans h.keeps (keeps_post h.wf kind sub detail) (fun _ ha => ha) fun _ ha => inNextNotice_queue ha,
    by rw [← h.writeIdx]; simp⟩

theorem report (h : Noticed m i s) (cls : CondClass) (sub : Fin 16) (now : Bool) (v : Nat) : Noticed m i (s.report cls sub now v) := by
  unfold State.report
  split
  · exact h
  · dsimp only
    split
    · refine Noticed.post ?_ _ _ _
      exact h.congr rfl rfl
    · exact h.congr rfl rfl

theorem stageConditions (h : Noticed m i s) (k : Stage) : Noticed m i (s.stageConditions k) := by
  unfold State.stageConditions
  dsimp only
  split
  · exact (h.report _ _ _ _).report _ _ _ _
  · exact (h.report _ _ _ _).report _ _ _ _

theorem clipStage (h : Noticed m i s) (k : Stage) : Noticed m i (s.clipStage k) := by
  unfold State.clipStage
  dsimp only
  split
  · have h1 : Noticed m i (s.setGain k { s.gain.stages[k] with applied := s.gain.stages[k].bound }) := h.congr rfl rfl
    have h2 := h1.congr (t := (s.setGain k { s.gain.stages[k] with applied := s.gain.stages[k].bound }).hardDrop k s.gain.stages[k].bound)
      rfl rfl
    have h3 : ∀ (u : State) (v : Nat), Noticed m i u → Noticed m i (u.logClip k v) := fun u v hu => hu.congr
    exact (h3 _ _ h2).stageConditions k
  · exact h

theorem changeTerms (h : Noticed m i s) (f : Stage → GainStage → GainStage) : Noticed m i (s.changeTerms f) :=
  forStages_preserves (Noticed m i) _ (fun k _ ht => ht.clipStage k) _ (h.congr rfl rfl)

end Noticed

/-! ### The mutes -/

/-- A term of 0 takes the bound to 0. -/
theorem bound_zero {g : GainStage} (h : g.ambient = some 0 ∨ g.immediate = some 0) : g.bound = 0 :=
  Nat.le_zero.1 ((bound_le g).2 0 ((mem_terms_iff g 0).2 (by tauto)))

/-- A clip to a bound of 0. -/
theorem min_of_bound_zero {g : GainStage} (h : g.bound = 0) : min g.applied g.bound = 0 := by rw [h, Nat.min_zero]

/-! ### O24: CONTROL.IMMEDIATE_MUTE (R47, R160) -/

/-- The state with IMMEDIATE_MUTE as given. -/
def State.withMute (b : Bool) (s : State) : State := { s with run := { s.run with muteBit := b } }

theorem immediateMute_exec {high : Half} {b : Bool} (hr : s.run.state ≠ .resetBusy)
    (hw : s.WritesControl high s.run.runBit b s.run.intBit) (hb : b ≠ s.run.muteBit) :
    exec (.immediateMute high) s = .next ((s.withMute b).setImmediateMute b) := by
  obtain ⟨hsoft, hrun, hmute, hint⟩ := hw
  have hm : s.writeMute b = (s.withMute b).setImmediateMute b := if_neg hb
  have hkeep : ((s.withMute b).setImmediateMute b).run = { s.run with muteBit := b } := (setImmediateMute_keeps b _).1
  have hi : ((s.withMute b).setImmediateMute b).writeIntEnable s.run.intBit = (s.withMute b).setImmediateMute b :=
    if_pos (by rw [hkeep])
  have hn : ((s.withMute b).setImmediateMute b).writeRun s.run.runBit = (s.withMute b).setImmediateMute b :=
    if_pos (by rw [hkeep])
  have hc : s.writeControl (s.written high) = (s.withMute b).setImmediateMute b := by
    unfold State.writeControl
    rw [if_neg (by simp [hsoft]), hmute, hint, hrun, hm, hi, hn]
  exact congrArg Host.Outcome.next ((if_neg hr).trans hc)

/-- R48: the removal of a stage's immediate-mute term raises no bound above what it was. -/
theorem bound_le_unsilenced (g : GainStage) : g.bound ≤ ({ g with immediate := none } : GainStage).bound := by
  refine bound_le_of_terms fun x hx => ?_
  rw [mem_terms_iff] at hx ⊢
  simp only [reduceCtorEq, or_false] at hx
  tauto

theorem setImmediateMute_false (h : ceilingsBounded s.gain.stages) :
    s.setImmediateMute false =
      { s with gain := { s.gain with stages := Vector.ofFn fun k : Fin 4 => { s.gain.stages[k] with immediate := none } } } :=
  changeTerms_unclipped fun k => (h k).trans (bound_le_unsilenced _)

/-- R47: a stage with the immediate-mute term. -/
theorem setImmediateMute_true (s : State) (k : Stage) :
    (s.setImmediateMute true).gain.stages[k] = { s.gain.stages[k] with immediate := some 0, applied := 0 } := by
  unfold State.setImmediateMute
  rw [changeTerms_stage, min_of_bound_zero (bound_zero (by simp))]
  rfl

theorem setImmediateMute_carries {k : Stage} (h : 0 < s.gain.stages[k].applied) (hr : s.run.state = .running)
    (hd : s.links.lines[k].state ≠ .disabled) (hh : s.links.lines[k].hold = false) :
    s.links.lines[k].Carries (s.setImmediateMute true).links.lines[k] 0 := by
  unfold State.setImmediateMute
  exact changeTerms_silences (bound_zero (by simp)) h hr hd hh

/-- Settles O24. -/
theorem immediateMuteClips : Obligations.ImmediateMuteClips := by
  unfold Obligations.ImmediateMuteClips
  intro s high hr
  constructor
  · intro hm hw
    obtain ⟨hrun, hclock, hregs, hacc, hpoll, hwalk, hbook, hscan, -⟩ := setImmediateMute_keeps true (s.withMute true)
    exact ⟨_, immediateMute_exec hr hw (by simp [hm]), hrun, fun k => setImmediateMute_true (s.withMute true) k,
      fun k ha hs hd hh => setImmediateMute_carries (s := s.withMute true) ha hs hd hh, hclock, hregs, hacc, hpoll, hwalk, hbook, hscan⟩
  · intro hm hb hw
    refine ⟨_, immediateMute_exec hr hw (by simp [hm]), fun k => ?_, ?_⟩
    · rw [setImmediateMute_false (s := s.withMute false) hb]
      exact ofFn_get _ k
    · rw [setImmediateMute_false (s := s.withMute false) hb]
      rfl

end Sys2Proof.Machine

/-! SUPPORT. The taking of a request (R169 to R171) for any kind, and the answer of a block that has posted notices. -/

namespace Sys2Proof.Machine

variable {s t u : State} {i : Slot} {p : Scan} {k : RequestKind}

/-! ### The taking -/

/-- The internal copy of the request in slot `i` (R170). -/
def State.copyOf (s : State) (i : Slot) : List Byte := s.ram.read (slotAddr i) 64

/-- R170: a final state written to a slot, and REQUEST_DONE. -/
def State.close (i : Slot) (copy : List Byte) (state code : Nat) (results : List Result) (s : State) : State :=
  (s.setRam (s.ram.finishSlot i state code results)).notifyDone i copy code

/-- R170: a slot TAKEN, its request in flight. -/
def State.keepTaken (i : Slot) (copy : List Byte) (s : State) : State :=
  { s.setRam (s.ram.writeLe (slotAddr i) 1 slotTaken) with
    scanner := { s.scanner with inFlight := { slot := i, copy := copy } :: s.scanner.inFlight } }

theorem takeKind_serves (h : s.TakesNext i p k) (o : Open) {r : State × Reply} (hr : serve o i (s.copyOf i) (s.atSlot p) k = r) :
    s.takeKind o (SlotKind.is k) i = (r.1.answer i (s.copyOf i) r.2).markInFlight i (s.copyOf i) r.2 := by
  rw [takeKind_of_takes h, ← hr]
  unfold State.takeSlot
  rw [h.2]
  rfl

theorem takeKind_refused (h : s.TakesNext i p k) (o : Open) {code : ResultCode} {results : List Result}
    (hr : serve o i (s.copyOf i) (s.atSlot p) k = (u, .refused code results)) :
    s.takeKind o (SlotKind.is k) i = u.close i (s.copyOf i) 4 code.code results := by
  rw [takeKind_serves h o hr]
  exact markInFlight_of_ne (r := .refused code results) (by simp) _ _ _

theorem takeKind_done (h : s.TakesNext i p k) (o : Open) {results : List Result}
    (hr : serve o i (s.copyOf i) (s.atSlot p) k = (u, .done results)) :
    s.takeKind o (SlotKind.is k) i = u.close i (s.copyOf i) 3 0 results := by
  rw [takeKind_serves h o hr]
  exact markInFlight_of_ne (r := .done results) (by simp) _ _ _

theorem takeKind_taken (h : s.TakesNext i p k) (o : Open)
    (hr : serve o i (s.copyOf i) (s.atSlot p) k = (u, .taken)) :
    s.takeKind o (SlotKind.is k) i = u.keepTaken i (s.copyOf i) := by
  rw [takeKind_serves h o hr]
  exact if_pos rfl

/-! ### What an answer leaves (R170, R171) -/

theorem close_only (i : Slot) (copy : List Byte) (state code : Nat) (results : List Result) (s : State) :
    s.close i copy state code results =
      { s with ram := (s.close i copy state code results).ram, notices := (s.close i copy state code results).notices } :=
  notifyDone_only i copy code (s.setRam _)

/-- R170, R171: a request answered by a block that has changed nothing. -/
theorem close_answered (hw : s.ram.wf = true) (i : Slot) (p : Scan) {state code : Nat} {results : List Result}
    (hp : placed 4 results) (hs : state < 256) (hc : code < 256) :
    s.Answered ((s.atSlot p).close i (s.copyOf i) state code results) i state code results ∧
      (s.atSlot p).close i (s.copyOf i) state code results =
        s.afterScanOnly ((s.atSlot p).close i (s.copyOf i) state code results) p :=
  ⟨answered_of (s := s) (u := s.atSlot p) hw rfl rfl rfl i hp hs hc, afterScanOnly_of (close_only _ _ _ _ _ _)⟩

/-- R170, R171: a request answered by a block that has posted notices. -/
theorem close_noticed {m : Memory} {n : BitVec 10} (h : Noticed m n u) (i : Slot) (copy : List Byte) {state code : Nat}
    {results : List Result} (hp : placed 4 results) (hs : state < 256) (hc : code < 256) :
    slotHolds (u.close i copy state code results).ram i state code results ∧
      keepsOutside (fun a => inResults i results a ∨ inNoticeQueue a) m (u.close i copy state code results).ram := by
  have hf := wf_finishSlot h.wf i state code results
  have hkeep := keepsOutside_trans h.keeps (keeps_finishSlot h.wf i state code results)
    (r := fun a => inResults i results a ∨ inNoticeQueue a) (fun _ ha => .inr ha) fun _ ha => .inl ha
  exact ⟨slotHolds_notifyDone (s := u.setRam _) hf i i copy code hp (slotHolds_finishSlot h.wf i _ _ hp hs hc),
    keepsOutside_trans hkeep (keeps_notifyDone (s := u.setRam _) hf i copy code) (fun _ ha => ha) fun _ ha => .inr ha⟩

/-- What a request completed by a block leaves alone, when the block has left it alone. -/
theorem close_restKept {n : BitVec 10} {m : Memory} (h : Noticed m n u) (hn : n = s.log.writeIdx) (hrun : u.run = s.run)
    (hclock : u.clock = s.clock) (hregs : u.regs = s.regs) (hscan : u.scanner = (s.atSlot p).scanner) (hpend : u.pending = s.pending)
    (i : Slot) (copy : List Byte) (state code : Nat) (results : List Result) :
    s.restKept (u.close i copy state code results) p := by
  rw [close_only]
  exact ⟨hrun, hclock, hregs, hscan, h.writeIdx.trans hn, hpend⟩

theorem noticed_changeTerms (hw : s.ram.wf = true) (f : Stage → GainStage → GainStage) :
    Noticed s.ram s.log.writeIdx (s.changeTerms f) := (Noticed.refl hw).changeTerms f

end Sys2Proof.Machine

/-! SUPPORT. HOLD_STAGE and RELEASE_STAGE (R172, R173), and O40. -/

namespace Sys2Proof.Machine

variable {s t u : State} {i : Slot} {p : Scan}

/-! ### The hold and its clip (R43, R48) -/

/-- R43: the terms of a stage with its hold replaced. -/
def GainStage.withHold (g : GainStage) (v : Option Nat) : GainStage := { g with hold := v }

theorem setHold_eq (k : Stage) (v : Option Nat) (s : State) :
    s.setHold k v = s.changeTerms fun j g => if j = k then g.withHold v else g := rfl

theorem setHold_gain (hb : ceilingsBounded s.gain.stages) (k : Stage) (v : Option Nat) :
    (s.setHold k v).gain =
      { s.gain with
        stages := upd s.gain.stages k
          { s.gain.stages[k].withHold v with
            applied := min (s.gain.stages[k].withHold v).applied (s.gain.stages[k].withHold v).bound } } := by
  have hc : (s.setHold k v).gain.cfg = s.gain.cfg := by
    rw [setHold_eq]
    exact changeTerms_cfg _ s
  have hs : (s.setHold k v).gain.stages = upd s.gain.stages k
      { s.gain.stages[k].withHold v with
        applied := min (s.gain.stages[k].withHold v).applied (s.gain.stages[k].withHold v).bound } := by
    refine vector_ext fun j => ?_
    rw [setHold_eq, changeTerms_stage, upd_get]
    by_cases hj : j = k
    · subst hj
      rw [if_pos rfl, if_pos rfl]
    · rw [if_neg hj, if_neg hj, Nat.min_eq_left (hb j)]
  generalize (s.setHold k v).gain = g at hc hs
  cases g
  cases hc
  cases hs
  rfl

theorem setHold_line (hb : ceilingsBounded s.gain.stages) (k : Stage) (v : Option Nat) {j : Stage}
    (h : j ≠ k ∨ (s.gain.stages[k].withHold v).applied ≤ (s.gain.stages[k].withHold v).bound) :
    (s.setHold k v).links.lines[j] = s.links.lines[j] := by
  rw [setHold_eq]
  refine changeTerms_line_kept ?_
  by_cases hj : j = k
  · subst hj
    rw [if_pos rfl]
    exact h.resolve_left fun hn => hn rfl
  · rw [if_neg hj]
    exact hb j

theorem setHold_carries {k : Stage} {v : Option Nat}
    (h : (s.gain.stages[k].withHold v).bound < (s.gain.stages[k].withHold v).applied) (hr : s.run.state = .running)
    (hd : s.links.lines[k].state ≠ .disabled) (hh : s.links.lines[k].hold = false) :
    s.links.lines[k].Carries (s.setHold k v).links.lines[k] (s.gain.stages[k].withHold v).bound := by
  have hf : (if k = k then s.gain.stages[k].withHold v else s.gain.stages[k]) = s.gain.stages[k].withHold v := if_pos rfl
  rw [setHold_eq, ← hf]
  rw [← hf] at h
  generalize hg : (fun (j : Stage) (g : GainStage) => if j = k then g.withHold v else g) = f
  have hk : (if k = k then s.gain.stages[k].withHold v else s.gain.stages[k]) = f k s.gain.stages[k] := by rw [← hg]
  rw [hk] at h ⊢
  exact changeTerms_carries h hr hd hh

/-! ### The two requests -/

/-- The results of a hold or a release (Table 9-8). -/
def holdResults (k : Stage) (before : Option Nat) (unstated : Half) (inForce : List Result) (g : GainStage) : List Result :=
  [⟨0x20, 1, k.val⟩, ⟨0x21, 1, boolCode before.isSome⟩, ⟨0x22, 2, before.getD unstated.toNat⟩] ++ inForce ++
    [⟨0x26, 2, g.bound⟩, ⟨0x28, 2, min g.applied g.bound⟩]

/-- The ceiling in force of a HOLD_STAGE; a RELEASE_STAGE gives none. -/
def inForceResults : Option Nat → List Result
  | some v => [⟨0x24, 2, v⟩]
  | none => []

theorem holdResults_placed (k : Stage) (before : Option Nat) (unstated : Half) (v : Option Nat) (g : GainStage) :
    placed 4 (holdResults k before unstated (inForceResults v) g) := by
  cases v <;> simp [placed, holdResults, inForceResults]

theorem stageOf_val (k : Stage) : stageOf k.val = some k := dif_pos k.isLt

theorem stageOf_none {n : Nat} (h : 3 < n) : stageOf n = none := dif_neg (by omega)

theorem boundResults_setHold (k : Stage) (v : Option Nat) (s : State) :
    boundResults (s.setHold k v).gain.stages[k] =
      [⟨0x26, 2, (s.gain.stages[k].withHold v).bound⟩,
        ⟨0x28, 2, min (s.gain.stages[k].withHold v).applied (s.gain.stages[k].withHold v).bound⟩] := by
  rw [setHold_eq, changeTerms_stage, if_pos rfl]
  rfl

theorem serveHoldStage_done {copy : List Byte} {unstated : Half} {k : Stage} (h : field copy 0x04 1 = k.val) (s : State) :
    serveHoldStage unstated copy s =
      (s.setHold k (some (min 4096 (field copy 0x06 2))),
        .done (holdResults k s.gain.stages[k].hold unstated (inForceResults (some (min 4096 (field copy 0x06 2))))
          (s.gain.stages[k].withHold (some (min 4096 (field copy 0x06 2)))))) := by
  have hc : clamp 0 Config.fullScale (field copy 0x06 2) = min 4096 (field copy 0x06 2) := Nat.zero_max _
  unfold serveHoldStage
  rw [h, stageOf_val, hc]
  dsimp only
  rw [boundResults_setHold]
  rfl

theorem serveReleaseStage_done {copy : List Byte} {unstated : Half} {k : Stage} (h : field copy 0x04 1 = k.val) (s : State) :
    serveReleaseStage unstated copy s =
      (s.setHold k none,
        .done (holdResults k s.gain.stages[k].hold unstated (inForceResults none) (s.gain.stages[k].withHold none))) := by
  unfold serveReleaseStage
  rw [h, stageOf_val]
  dsimp only
  rw [boundResults_setHold]
  rfl

theorem serveHoldStage_refused {copy : List Byte} {unstated : Half} (h : 3 < field copy 0x04 1) (s : State) :
    serveHoldStage unstated copy s = (s, .refused .badField []) := by
  unfold serveHoldStage
  rw [stageOf_none h]

theorem serveReleaseStage_refused {copy : List Byte} {unstated : Half} (h : 3 < field copy 0x04 1) (s : State) :
    serveReleaseStage unstated copy s = (s, .refused .badField []) := by
  unfold serveReleaseStage
  rw [stageOf_none h]

/-- A request that puts the hold `v` on stage `k`, or removes it, once its result has been written. -/
theorem held_after (hw : s.ram.wf = true) (hb : ceilingsBounded s.gain.stages) (i : Slot) (p : Scan) (unstated : Half) (k : Stage)
    (v : Option Nat) :
    let g := { s.gain.stages[k] with hold := v }
    let results := holdResults k s.gain.stages[k].hold unstated (inForceResults v) g
    let t := ((s.atSlot p).setHold k v).close i (s.copyOf i) 3 0 results
    slotHolds t.ram i 3 0 results ∧
      t.gain = { s.gain with stages := upd s.gain.stages k { g with applied := min g.applied g.bound } } ∧
      (∀ j : Stage, j ≠ k ∨ g.applied ≤ g.bound → t.links.lines[j] = s.links.lines[j]) ∧
      (g.bound < g.applied → s.run.state = .running → s.links.lines[k].state ≠ .disabled →
        s.links.lines[k].hold = false → s.links.lines[k].Carries t.links.lines[k] g.bound) ∧
      keepsOutside (fun a => inResults i results a ∨ inNoticeQueue a) s.ram t.ram ∧
      s.restKept t p ∧ t.acc = s.acc ∧ t.poller = s.poller ∧ t.walker = s.walker ∧ t.book = s.book := by
  intro g results t
  have hn : Noticed s.ram s.log.writeIdx ((s.atSlot p).setHold k v) := noticed_changeTerms (s := s.atSlot p) hw _
  obtain ⟨hholds, hkeeps⟩ := close_noticed hn i (s.copyOf i) (state := 3) (code := 0)
    (holdResults_placed k s.gain.stages[k].hold unstated v g) (by decide) (by decide)
  obtain ⟨hrun, hclock, hregs, hacc, hpoll, hwalk, hbook, hscan, hpend⟩ := setHold_keeps k v (s.atSlot p)
  have hrest : s.restKept t p := close_restKept hn rfl hrun hclock hregs hscan hpend i _ 3 0 results
  have hgain := setHold_gain (s := s.atSlot p) hb k v
  have hline : ∀ j : Stage, j ≠ k ∨ g.applied ≤ g.bound → ((s.atSlot p).setHold k v).links.lines[j] = s.links.lines[j] :=
    fun j hj => setHold_line (s := s.atSlot p) hb k v hj
  have hcarry : g.bound < g.applied → s.run.state = .running → s.links.lines[k].state ≠ .disabled →
      s.links.lines[k].hold = false → s.links.lines[k].Carries ((s.atSlot p).setHold k v).links.lines[k] g.bound :=
    fun h hr hd hh => setHold_carries (s := s.atSlot p) h hr hd hh
  refine ⟨hholds, ?_, ?_, ?_, hkeeps, hrest, ?_⟩
  all_goals
    rw [show t = _ from close_only _ _ _ _ _ _]
    generalize (s.atSlot p).setHold k v = u at *
  · exact hgain
  · exact hline
  · exact hcarry
  · exact ⟨hacc, hpoll, hwalk, hbook⟩

/-- Settles O40. -/
theorem holdAndReleaseBoundTheStage : Obligations.HoldAndReleaseBoundTheStage := by
  unfold Obligations.HoldAndReleaseBoundTheStage
  intro s i p unstated hw hb
  have hstage : field (s.copyOf i) 0x04 1 = s.param i 0x04 1 := field_copy s i _ _ (by omega)
  have hvalue : field (s.copyOf i) 0x06 2 = s.param i 0x06 2 := field_copy s i _ _ (by omega)
  have hrefused := close_answered hw i p (state := 4) (code := 2) (results := []) (by simp [placed]) (by decide) (by decide)
  dsimp only
  refine ⟨fun ht => ⟨fun h => ?_, fun k h => ?_⟩, fun ht => ⟨fun h => ?_, fun k h => ?_⟩⟩
  · rw [← hstage] at h
    exact ⟨_, congrArg Host.Outcome.next (takeKind_refused ht _ (serveHoldStage_refused h _)), hrefused⟩
  · rw [← hstage] at h
    rw [← hvalue]
    exact ⟨_, congrArg Host.Outcome.next (takeKind_done ht _ (serveHoldStage_done h _)), held_after hw hb i p unstated k _⟩
  · rw [← hstage] at h
    exact ⟨_, congrArg Host.Outcome.next (takeKind_refused ht _ (serveReleaseStage_refused h _)), hrefused⟩
  · rw [← hstage] at h
    exact ⟨_, congrArg Host.Outcome.next (takeKind_done ht _ (serveReleaseStage_done h _)), held_after hw hb i p unstated k _⟩

end Sys2Proof.Machine

/-! SUPPORT. SWAP_BOOK (R143 to R145), and O38. -/

namespace Sys2Proof.Machine

variable {s t u : State} {i : Slot} {p : Scan}

/-- R143: the book of the other area held. -/
def State.withBook (b : List BookRecord) (s : State) : State :=
  { s with book := { s.book with working := some b, area := otherArea s.book.area } }

theorem exchangeBook_eq (b : List BookRecord) (s : State) :
    s.exchangeBook b = (s.withBook b).changeTerms fun k g => { g with lost := (s.withBook b).lostTerm k } := rfl

/-- The results of a SWAP_BOOK that exchanges and of one whose area is invalid (Table 9-8). -/
def swapResults (area : Fin 2) : List Result := [⟨0x20, 1, area.val⟩, ⟨0x21, 1, (otherArea area).val⟩]

def faultResults (area : Fin 2) (f : BookFault) : List Result :=
  [⟨0x22, 1, area.val⟩, ⟨0x23, 1, f.set⟩, ⟨0x24, 1, f.station⟩, ⟨0x25, 1, f.cause.code⟩]

theorem serveSwapBook_valid (hr : s.run.state = .running) {b : List BookRecord}
    (hv : validateArea s.ram (otherArea s.book.area) = .ok b) (copy : List Byte) :
    serveSwapBook copy s = (s.exchangeBook b, .done (swapResults s.book.area)) := by
  unfold serveSwapBook
  rw [if_neg (by simp [hr])]
  dsimp only
  rw [hv]
  rfl

theorem serveSwapBook_invalid (hr : s.run.state = .running) {f : BookFault}
    (hv : validateArea s.ram (otherArea s.book.area) = .error f) (copy : List Byte) :
    serveSwapBook copy s =
      (s, .refused (if f.cause = .parity then .parity else .badField) (faultResults (otherArea s.book.area) f)) := by
  unfold serveSwapBook
  rw [if_neg (by simp [hr])]
  dsimp only
  rw [hv]
  rfl

theorem swapResults_placed (area : Fin 2) : placed 4 (swapResults area) := by simp [placed, swapResults]

theorem faultResults_placed (area : Fin 2) (f : BookFault) : placed 4 (faultResults area f) := by simp [placed, faultResults]

/-- R143, R145: the exchange once its result has been written. -/
theorem exchanged_after (hw : s.ram.wf = true) (i : Slot) (p : Scan) (b : List BookRecord) :
    let t := ((s.atSlot p).exchangeBook b).close i (s.copyOf i) 3 0 (swapResults s.book.area)
    t.book = { s.book with working := some b, area := otherArea s.book.area } ∧
      (∀ k : Stage,
        let g := { s.gain.stages[k] with lost := State.lostTerm { s with book := t.book } k }
        t.gain.stages[k] = { g with applied := min g.applied g.bound }) ∧
      (slotHolds t.ram i 3 0 (swapResults s.book.area) ∧
        keepsOutside (fun a => inResults i (swapResults s.book.area) a ∨ inNoticeQueue a) s.ram t.ram) ∧
      s.restKept t p ∧ t.acc = s.acc ∧ t.poller = s.poller ∧ t.walker = s.walker := by
  intro t
  have hn : Noticed s.ram s.log.writeIdx ((s.atSlot p).exchangeBook b) := by
    rw [exchangeBook_eq]
    exact noticed_changeTerms (s := (s.atSlot p).withBook b) hw _
  have hslot := close_noticed hn i (s.copyOf i) (state := 3) (code := 0) (swapResults_placed s.book.area) (by decide) (by decide)
  obtain ⟨hrun, hclock, hregs, hacc, hpoll, hwalk, hbook, hscan, hpend⟩ :=
    changeTerms_keeps (fun k g => { g with lost := ((s.atSlot p).withBook b).lostTerm k }) ((s.atSlot p).withBook b)
  have hstage : ∀ k : Stage, ((s.atSlot p).exchangeBook b).gain.stages[k] =
      let g := { s.gain.stages[k] with lost := (s.withBook b).lostTerm k }
      { g with applied := min g.applied g.bound } := fun k => by
    rw [exchangeBook_eq, changeTerms_stage]
    rfl
  rw [← exchangeBook_eq] at hrun hclock hregs hacc hpoll hwalk hbook hscan hpend
  have hrest : s.restKept t p := close_restKept hn rfl hrun hclock hregs hscan hpend i _ 3 0 _
  have ht : t.book = { s.book with working := some b, area := otherArea s.book.area } := by
    rw [show t = _ from close_only _ _ _ _ _ _]
    generalize (s.atSlot p).exchangeBook b = u at *
    exact hbook
  refine ⟨ht, ?_, hslot, hrest, ?_⟩
  · rw [ht, show t = _ from close_only _ _ _ _ _ _]
    generalize (s.atSlot p).exchangeBook b = u at *
    exact hstage
  · rw [show t = _ from close_only _ _ _ _ _ _]
    generalize (s.atSlot p).exchangeBook b = u at *
    exact ⟨hacc, hpoll, hwalk⟩

theorem swapCode (f : BookFault) :
    (if f.cause = .parity then ResultCode.parity else .badField).code = if f.cause = .parity then 6 else 2 := by
  split <;> rfl

/-- Settles O38. -/
theorem swapBookExchangesTheBook : Obligations.SwapBookExchangesTheBook := by
  unfold Obligations.SwapBookExchangesTheBook
  intro s i p hw hr ht
  refine ⟨fun b hv => ?_, fun f hv => ?_⟩
  · exact ⟨_, congrArg Host.Outcome.next (takeKind_done ht Open.none (serveSwapBook_valid (s := s.atSlot p) hr hv (s.copyOf i))),
      exchanged_after hw i p b⟩
  · have hc : (if f.cause = .parity then 6 else 2) < 256 := by split <;> decide
    obtain ⟨h1, h2⟩ := close_answered hw i p (state := 4) (faultResults_placed (otherArea s.book.area) f) (by decide) hc
    have hx := takeKind_refused ht Open.none (serveSwapBook_invalid (s := s.atSlot p) hr hv (s.copyOf i))
    rw [swapCode] at hx
    exact ⟨_, congrArg Host.Outcome.next hx, h2, h1⟩

end Sys2Proof.Machine

/-! SUPPORT. MEASURE_AMBIENT (R149), and O41. -/

namespace Sys2Proof.Machine

variable {s t u : State} {i : Slot} {p : Scan}

/-! ### A slot TAKEN (R170) -/

theorem keepTaken_noticed {m : Memory} {n : BitVec 10} (h : Noticed m n u) (i : Slot) (copy : List Byte) :
    (u.keepTaken i copy).ram.readLe (slotAddr i) 1 = 2 ∧
      keepsOutside (fun a => a = slotAddr i ∨ inNoticeQueue a) m (u.keepTaken i copy).ram := by
  have hr : (u.keepTaken i copy).ram = u.ram.writeLe (slotAddr i) 1 slotTaken := rfl
  rw [hr]
  refine ⟨?_, keepsOutside_trans h.keeps (keeps_writeLe h.wf _ _ _) (fun _ ha => .inr ha) fun a ha => .inl ?_⟩
  · rw [readLe_writeLe h.wf]
    rfl
  · omega

/-! ### The measurement begun (R149) -/

/-- The measurement put in the accumulator's record. -/
def State.withAmbient (m : Ambient) (s : State) : State := { s with acc := { s.acc with ambient := m } }

theorem setAmbientMute_true (s : State) (k : Stage) :
    (s.setAmbientMute true).gain.stages[k] = { s.gain.stages[k] with ambient := some 0, applied := 0 } := by
  unfold State.setAmbientMute
  rw [changeTerms_stage, min_of_bound_zero (bound_zero (by simp))]
  rfl

theorem setAmbientMute_carries {k : Stage} (h : 0 < s.gain.stages[k].applied) (hr : s.run.state = .running)
    (hd : s.links.lines[k].state ≠ .disabled) (hh : s.links.lines[k].hold = false) :
    s.links.lines[k].Carries (s.setAmbientMute true).links.lines[k] 0 := by
  unfold State.setAmbientMute
  exact changeTerms_silences (bound_zero (by simp)) h hr hd hh

/-- The parameters of a MEASURE_AMBIENT that R149 refuses. -/
def measureBad (dur mask : Nat) : Prop := dur < 10 ∨ 300 < dur ∨ mask = 0 ∨ 65535 < mask

theorem inFlight_iff (m : Ambient) : m.inFlight = true ↔ m.phase ≠ .none := by simp [Ambient.inFlight]

section

variable (hr : s.run.state = .running) {copy : List Byte}

include hr

theorem serveMeasureAmbient_bad (h : measureBad (field copy 0x04 2) (field copy 0x08 4)) (i : Slot) :
    serveMeasureAmbient i copy s = (s, .refused .badField []) := by
  unfold serveMeasureAmbient
  dsimp only
  rw [if_neg (by simp [hr])]
  exact if_pos h

theorem serveMeasureAmbient_busy (h : ¬ measureBad (field copy 0x04 2) (field copy 0x08 4)) (hm : s.acc.ambient.phase ≠ .none)
    (i : Slot) : serveMeasureAmbient i copy s = (s, .refused .busy []) := by
  unfold serveMeasureAmbient
  dsimp only
  rw [if_neg (by simp [hr])]
  exact (if_neg h).trans (if_pos ((inFlight_iff _).2 hm))

theorem serveMeasureAmbient_taken (h : ¬ measureBad (field copy 0x04 2) (field copy 0x08 4)) (hm : s.acc.ambient.phase = .none)
    (i : Slot) :
    serveMeasureAmbient i copy s =
      ((s.withAmbient (Ambient.begin i (field copy 0x08 4) (field copy 0x04 2))).setAmbientMute true, .taken) := by
  unfold serveMeasureAmbient
  dsimp only
  rw [if_neg (by simp [hr])]
  exact (if_neg h).trans (if_neg fun hf => (inFlight_iff _).1 hf hm)

end

/-- R149: the measurement once its slot is TAKEN. -/
theorem measuring_after (hw : s.ram.wf = true) (hr : s.run.state = .running) (i : Slot) (p : Scan) {dur mask : Nat}
    (hmask : mask ≤ 65535) :
    let t := (((s.atSlot p).withAmbient (Ambient.begin i mask dur)).setAmbientMute true).keepTaken i (s.copyOf i)
    t.acc = { s.acc with ambient := t.acc.ambient } ∧ t.acc.ambient.phase = .settling ∧ t.acc.ambient.slot = i ∧
      t.acc.ambient.mask.toNat = mask ∧ t.acc.ambient.dur = dur ∧ t.acc.ambient.settle = 5 ∧
      (∀ st : Station, t.acc.ambient.got[st] = { count := 0, sumA := 0, sumC := 0 }) ∧
      (∀ k : Stage, t.gain.stages[k] = { s.gain.stages[k] with ambient := some 0, applied := 0 }) ∧
      (∀ k : Stage, 0 < s.gain.stages[k].applied → s.links.lines[k].state ≠ .disabled →
        s.links.lines[k].hold = false → s.links.lines[k].Carries t.links.lines[k] 0) ∧
      t.ram.readLe (slotAddr i) 1 = 2 ∧
      keepsOutside (fun a => a = slotAddr i ∨ inNoticeQueue a) s.ram t.ram ∧
      t.scanner =
        { s.scanner with
          scan := some p
          inFlight := { slot := i, copy := s.ram.read (slotAddr i) 64 } :: s.scanner.inFlight } ∧
      t.run = s.run ∧ t.clock = s.clock ∧ t.regs = s.regs ∧ t.poller = s.poller ∧ t.walker = s.walker ∧
      t.book = s.book ∧ t.log.writeIdx = s.log.writeIdx := by
  have hn : Noticed s.ram s.log.writeIdx (((s.atSlot p).withAmbient (Ambient.begin i mask dur)).setAmbientMute true) :=
    noticed_changeTerms (s := (s.atSlot p).withAmbient (Ambient.begin i mask dur)) hw _
  obtain ⟨hread, hkeep⟩ := keepTaken_noticed hn i (s.copyOf i)
  obtain ⟨hrun, hclock, hregs, hacc, hpoll, hwalk, hbook, hscan, -⟩ :=
    setAmbientMute_keeps true ((s.atSlot p).withAmbient (Ambient.begin i mask dur))
  have hstage := setAmbientMute_true ((s.atSlot p).withAmbient (Ambient.begin i mask dur))
  have hcarry : ∀ k : Stage, 0 < s.gain.stages[k].applied → s.links.lines[k].state ≠ .disabled → s.links.lines[k].hold = false →
      s.links.lines[k].Carries (((s.atSlot p).withAmbient (Ambient.begin i mask dur)).setAmbientMute true).links.lines[k] 0 :=
    fun k ha hd hh => setAmbientMute_carries (s := (s.atSlot p).withAmbient (Ambient.begin i mask dur)) ha hr hd hh
  have hidx := hn.writeIdx
  dsimp only
  generalize ((s.atSlot p).withAmbient (Ambient.begin i mask dur)).setAmbientMute true = u at *
  have hta : (u.keepTaken i (s.copyOf i)).acc = { s.acc with ambient := Ambient.begin i mask dur } := hacc
  rw [hta]
  refine ⟨rfl, rfl, rfl, ?_, rfl, rfl, fun st => replicate_get _ _, hstage, hcarry, hread, hkeep, ?_, hrun, hclock, hregs, hpoll,
    hwalk, hbook, hidx⟩
  · exact (BitVec.toNat_ofNat _ _).trans (Nat.mod_eq_of_lt (by omega))
  · show ({ u.scanner with inFlight := _ } : Scanner) = _
    rw [hscan]
    rfl

/-- Settles O41. -/
theorem measureAmbientMutesTheStages : Obligations.MeasureAmbientMutesTheStages := by
  unfold Obligations.MeasureAmbientMutesTheStages
  intro s i p hw hr ht
  have hdur : field (s.copyOf i) 0x04 2 = s.param i 0x04 2 := field_copy s i _ _ (by omega)
  have hmask : field (s.copyOf i) 0x08 4 = s.param i 0x08 4 := field_copy s i _ _ (by omega)
  have hrefused := fun (code : Nat) (hc : code < 256) =>
    close_answered hw i p (state := 4) (code := code) (results := []) (by simp [placed]) (by decide) hc
  dsimp only
  rw [← hdur, ← hmask]
  by_cases hbad : field (s.copyOf i) 0x04 2 < 10 ∨ 300 < field (s.copyOf i) 0x04 2 ∨ field (s.copyOf i) 0x08 4 = 0 ∨
      65535 < field (s.copyOf i) 0x08 4
  · refine ⟨_, congrArg Host.Outcome.next (takeKind_refused ht _ (serveMeasureAmbient_bad (s := s.atSlot p) hr hbad i)), ?_⟩
    rw [if_pos hbad]
    exact hrefused 2 (by decide)
  · by_cases hm : s.acc.ambient.phase = .none
    · refine ⟨_, congrArg Host.Outcome.next (takeKind_taken ht _ (serveMeasureAmbient_taken (s := s.atSlot p) hr hbad hm i)), ?_⟩
      rw [if_neg hbad, if_neg (not_not.2 hm)]
      exact measuring_after hw hr i p (Nat.not_lt.1 fun h => hbad (.inr (.inr (.inr h))))
    · refine ⟨_, congrArg Host.Outcome.next (takeKind_refused ht _ (serveMeasureAmbient_busy (s := s.atSlot p) hr hbad hm i)), ?_⟩
      rw [if_neg hbad, if_pos hm]
      exact hrefused 3 (by decide)

end Sys2Proof.Machine

/-! SUPPORT. A request in flight completed (R171), the updated mask as a number (R152), and ABORT_AMBIENT (R153). -/

namespace Sys2Proof.Machine

variable {s t u : State} {i j : Slot} {p : Scan}

/-! ### The updated mask -/

/-- The number whose bit at each index is set when the index counts. -/
theorem sum_powers_eq_ofBits {n : Nat} (f : Fin n → Bool) :
    ((List.finRange n).map fun i => if f i then 2 ^ i.val else 0).sum = Nat.ofBits f := by
  induction n with
  | zero => rfl
  | succ n ih =>
    have hpow : ∀ i : Fin n, (if f i.succ then 2 ^ i.succ.val else 0) = 2 * if (f ∘ Fin.succ) i then 2 ^ i.val else 0 := fun i => by
      simp only [Function.comp_apply, Fin.val_succ, pow_succ]
      split <;> omega
    rw [List.finRange_succ, List.map_cons, List.sum_cons, List.map_map, Nat.ofBits_succ, ← ih (f ∘ Fin.succ),
      ← List.sum_map_mul_left, Nat.add_comm]
    refine congrArg₂ (· + ·) (congrArg List.sum (List.map_congr_left fun i _ => hpow i)) ?_
    cases f 0 <;> rfl

theorem updatedMask_eq (m : Ambient) : m.updatedMask = Nat.ofBits m.qualifies := by
  have h : allStations = List.finRange 16 := by decide
  unfold Ambient.updatedMask
  rw [h]
  exact sum_powers_eq_ofBits m.qualifies

theorem updatedMask_lt (m : Ambient) : m.updatedMask < 65536 := by
  rw [updatedMask_eq]
  exact Nat.ofBits_lt_two_pow m.qualifies

theorem bit_updatedMask (m : Ambient) (st : Station) : bit m.updatedMask st.val = m.qualifies st := by
  unfold bit
  rw [updatedMask_eq]
  exact Nat.testBit_ofBits_lt _ _ st.isLt

theorem qualifies_iff (m : Ambient) (st : Station) :
    m.qualifies st = true ↔ m.mask.getLsbD st.val = true ∧ m.dur ≤ 2 * m.got[st].count := by
  unfold Ambient.qualifies
  rw [Bool.and_eq_true, decide_eq_true_iff]

theorem ambientResults_placed (outcome settling measuring updated : Nat) :
    placed 4 (ambientResults outcome settling measuring updated) := by simp [placed, ambientResults]

/-! ### The scan takes no slot with a request in flight (R169) -/

theorem slotAfter_slotAfter (i : Slot) (n : Nat) : slotAfter (slotAfter i 1) n = slotAfter i (n + 1) := by
  apply Fin.ext
  simp only [slotAfter, Fin.ofNat]
  omega

theorem takes_of_passOver {n left : Nat} (h : s.passOver i left = some n) : s.takes (slotAfter i n) = true := by
  induction left generalizing i n with
  | zero => cases h
  | succ left ih =>
    unfold State.passOver at h
    split at h
    · next ht =>
      cases h
      have hi : slotAfter i 0 = i := by
        apply Fin.ext
        simp only [slotAfter, Fin.ofNat]
        omega
      rw [hi]
      exact ht
    · obtain ⟨m, hm, rfl⟩ := Option.map_eq_some_iff.1 h
      rw [← slotAfter_slotAfter]
      exact ih hm

theorem nextTaken_takes (h : s.nextTaken = some (i, p)) : s.takes i = true := by
  unfold State.nextTaken at h
  split at h
  · split at h
    · split at h
      · next hn =>
        cases h
        exact takes_of_passOver hn
      · cases h
    · cases h
  · cases h

theorem nextTaken_not_inFlight (h : s.nextTaken = some (i, p)) : s.scanner.hasInFlight i = false := by
  have ht := nextTaken_takes h
  unfold State.takes at ht
  simpa using (Bool.and_eq_true_iff.1 ht).2

/-! ### A request in flight completed (R171) -/

theorem hasInFlight_find (c : Scanner) (j : Slot) :
    c.hasInFlight j = (c.inFlight.find? fun f => decide (f.slot = j)).isSome := by
  unfold Scanner.hasInFlight
  rw [Bool.eq_iff_iff, List.find?_isSome, List.any_eq_true]

/-- The slot of a request in flight given its final state where it still reads TAKEN. -/
def Memory.completed (m : Memory) (j : Slot) (results : List Result) : Memory :=
  if m.slotReads j slotTaken then m.finishSlot j slotDone 0 results else m

theorem complete_of_inFlight (h : s.scanner.hasInFlight j = true) (results : List Result) :
    ∃ copy, s.complete j results =
      ({ s with ram := s.ram.completed j results, scanner := s.scanner.forget j } : State).notifyDone j copy 0 := by
  rw [hasInFlight_find] at h
  obtain ⟨f, hf⟩ := Option.isSome_iff_exists.1 h
  unfold State.complete
  rw [hf]
  exact ⟨f.copy, rfl⟩

theorem complete_of_none (h : s.scanner.hasInFlight j = false) (results : List Result) : s.complete j results = s := by
  rw [hasInFlight_find, Option.isSome_eq_false_iff, Option.isNone_iff_eq_none] at h
  unfold State.complete
  rw [h]

/-- R171: the in-flight mark goes. -/
theorem complete_forgets (j : Slot) (results : List Result) (s : State) : (s.complete j results).scanner = s.scanner.forget j := by
  cases h : s.scanner.hasInFlight j with
  | true =>
    obtain ⟨copy, hc⟩ := complete_of_inFlight h results
    rw [hc, (notifyDone_keeps _ _ _ _).2.2.2.2.2.2.2.2.2.1]
  | false =>
    rw [complete_of_none h]
    have hall : s.scanner.inFlight.filter (fun f => decide (f.slot ≠ j)) = s.scanner.inFlight := by
      refine List.filter_eq_self.2 fun f hf => ?_
      have hne := List.any_eq_false.1 h f hf
      simpa using hne
    unfold Scanner.forget
    rw [hall]

theorem completed_wf {m : Memory} (h : m.wf = true) (j : Slot) (results : List Result) : (m.completed j results).wf = true := by
  unfold Memory.completed
  split
  · exact wf_finishSlot h _ _ _ _
  · exact h

theorem completed_keeps {m : Memory} (h : m.wf = true) (j : Slot) (results : List Result) :
    keepsOutside (fun a => m.slotReads j slotTaken = true ∧ inResults j results a) m (m.completed j results) := by
  unfold Memory.completed
  split
  · next ht => exact fun a ha => keeps_finishSlot h j slotDone 0 results a fun hr => ha ⟨ht, hr⟩
  · exact keepsOutside_refl _ _

/-- R171: the RAM once a request has been completed. -/
theorem complete_ram (hw : s.ram.wf = true) (j : Slot) (results : List Result) :
    (s.complete j results).ram.wf = true ∧
      keepsOutside (fun a => (s.ram.slotReads j slotTaken = true ∧ inResults j results a) ∨ inNoticeQueue a) s.ram
        (s.complete j results).ram := by
  cases h : s.scanner.hasInFlight j with
  | true =>
    obtain ⟨copy, hc⟩ := complete_of_inFlight h results
    rw [hc]
    have hm := completed_wf hw j results
    have hk := completed_keeps hw j results
    refine ⟨?_, keepsOutside_trans hk (keeps_notifyDone (s := { s with ram := s.ram.completed j results, scanner := s.scanner.forget j })
      hm j copy 0) (fun _ ha => .inl ha) fun _ ha => .inr ha⟩
    unfold State.notifyDone
    split
    · exact wf_post (s := { s with ram := s.ram.completed j results, scanner := s.scanner.forget j }) hm _ _ _
    · exact hm
  | false =>
    rw [complete_of_none h]
    exact ⟨hw, keepsOutside_refl _ _⟩

/-- R171: the slot of a request in flight that still reads TAKEN, once completed. -/
theorem complete_slot (hw : s.ram.wf = true) (h : s.scanner.hasInFlight j = true) (ht : s.ram.slotReads j slotTaken = true)
    {results : List Result} (hp : placed 4 results) : slotHolds (s.complete j results).ram j 3 0 results := by
  obtain ⟨copy, hc⟩ := complete_of_inFlight h results
  have hram : s.ram.completed j results = s.ram.finishSlot j slotDone 0 results := if_pos ht
  have hold : slotHolds (s.ram.completed j results) j 3 0 results := by
    rw [hram]
    exact slotHolds_finishSlot hw j _ _ hp (by decide) (by decide)
  rw [hc]
  exact slotHolds_notifyDone (s := { s with ram := s.ram.completed j results, scanner := s.scanner.forget j })
    (completed_wf hw j results) j j copy 0 hp hold

end Sys2Proof.Machine

/-! SUPPORT. ABORT_AMBIENT (R153). -/

namespace Sys2Proof.Machine

variable {s t u : State} {i j : Slot} {p : Scan}

/-- The bytes of a final state and its results lie in their slot. -/
theorem inResults_slot {results : List Result} (hp : placed 4 results) {a : Nat} (h : inResults i results a) :
    slotAddr i ≤ a ∧ a < slotAddr i + 64 := by
  rcases h with rfl | rfl | ⟨r, hr, h1, h2⟩
  · omega
  · omega
  · have := placed_mem hp hr
    omega

theorem slots_apart (h : i ≠ j) {a : Nat} (hi : slotAddr i ≤ a) (hi2 : a < slotAddr i + 64) :
    ¬ (slotAddr j ≤ a ∧ a < slotAddr j + 64) := by
  have hne : i.val ≠ j.val := fun e => h (Fin.ext e)
  unfold slotAddr at *
  omega

/-- A final state in one slot is kept by an answer in another. -/
theorem close_other (hw : u.ram.wf = true) (hij : j ≠ i) (copy : List Byte) {results others : List Result} (hp : placed 4 results)
    (ho : placed 4 others) (h : slotHolds u.ram j 3 0 others) : slotHolds (u.close i copy 3 0 results).ram j 3 0 others := by
  obtain ⟨-, hk⟩ := close_noticed (Noticed.refl hw) i copy (state := 3) (code := 0) hp (by decide) (by decide)
  refine slotHolds_congr ho (fun a h1 h2 => (hk a ?_).1) h
  rintro (ha | ha)
  · exact slots_apart hij h1 h2 (inResults_slot hp ha)
  · exact slot_not_queue j h1 h2 ha

/-! ### The measurement aborted -/

/-- R153: the results of the aborted measurement's slot. -/
def Ambient.abortedResults (m : Ambient) : List Result := ambientResults 2 m.settled m.measured 0

/-- R46: the ambient-mute term gone from every stage. -/
def State.unmuted (s : State) : State :=
  { s with gain := { s.gain with stages := Vector.ofFn fun k : Fin 4 => { s.gain.stages[k] with ambient := none } } }

theorem abortAmbient_eq (hb : ceilingsBounded s.gain.stages) :
    s.abortAmbient = (s.unmuted.complete s.acc.ambient.slot s.acc.ambient.abortedResults).endAmbient := by
  unfold State.abortAmbient
  dsimp only
  rw [setAmbientMute_false hb]
  rfl

/-- R153: what the abort changes, the RAM aside. -/
theorem abortAmbient_frame (hb : ceilingsBounded s.gain.stages) :
    s.abortAmbient.acc = { s.acc with ambient := { s.acc.ambient with phase := .none } } ∧
      (∀ k : Stage, s.abortAmbient.gain.stages[k] = { s.gain.stages[k] with ambient := none }) ∧
      s.abortAmbient.links = s.links ∧ s.abortAmbient.scanner = s.scanner.forget s.acc.ambient.slot ∧
      s.abortAmbient.run = s.run ∧ s.abortAmbient.clock = s.clock ∧ s.abortAmbient.regs = s.regs ∧
      s.abortAmbient.poller = s.poller ∧ s.abortAmbient.walker = s.walker ∧ s.abortAmbient.book = s.book ∧
      s.abortAmbient.log = s.log := by
  obtain ⟨hrun, hclock, hregs, hacc, hgain, hpoll, hlinks, hwalk, hbook, hlog, -⟩ :=
    complete_keeps s.acc.ambient.slot s.acc.ambient.abortedResults s.unmuted
  have hscan := complete_forgets s.acc.ambient.slot s.acc.ambient.abortedResults s.unmuted
  rw [abortAmbient_eq hb]
  generalize s.unmuted.complete s.acc.ambient.slot s.acc.ambient.abortedResults = c at *
  have hstage : ∀ k : Stage, c.gain.stages[k] = { s.gain.stages[k] with ambient := none } := fun k => by
    rw [hgain]
    exact ofFn_get _ k
  have hend : c.endAmbient.acc = { c.acc with ambient := { c.acc.ambient with phase := .none } } := rfl
  rw [hend, hacc]
  exact ⟨rfl, hstage, hlinks, hscan, hrun, hclock, hregs, hpoll, hwalk, hbook, hlog⟩

theorem abortAmbient_ram (hb : ceilingsBounded s.gain.stages) :
    s.abortAmbient.ram = (s.unmuted.complete s.acc.ambient.slot s.acc.ambient.abortedResults).ram := by
  rw [abortAmbient_eq hb]
  rfl

theorem serveAbortAmbient_refused (h : s.acc.ambient.phase = .none) (copy : List Byte) :
    serveAbortAmbient copy s = (s, .refused .conflict []) := by
  unfold serveAbortAmbient
  exact if_neg fun hf => (inFlight_iff _).1 hf h

theorem serveAbortAmbient_done (h : s.acc.ambient.phase ≠ .none) (copy : List Byte) :
    serveAbortAmbient copy s = (s.abortAmbient, .done [⟨0x20, 1, s.acc.ambient.slot.val⟩]) := by
  unfold serveAbortAmbient
  exact if_pos ((inFlight_iff _).2 h)

/-- R153, R171: the abort once the request's result has been written. -/
theorem aborted_after (hw : s.ram.wf = true) (hb : ceilingsBounded s.gain.stages) (hi : s.scanner.hasInFlight i = false)
    (hm : s.scanner.hasInFlight s.acc.ambient.slot = true) (p : Scan) :
    let m := s.acc.ambient
    let done : List Result := [⟨0x20, 1, m.slot.val⟩]
    let taken := s.ram.badAt (slotAddr m.slot) = false ∧ s.ram.readLe (slotAddr m.slot) 1 = 2
    let t := (s.atSlot p).abortAmbient.close i (s.copyOf i) 3 0 done
    t.acc = { s.acc with ambient := { m with phase := .none } } ∧
      (∀ k : Stage, t.gain.stages[k] = { s.gain.stages[k] with ambient := none }) ∧ t.links = s.links ∧
      slotHolds t.ram i 3 0 done ∧ (taken → slotHolds t.ram m.slot 3 0 m.abortedResults) ∧
      keepsOutside
        (fun a => inResults i done a ∨ (taken ∧ inResults m.slot m.abortedResults a) ∨ inNoticeQueue a) s.ram t.ram ∧
      t.scanner =
        { s.scanner with
          scan := some p
          inFlight := s.scanner.inFlight.filter fun f => decide (f.slot ≠ m.slot) } ∧
      t.run = s.run ∧ t.clock = s.clock ∧ t.regs = s.regs ∧ t.poller = s.poller ∧ t.walker = s.walker ∧
      t.book = s.book ∧ t.log = s.log := by
  have hne : s.acc.ambient.slot ≠ i := fun e => by
    rw [e, hi] at hm
    cases hm
  have hplaced : placed 4 ([⟨0x20, 1, s.acc.ambient.slot.val⟩] : List Result) := by simp [placed]
  have hpa : placed 4 s.acc.ambient.abortedResults := ambientResults_placed _ _ _ _
  obtain ⟨facc, fgain, flinks, fscan, frest⟩ := abortAmbient_frame (s := s.atSlot p) hb
  have hram := abortAmbient_ram (s := s.atSlot p) hb
  obtain ⟨hwf, hk⟩ := complete_ram (s := (s.atSlot p).unmuted) hw s.acc.ambient.slot s.acc.ambient.abortedResults
  have hslot := fun ht => complete_slot (s := (s.atSlot p).unmuted) hw hm (j := s.acc.ambient.slot) ht hpa
  rw [show ((s.atSlot p).unmuted.complete s.acc.ambient.slot s.acc.ambient.abortedResults).ram = (s.atSlot p).abortAmbient.ram
    from hram.symm] at hwf hk hslot
  dsimp only
  generalize (s.atSlot p).abortAmbient = u at *
  obtain ⟨hdone, hkeep⟩ := close_noticed (Noticed.refl hwf) i (s.copyOf i) (state := 3) (code := 0) hplaced (by decide) (by decide)
  have hother := fun ht => close_other hwf hne (s.copyOf i) hplaced hpa (hslot ht)
  rw [close_only] at hdone hkeep hother ⊢
  refine ⟨facc, fgain, flinks, hdone, fun ht => hother (slotReads_iff.2 ht), ?_, fscan, frest⟩
  refine keepsOutside_trans hk hkeep (fun a ha => .inr ?_) fun a ha => ?_
  · exact ha.imp_left fun h => ⟨slotReads_iff.1 h.1, h.2⟩
  · exact ha.imp_right .inr

end Sys2Proof.Machine

/-! SUPPORT. The measurement's part of a driving closure (R150, R152), and O42. -/

namespace Sys2Proof.Machine

variable {s t u : State} {i j : Slot} {p : Scan}

/-! ### What a closure makes of the measurement -/

theorem ambientClosure_none (h : s.acc.ambient.phase = .none) : s.ambientClosure = s := by
  unfold State.ambientClosure
  dsimp only
  rw [h]

theorem ambientClosure_settling (h : s.acc.ambient.phase = .settling) :
    s.ambientClosure =
      if s.acc.ambient.settle ≤ 1 then
        s.withAmbient { s.acc.ambient with settle := 0, phase := .measuring, measure := s.acc.ambient.dur }
      else s.withAmbient { s.acc.ambient with settle := s.acc.ambient.settle - 1 } := by
  unfold State.ambientClosure
  dsimp only
  rw [h]
  rfl

/-- The measurement with its last measuring round counted. -/
def Ambient.counted (m : Ambient) : Ambient := { m with measure := 0 }

theorem ambientClosure_measuring (h : s.acc.ambient.phase = .measuring) :
    s.ambientClosure =
      if s.acc.ambient.measure ≤ 1 then (s.withAmbient s.acc.ambient.counted).completeAmbient s.acc.ambient.counted
      else s.withAmbient { s.acc.ambient with measure := s.acc.ambient.measure - 1 } := by
  unfold State.ambientClosure
  dsimp only
  rw [h]
  dsimp only [State.withAmbient, Ambient.counted]
  rw [h]

/-! ### The completion (R152) -/

/-- R152: the results of the completed measurement's slot. -/
def Ambient.completedResults (m : Ambient) : List Result := ambientResults 1 m.settled m.measured m.updatedMask

/-- R152: the ambient table with what the measurement gives. -/
def State.tableTaken (m : Ambient) (s : State) : State := { s with book := s.book.takeAmbient m }

theorem tableTaken_unmuted (m : Ambient) (s : State) :
    (s.tableTaken m).unmuted.ram = s.ram ∧ (s.tableTaken m).unmuted.scanner = s.scanner := by
  unfold State.unmuted
  exact ⟨by rfl, by rfl⟩

theorem completeAmbient_eq (hb : ceilingsBounded s.gain.stages) (m : Ambient) :
    s.completeAmbient m = ((s.tableTaken m).unmuted.complete m.slot m.completedResults).endAmbient := by
  unfold State.completeAmbient
  dsimp only
  rw [setAmbientMute_false (s := { s with book := s.book.takeAmbient m }) hb]
  rfl

/-- R152: what a completion changes. -/
theorem completeAmbient_frame (hb : ceilingsBounded s.gain.stages) (m : Ambient) :
    (s.completeAmbient m).acc.ambient.phase = .none ∧ (s.completeAmbient m).book = s.book.takeAmbient m ∧
      (s.completeAmbient m).scanner = s.scanner.forget m.slot ∧
      (∀ k : Stage, (s.completeAmbient m).gain.stages[k].ambient = none) := by
  obtain ⟨-, -, -, -, hgain, -, -, -, hbook, -⟩ := complete_keeps m.slot m.completedResults (s.tableTaken m).unmuted
  have hscan := complete_forgets m.slot m.completedResults (s.tableTaken m).unmuted
  rw [(tableTaken_unmuted m s).2] at hscan
  rw [completeAmbient_eq hb]
  generalize (s.tableTaken m).unmuted.complete m.slot m.completedResults = c at *
  refine ⟨rfl, hbook, hscan, fun k => ?_⟩
  show c.gain.stages[k].ambient = none
  rw [hgain]
  exact congrArg GainStage.ambient (ofFn_get _ k)

theorem completeAmbient_ram (hw : s.ram.wf = true) (hb : ceilingsBounded s.gain.stages) (m : Ambient) :
    (s.completeAmbient m).ram.wf = true ∧
      (s.scanner.hasInFlight m.slot = true → s.ram.slotReads m.slot slotTaken = true →
        slotHolds (s.completeAmbient m).ram m.slot 3 0 m.completedResults) := by
  have hram : (s.completeAmbient m).ram = ((s.tableTaken m).unmuted.complete m.slot m.completedResults).ram := by
    rw [completeAmbient_eq hb]
    rfl
  obtain ⟨hr, hc⟩ := tableTaken_unmuted m s
  rw [hram]
  rw [← hr] at hw ⊢
  rw [← hc]
  exact ⟨(complete_ram hw m.slot m.completedResults).1,
    fun hf ht => complete_slot hw hf ht (ambientResults_placed _ _ _ _)⟩

/-- R152: an entry of the table that a completion writes, and one that it keeps. -/
theorem takeAmbient_entry (b : BookStore) (m : Ambient) (st : Station) :
    (m.mask.getLsbD st.val = true ∧ m.dur ≤ 2 * m.got[st].count →
        (b.takeAmbient m).ambA[st] = m.got[st].sumA / m.got[st].count ∧
          (b.takeAmbient m).ambC[st] = m.got[st].sumC / m.got[st].count) ∧
      (¬ (m.mask.getLsbD st.val = true ∧ m.dur ≤ 2 * m.got[st].count) →
        (b.takeAmbient m).ambA[st] = b.ambA[st] ∧ (b.takeAmbient m).ambC[st] = b.ambC[st]) := by
  unfold BookStore.takeAmbient
  dsimp only
  rw [ofFn_get, ofFn_get, ← qualifies_iff]
  exact ⟨fun h => ⟨if_pos h, if_pos h⟩, fun h => ⟨if_neg h, if_neg h⟩⟩

/-! ### The rest of the closure -/

theorem Noticed.driveGain {m : Memory} {n : BitVec 10} (h : Noticed m n s) : Noticed m n s.driveGain := by
  have hramp : s.rampAll.ram = s.ram ∧ s.rampAll.log = s.log := by
    unfold State.rampAll
    split <;> exact ⟨rfl, rfl⟩
  have h1 : Noticed m n s.rampAll := h.congr hramp.1 (by rw [hramp.2])
  have h2 : Noticed m n s.rampAll.offerAll := forStages_preserves (Noticed m n) _ (fun _ _ ht => ht.congr) _ h1
  have h3 : Noticed m n s.rampAll.offerAll.logClosure := h2.congr (by simp) (logClosure_frame _).1
  rw [driveGain_eq]
  exact forStages_preserves (Noticed m n) _ (fun k _ ht => ht.stageConditions k) _ h3

/-- R40, R49: the ramp keeps the terms. -/
theorem rampAll_ambient (s : State) (k : Stage) : s.rampAll.gain.stages[k].ambient = s.gain.stages[k].ambient := by
  cases hc : s.gain.cfg with
  | none =>
    have he : s.rampAll = s := by
      unfold State.rampAll
      rw [hc]
    rw [he]
  | some c =>
    rw [rampAll_stage hc]
    rfl

/-- What a closure leaves of the measurement, the book, the scanner, the ambient-mute terms and the RAM is what the measurement's part
leaves of them, in a state `v` that holds what was held before the closure. -/
theorem closure_measurement (h : s.Closes t) :
    ∃ v : State, v.ram = s.ram ∧ v.gain = s.gain ∧ v.book = s.book ∧ v.scanner = s.scanner ∧ v.acc.ambient = s.acc.ambient ∧
      t.acc = v.ambientClosure.acc ∧ t.book = v.ambientClosure.book ∧ t.scanner = v.ambientClosure.scanner ∧
      (∀ k : Stage, t.gain.stages[k].ambient = v.ambientClosure.gain.stages[k].ambient) ∧
      (v.ambientClosure.ram.wf = true → keepsOutside inNoticeQueue v.ambientClosure.ram t.ram) := by
  obtain ⟨-, -, -, hram, hgain, -, -, -, hbook, hscan, -⟩ := advanceRest_keeps s.shutRound
  obtain ⟨-, -, -, -, -, -, hamb⟩ := frame_iff.1 (advanceRest_frame s.shutRound)
  obtain ⟨q, hq⟩ := (closes_probesOnly h).rest
  rw [closeRound_eq] at hq
  unfold State.beforeDrive at hq
  generalize s.shutRound.advanceRest = v at *
  refine ⟨v, hram, hgain, hbook, hscan, hamb, ?_⟩
  generalize v.ambientClosure = w at *
  obtain ⟨-, -, -, dacc, -, -, dbook, dscan, -⟩ := driveGain_keeps w
  have dgain := driveGain_gain w
  have hnote : w.ram.wf = true → keepsOutside inNoticeQueue w.ram w.driveGain.ram := fun hw => (Noticed.refl hw).driveGain.keeps
  generalize w.driveGain = x at *
  obtain ⟨-, -, -, cram, cacc, cgain, -, -, cbook, cscan, -⟩ := countProbes_keeps x
  generalize x.countProbes = y at *
  rw [hq]
  refine ⟨cacc.trans dacc, cbook.trans dbook, cscan.trans dscan, fun k => ?_, fun hw => ?_⟩
  · show y.gain.stages[k].ambient = _
    rw [cgain, dgain]
    exact rampAll_ambient w k
  · show keepsOutside inNoticeQueue w.ram y.ram
    rw [cram]
    exact hnote hw

/-! ### O42 -/

/-- R150, R152: the closure at which the last measuring round is counted. -/
theorem closure_completes (hw : s.ram.wf = true) (hb : ceilingsBounded s.gain.stages) (h : s.Closes t)
    (hp : s.acc.ambient.phase = .measuring) (h1 : s.acc.ambient.measure = 1) :
    let m := s.acc.ambient
    let updates := fun (st : Station) => m.mask.getLsbD st.val = true ∧ m.dur ≤ 2 * m.got[st].count
    t.acc.ambient.phase = .none ∧ (∀ k : Stage, t.gain.stages[k].ambient = none) ∧
      t.book.working = s.book.working ∧ t.book.area = s.book.area ∧
      (∀ st : Station,
        (updates st → t.book.ambA[st] = m.got[st].sumA / m.got[st].count ∧
          t.book.ambC[st] = m.got[st].sumC / m.got[st].count) ∧
        (¬ updates st → t.book.ambA[st] = s.book.ambA[st] ∧ t.book.ambC[st] = s.book.ambC[st])) ∧
      (s.scanner.hasInFlight m.slot = true →
        s.ram.badAt (slotAddr m.slot) = false → s.ram.readLe (slotAddr m.slot) 1 = 2 →
        ∃ mask, slotHolds t.ram m.slot 3 0 [⟨0x20, 1, 1⟩, ⟨0x21, 1, 5 - m.settle⟩, ⟨0x22, 2, m.dur⟩, ⟨0x24, 2, mask⟩] ∧
          mask < 65536 ∧ ∀ st : Station, bit mask st.val = true ↔ updates st) ∧
      t.scanner =
        { s.scanner with inFlight := s.scanner.inFlight.filter fun f => decide (f.slot ≠ m.slot) } := by
  obtain ⟨v, vram, vgain, vbook, vscan, vamb, tacc, tbook, tscan, tgain, tram⟩ := closure_measurement h
  rw [← vamb] at hp h1 ⊢
  have hx : v.ambientClosure = (v.withAmbient v.acc.ambient.counted).completeAmbient v.acc.ambient.counted := by
    rw [ambientClosure_measuring hp, if_pos (by omega)]
  rw [← vgain] at hb
  rw [← vram] at hw
  obtain ⟨xphase, xbook, xscan, xgain⟩ := completeAmbient_frame (s := v.withAmbient v.acc.ambient.counted) hb v.acc.ambient.counted
  obtain ⟨xwf, xslot⟩ := completeAmbient_ram (s := v.withAmbient v.acc.ambient.counted) hw hb v.acc.ambient.counted
  have hb1 : (v.withAmbient v.acc.ambient.counted).book = s.book := vbook
  have hs1 : (v.withAmbient v.acc.ambient.counted).scanner = s.scanner := vscan
  have hr1 : (v.withAmbient v.acc.ambient.counted).ram = s.ram := vram
  rw [hb1] at xbook
  rw [hs1] at xscan
  rw [hs1, hr1] at xslot
  rw [← hx] at xphase xbook xscan xgain xwf xslot
  rw [xbook] at tbook
  rw [xscan] at tscan
  have hmeasured : v.acc.ambient.counted.measured = v.acc.ambient.dur := if_pos hp
  have hresults : v.acc.ambient.counted.completedResults =
      [⟨0x20, 1, 1⟩, ⟨0x21, 1, 5 - v.acc.ambient.settle⟩, ⟨0x22, 2, v.acc.ambient.dur⟩,
        ⟨0x24, 2, v.acc.ambient.counted.updatedMask⟩] := by
    unfold Ambient.completedResults
    rw [hmeasured]
    rfl
  refine ⟨by rw [tacc]; exact xphase, fun k => (tgain k).trans (xgain k), by rw [tbook]; rfl, by rw [tbook]; rfl, fun st => ?_,
    fun hf hbad hread => ?_, tscan⟩
  · rw [tbook]
    exact takeAmbient_entry s.book v.acc.ambient.counted st
  · have hold := xslot hf (slotReads_iff.2 ⟨hbad, hread⟩)
    have hkeep := tram xwf
    refine ⟨v.acc.ambient.counted.updatedMask, ?_, updatedMask_lt _, fun st => ?_⟩
    · rw [← hresults]
      exact slotHolds_congr (ambientResults_placed _ _ _ _) (fun a h1 h2 => (hkeep a (slot_not_queue _ h1 h2)).1) hold
    · rw [bit_updatedMask]
      exact qualifies_iff _ st

/-- R150: a closure at which the measurement goes on with the record `m`. -/
theorem closure_counts (h : s.Closes t) (m : Ambient)
    (hm : ∀ v : State, v.acc.ambient = s.acc.ambient → v.ambientClosure = v.withAmbient m) :
    t.acc.ambient = m ∧ t.book = s.book := by
  obtain ⟨v, -, -, vbook, -, vamb, tacc, tbook, -⟩ := closure_measurement h
  rw [hm v vamb] at tacc tbook
  exact ⟨congrArg Accumulator.ambient tacc, tbook.trans vbook⟩

/-- Settles O42. -/
theorem abortAmbientEndsTheMeasurement : Obligations.AbortAmbientEndsTheMeasurement := by
  unfold Obligations.AbortAmbientEndsTheMeasurement
  refine ⟨fun s t hw hb h => ⟨fun hp => ?_, fun hp h1 => ?_, fun hp h1 => ?_, fun hp h1 => ?_, fun hp h1 => ?_⟩,
    fun s i p hw hb ht => ⟨fun hp => ?_, fun hp hm => ?_⟩⟩
  · refine closure_counts h _ fun v hv => ?_
    rw [ambientClosure_none (by rw [hv]; exact hp), ← hv]
    rfl
  · refine closure_counts h _ fun v hv => ?_
    rw [← hv] at hp h1 ⊢
    rw [ambientClosure_settling hp, if_neg (by omega)]
  · refine closure_counts h _ fun v hv => ?_
    rw [← hv] at hp h1 ⊢
    rw [ambientClosure_settling hp, if_pos (by omega)]
  · refine closure_counts h _ fun v hv => ?_
    rw [← hv] at hp h1 ⊢
    rw [ambientClosure_measuring hp, if_neg (by omega)]
  · exact closure_completes hw hb h hp h1
  · exact ⟨_, congrArg Host.Outcome.next (takeKind_refused ht _ (serveAbortAmbient_refused (s := s.atSlot p) hp (s.copyOf i))),
      close_answered hw i p (state := 4) (code := 5) (results := []) (by simp [placed]) (by decide) (by decide)⟩
  · exact ⟨_, congrArg Host.Outcome.next (takeKind_done ht _ (serveAbortAmbient_done (s := s.atSlot p) hp (s.copyOf i))),
      aborted_after hw hb (nextTaken_not_inFlight ht.1) hm p⟩

end Sys2Proof.Machine

/-! SUPPORT. Requests refused before their work (R170), and O33. -/

namespace Sys2Proof.Machine

variable {s : State} {i : Slot} {p : Scan}

/-! ### Slots that REQUEST_BAD_KIND refuses (R170) -/

/-- Table 7-8: the kind bytes that name no kind. -/
theorem ofByte_unknown {v : Nat} (h : v = 0 ∨ 14 < v) : RequestKind.ofByte v = none := by
  unfold RequestKind.ofByte
  split
  case h_15 => rfl
  all_goals omega

theorem slotKind_parity (h : ∃ a, slotAddr i ≤ a ∧ a < slotAddr i + 64 ∧ s.ram.badAt a = true) :
    s.ram.slotKind i = .bad .parity :=
  if_pos ((parityError_iff _ _ _).2 h)

theorem slotKind_unknown (h : ¬ ∃ a, slotAddr i ≤ a ∧ a < slotAddr i + 64 ∧ s.ram.badAt a = true)
    (hk : s.param i 0x01 1 = 0 ∨ 14 < s.param i 0x01 1) : s.ram.slotKind i = .bad .badKind := by
  unfold Memory.slotKind
  rw [if_neg fun hp => h ((parityError_iff _ _ _).1 hp), copyKind_copy, ofByte_unknown hk]

theorem takeKind_bad {code : ResultCode} (h : s.nextTaken = some (i, p)) (hk : s.ram.slotKind i = .bad code) (o : Open) :
    s.takeKind o SlotKind.isBad i = (s.atSlot p).close i (s.copyOf i) 4 code.code [] := by
  unfold State.takeKind
  rw [h]
  dsimp only
  rw [hk, if_pos ⟨rfl, rfl⟩]
  unfold State.takeSlot
  rw [hk]
  exact markInFlight_of_ne (r := .refused code []) (by simp) _ _ _

/-! ### Requests that need RUNNING -/

/-- The kinds that every run state but RUNNING refuses with NOT_RUNNING (R80, R132, R137, R143, R149). -/
def RequestKind.needsRunning (k : RequestKind) : Prop :=
  k = .restartSchedule ∨ k = .resumeSchedule ∨ k = .swapBook ∨ k = .measureAmbient ∨ k = .loopTest

theorem serve_notRunning {k : RequestKind} (hk : k.needsRunning) (h : s.run.state ≠ .running) (o : Open) (i : Slot) (copy : List Byte) :
    serve o i copy s k = (s, .refused .notRunning []) := by
  rcases hk with rfl | rfl | rfl | rfl | rfl <;> exact if_pos h

/-- R170: what a refusal that writes its code and nothing else leaves. -/
theorem refused_answered (hw : s.ram.wf = true) {c : Instr} {t : State} {code : ResultCode} (hc : exec c s = .next t)
    (ht : t = (s.atSlot p).close i (s.copyOf i) 4 code.code []) :
    ∃ t, exec c s = .next t ∧ s.Answered t i 4 code.code [] ∧ t = s.afterScanOnly t p := by
  subst ht
  exact ⟨_, hc, close_answered hw i p (by simp [placed]) (by decide) (by cases code <;> decide)⟩

/-- Settles O33: what the slot is read as decides, before any block is asked. -/
theorem requestsRefusedBeforeTheirWork : Obligations.RequestsRefusedBeforeTheirWork := by
  unfold Obligations.RequestsRefusedBeforeTheirWork
  intro s i p hw hn
  have hidle : ∀ {k : RequestKind}, s.run.state = .idle → k.needsRunning → s.ram.slotKind i = .kind k → ∀ o : Open,
      s.takeKind o (SlotKind.is k) i = (s.atSlot p).close i (s.copyOf i) 4 ResultCode.notRunning.code [] :=
    fun hr hk hs o => takeKind_refused ⟨hn, hs⟩ o
      (serve_notRunning (s := s.atSlot p) hk (by rw [show (s.atSlot p).run = s.run from rfl, hr]; decide) o i _)
  refine ⟨fun hp => refused_answered (code := .parity) hw rfl (takeKind_bad hn (slotKind_parity hp) _),
    fun hp hk => refused_answered (code := .badKind) hw rfl (takeKind_bad hn (slotKind_unknown hp hk) _),
    fun hr => ⟨fun hs => ?_, fun hs u => ?_, fun hs => ?_, fun hs => ?_, fun hs => ?_⟩⟩ <;>
  exact refused_answered (code := .notRunning) hw rfl (hidle hr (by simp [RequestKind.needsRunning]) hs _)

end Sys2Proof.Machine

/-! SUPPORT. A loop's change handed on (R77), LOOP_TEST (R80), and O44. -/

namespace Sys2Proof.Machine

variable {s t u : State} {i : Slot} {p : Scan}

/-! ### What a report leaves (R180) -/

theorem report_only (cls : CondClass) (sub : Fin 16) (now : Bool) (v : Nat) (s : State) :
    s.report cls sub now v =
      { s with ram := (s.report cls sub now v).ram, notices := (s.report cls sub now v).notices } := by
  unfold State.report
  split
  · rfl
  · dsimp only
    split
    · rw [post_only]
    · rfl

/-- R180: the condition states replaced. -/
def State.withConds (c : Vector (Vector Bool 16) 9) (s : State) : State := { s with notices := { s.notices with conds := c } }

/-- R178, R180: a report writes the next notice at most. -/
theorem keeps_report (h : s.ram.wf = true) (cls : CondClass) (sub : Fin 16) (now : Bool) (v : Nat) :
    keepsOutside (inNextNotice s.notices) s.ram (s.report cls sub now v).ram := by
  unfold State.report
  split
  · exact keepsOutside_refl _ _
  · dsimp only
    split
    · exact keeps_post (s := s.withConds (upd s.notices.conds cls.ix (upd s.notices.conds[cls.ix] sub now))) h _ _ _
    · exact keepsOutside_refl _ _

/-! ### A loop's values changed (R77) -/

theorem modLoop_only (l : Loop) (f : LoopLine → LoopLine) (s : State) :
    s.modLoop l f =
      { s.setLoop l (f (s.loopLine l)) with ram := (s.modLoop l f).ram, notices := (s.modLoop l f).notices } :=
  report_only _ _ _ _ (s.setLoop l (f (s.loopLine l)))

/-- R77: a loop whose values change is in LOOP_DOWN while its state is DOWN. -/
theorem modLoop_cond (l : Loop) (f : LoopLine → LoopLine) (s : State) :
    (s.modLoop l f).notices.conds[CondClass.ix .loopDown][loopSubject l] = ((f (s.loopLine l)).state == .down) := by
  unfold State.modLoop State.reportLoop
  rw [report_cond_same, loopLine_setLoop, if_pos rfl]

theorem wf_modLoop (h : s.ram.wf = true) (l : Loop) (f : LoopLine → LoopLine) : (s.modLoop l f).ram.wf = true :=
  wf_report (s := s.setLoop l _) h _ _ _ _

theorem keeps_modLoop (h : s.ram.wf = true) (l : Loop) (f : LoopLine → LoopLine) :
    keepsOutside (inNextNotice s.notices) s.ram (s.modLoop l f).ram :=
  keeps_report (s := s.setLoop l _) h _ _ _ _

/-! ### The checks of LOOP_TEST (R80) -/

/-- R80: a loop out of service for a test. -/
def LoopLine.testing (v : LoopLine) : LoopLine := { v with state := .testing }

/-- R80: the test of a loop begun, no round of it having opened. -/
def LoopTest.start (l : Loop) (i : Slot) : LoopTest :=
  { loop := l, slot := i, rounds := 0, frame := 0, inFlight := false, intact := 0 }

/-- R80: the loop taken out and its test put in the Poller's record. -/
def State.beginTest (l : Loop) (i : Slot) (s : State) : State :=
  let t := s.modLoop l LoopLine.testing
  { t with poller := { t.poller with test := some (.start l i) } }

section

variable (hr : s.run.state = .running) {copy : List Byte}

include hr

theorem serveLoopTest_bad (h : 1 < field copy 0x04 1) (i : Slot) : serveLoopTest i copy s = (s, .refused .badField []) := by
  have hl : loopOf (field copy 0x04 1) = none := (if_neg (by omega)).trans (if_neg (by omega))
  unfold serveLoopTest
  rw [if_neg (by simp [hr]), hl]

variable {l : Loop} (hl : loopOf (field copy 0x04 1) = some l)

include hl

theorem serveLoopTest_busy (h : s.poller.test.isSome = true) (i : Slot) : serveLoopTest i copy s = (s, .refused .busy []) := by
  unfold serveLoopTest
  rw [if_neg (by simp [hr]), hl]
  exact if_pos h

theorem serveLoopTest_conflict (h : ¬ s.poller.test.isSome = true) (ho : (s.loopLine (otherLoop l)).state ≠ .good) (i : Slot) :
    serveLoopTest i copy s = (s, .refused .conflict []) := by
  unfold serveLoopTest
  rw [if_neg (by simp [hr]), hl]
  exact (if_neg h).trans (if_pos ho)

theorem serveLoopTest_taken (h : ¬ s.poller.test.isSome = true) (ho : ¬ (s.loopLine (otherLoop l)).state ≠ .good) (i : Slot) :
    serveLoopTest i copy s = (s.beginTest l i, .taken) := by
  unfold serveLoopTest
  rw [if_neg (by simp [hr]), hl]
  exact (if_neg h).trans (if_neg ho)

end

/-! ### The loop taken out (R77, R80) -/

theorem beginTest_only (l : Loop) (i : Slot) (s : State) :
    s.beginTest l i =
      { s with
        ram := (s.beginTest l i).ram
        notices := (s.beginTest l i).notices
        poller :=
          { s.poller with
            loops := upd s.poller.loops (loopIx l) (s.loopLine l).testing
            test := some (.start l i) } } := by
  unfold State.beginTest
  rw [modLoop_only]
  rfl

/-- R170: a slot TAKEN by a block that has written the next notice at most. -/
theorem keepTaken_nextNotice (hw : u.ram.wf = true) (hk : keepsOutside (inNextNotice s.notices) s.ram u.ram) (i : Slot)
    (copy : List Byte) :
    (u.keepTaken i copy).ram.readLe (slotAddr i) 1 = 2 ∧
      keepsOutside (fun a => a = slotAddr i ∨ inNextNotice s.notices a) s.ram (u.keepTaken i copy).ram :=
  ⟨(keepTaken_noticed (Noticed.refl hw) i copy).1,
    keepsOutside_trans hk (keeps_writeLe hw _ _ _) (fun _ ha => .inr ha) fun a ha => .inl (by omega)⟩

/-- R77, R80: the loop under test once its slot is TAKEN. -/
theorem testing_after (hw : s.ram.wf = true) (l : Loop) (i : Slot) (p : Scan) :
    let t := ((s.atSlot p).beginTest l i).keepTaken i (s.copyOf i)
    t.poller =
        { s.poller with
          loops := upd s.poller.loops (loopIx l) { s.loopLine l with state := .testing }
          test := some { loop := l, slot := i, rounds := 0, frame := 0, inFlight := false, intact := 0 } } ∧
      t.notices.conds[CondClass.ix .loopDown][loopSubject l] = false ∧ t.ram.readLe (slotAddr i) 1 = 2 ∧
      keepsOutside (fun a => a = slotAddr i ∨ inNextNotice s.notices a) s.ram t.ram ∧
      t = { s with
        ram := t.ram
        poller := t.poller
        notices := t.notices
        scanner :=
          { s.scanner with
            scan := some p
            inFlight := { slot := i, copy := s.ram.read (slotAddr i) 64 } :: s.scanner.inFlight } } := by
  have hcond : ((s.atSlot p).beginTest l i).notices.conds[CondClass.ix .loopDown][loopSubject l] = false :=
    modLoop_cond l LoopLine.testing (s.atSlot p)
  obtain ⟨hread, hkeep⟩ := keepTaken_nextNotice (s := s) (u := (s.atSlot p).beginTest l i)
    (wf_modLoop (s := s.atSlot p) hw l LoopLine.testing) (keeps_modLoop (s := s.atSlot p) hw l LoopLine.testing) i (s.copyOf i)
  rw [beginTest_only] at hcond hread hkeep ⊢
  exact ⟨rfl, hcond, hread, hkeep, rfl⟩

/-- R80: the loop that a LOOP_TEST names. -/
theorem loopOf_number {v : Nat} {l : Loop} (h : v = if l = .a then 0 else 1) : loopOf v = some l := by
  subst h
  cases l <;> rfl

/-- Settles O44. -/
theorem loopTestTakesTheLoop : Obligations.LoopTestTakesTheLoop := by
  unfold Obligations.LoopTestTakesTheLoop
  intro s i p hw hr ht
  have hloop : field (s.copyOf i) 0x04 1 = s.param i 0x04 1 := field_copy s i _ _ (by omega)
  dsimp only
  rw [← hloop]
  refine ⟨fun hbad => ?_, fun l hn => ?_⟩
  · exact refused_answered (code := .badField) hw rfl (takeKind_refused ht _ (serveLoopTest_bad (s := s.atSlot p) hr hbad i))
  · have hl := loopOf_number hn
    split
    · next hbusy =>
      exact refused_answered (code := .busy) hw rfl (takeKind_refused ht _ (serveLoopTest_busy (s := s.atSlot p) hr hl hbusy i))
    · next hbusy =>
      split
      · next hgood =>
        exact refused_answered (code := .conflict) hw rfl
          (takeKind_refused ht _ (serveLoopTest_conflict (s := s.atSlot p) hr hl hbusy hgood i))
      · next hgood =>
        exact ⟨_, congrArg Host.Outcome.next (takeKind_taken ht _ (serveLoopTest_taken (s := s.atSlot p) hr hl hbusy hgood i)),
          testing_after hw l i p⟩

end Sys2Proof.Machine

/-! SUPPORT. The TEST frames and the verdict on the loop (R81, R82), and O51. -/

namespace Sys2Proof.Machine

variable {s : State} {q : LoopTest}

/-! ### A TEST frame that has ended (R81) -/

/-- R81: the test with the frame in flight ended, intact or not. -/
def LoopTest.ended (q : LoopTest) (one : Nat) : LoopTest := { q with inFlight := false, intact := q.intact + one }

theorem sendNext_ended (q : LoopTest) (one : Nat) :
    (q.ended one).sendNext =
      if q.frame < 8 * q.rounds then { q with frame := q.frame + 1, inFlight := true, intact := q.intact + one }
      else { q with inFlight := false, intact := q.intact + one } := by
  unfold LoopTest.sendNext LoopTest.ended
  simp only [true_and]

theorem endTestFrame_next (h : q.frame ≠ 16) (s : State) (intact : Bool) :
    s.endTestFrame q intact = { s with poller := { s.poller with test := some (q.ended (boolCode intact)).sendNext } } :=
  if_neg h

theorem endTestFrame_last (h : q.frame = 16) (s : State) (intact : Bool) :
    s.endTestFrame q intact = s.completeTest (q.ended (boolCode intact)) :=
  if_pos h

/-! ### The verdict (R82) -/

theorem complete_only (j : Slot) (results : List Result) (s : State) :
    s.complete j results =
      { s with
        ram := (s.complete j results).ram
        notices := (s.complete j results).notices
        scanner := s.scanner.forget j } := by
  have hscan := complete_forgets j results s
  cases h : s.scanner.hasInFlight j with
  | true =>
    obtain ⟨copy, hc⟩ := complete_of_inFlight h results
    rw [hc, notifyDone_only]
  | false =>
    rw [complete_of_none h] at hscan ⊢
    rw [← hscan]

/-- R82: the state with no test in flight. -/
def State.untested (s : State) : State := { s with poller := { s.poller with test := none } }

theorem testResults_placed (l : Loop) (pass : Bool) (intact : Nat) : placed 4 (testResults l pass intact) := by
  simp [placed, testResults]

/-- R171, R82: the completed slot and the loop once the last TEST frame has ended. -/
theorem completeTest_after (hw : s.ram.wf = true) (q : LoopTest) :
    let pass := decide (q.intact = 16)
    let t := s.completeTest q
    t.poller =
        { s.poller with
          test := none
          loops := upd s.poller.loops (loopIx q.loop) ((s.loopLine q.loop).afterTest pass) } ∧
      t.scanner = s.scanner.forget q.slot ∧
      (s.scanner.hasInFlight q.slot = true → s.ram.slotReads q.slot slotTaken = true →
        slotHolds t.ram q.slot 3 0 (testResults q.loop pass q.intact)) ∧
      t = { s with ram := t.ram, notices := t.notices, poller := t.poller, scanner := t.scanner } := by
  have hplaced := testResults_placed q.loop (decide (q.intact = 16)) q.intact
  have hslot := fun hf ht => complete_slot (s := s.untested) hw (j := q.slot) hf ht hplaced
  have hwf := (complete_ram (s := s.untested) hw q.slot (testResults q.loop (decide (q.intact = 16)) q.intact)).1
  have honly := complete_only q.slot (testResults q.loop (decide (q.intact = 16)) q.intact) s.untested
  dsimp only
  rw [show s.completeTest q = (s.untested.complete q.slot (testResults q.loop (decide (q.intact = 16)) q.intact)).modLoop q.loop
    (LoopLine.afterTest (decide (q.intact = 16))) from rfl]
  generalize s.untested.complete q.slot (testResults q.loop (decide (q.intact = 16)) q.intact) = u at *
  have hkeep := keeps_modLoop hwf q.loop (LoopLine.afterTest (decide (q.intact = 16)))
  have hhold := fun hf ht => slotHolds_congr hplaced
    (fun a h1 h2 => (hkeep a fun hq => slot_not_queue q.slot h1 h2 (inNextNotice_queue hq)).1) (hslot hf ht)
  rw [modLoop_only] at hhold ⊢
  rw [honly] at hhold ⊢
  exact ⟨rfl, rfl, hhold, rfl⟩

/-- R82: the loop's values by the verdict. -/
theorem afterTest_eq (n : Nat) (v : LoopLine) :
    v.afterTest (decide (n = 16)) =
      if n = 16 then { v with state := .good, fails := 0 } else { v with state := .down, fails := 8, probe := 10 } := by
  simp only [LoopLine.afterTest, decide_eq_true_eq]

theorem testResults_eq (l : Loop) (n : Nat) :
    testResults l (decide (n = 16)) n = [⟨0x20, 1, loopCode l⟩, ⟨0x21, 1, if n = 16 then 1 else 2⟩, ⟨0x22, 1, n⟩] := by
  simp only [testResults, decide_eq_true_eq]

/-! ### The events that end a TEST frame -/

theorem loopFrame_test (hq : s.poller.test = some q) (hf : q.inFlight = true) (hr : 0 < q.rounds) (bytes : List Byte) :
    s.loopFrame q.loop bytes = s.endTestFrame q (decide (bytes = testFrame q.frame)) := by
  have hback : s.poller.loopedBack q.loop = some q := by
    unfold Poller.loopedBack
    rw [hq]
    exact if_pos ⟨rfl, hr⟩
  unfold State.loopFrame
  rw [hback]
  exact if_pos hf

theorem testExpiry_test (hq : s.poller.test = some q) (hf : q.inFlight = true) : s.testExpiry = s.endTestFrame q false := by
  unfold State.testExpiry
  rw [hq]
  exact if_pos hf

theorem testExpiry_none (hq : s.poller.test = none) : s.testExpiry = s := by
  unfold State.testExpiry
  rw [hq]

/-- No frame at all is not the TEST frame sent. -/
theorem nil_ne_testFrame (n : Nat) : decide (([] : List Byte) = testFrame n) = false :=
  decide_eq_false fun h => by
    have hlen := congrArg List.length h
    rw [testFrame, length_sealFrame] at hlen
    cases hlen

/-- R81, R82: what a command that ends the TEST frame in flight leaves. -/
theorem testFrame_ends (hw : s.ram.wf = true) {c : Instr} {intact : Bool} (hc : exec c s = .next (s.endTestFrame q intact)) {one : Nat}
    (ho : boolCode intact = one) :
    let n := q.intact + one
    (q.frame ≠ 16 →
      exec c s =
        .next { s with
          poller := { s.poller with
            test := some (
              if q.frame < 8 * q.rounds then { q with frame := q.frame + 1, inFlight := true, intact := n }
              else { q with inFlight := false, intact := n }) } }) ∧
    (q.frame = 16 →
      let results : List Result := [⟨0x20, 1, loopCode q.loop⟩, ⟨0x21, 1, if n = 16 then 1 else 2⟩, ⟨0x22, 1, n⟩]
      let taken := s.ram.badAt (slotAddr q.slot) = false ∧ s.ram.readLe (slotAddr q.slot) 1 = 2
      ∃ t, exec c s = .next t ∧
        t.poller =
          { s.poller with
            test := none
            loops :=
              upd s.poller.loops (loopIx q.loop)
                (if n = 16 then { s.loopLine q.loop with state := .good, fails := 0 }
                else { s.loopLine q.loop with state := .down, fails := 8, probe := 10 }) } ∧
        t.scanner =
          { s.scanner with inFlight := s.scanner.inFlight.filter fun f => decide (f.slot ≠ q.slot) } ∧
        (s.scanner.hasInFlight q.slot = true → taken → slotHolds t.ram q.slot 3 0 results) ∧
        t = { s with ram := t.ram, notices := t.notices, poller := t.poller, scanner := t.scanner }) := by
  subst ho
  refine ⟨fun h => ?_, fun h => ?_⟩
  · rw [hc, endTestFrame_next h, sendNext_ended]
  · obtain ⟨hpoll, hscan, hhold, honly⟩ := completeTest_after hw (q.ended (boolCode intact))
    rw [afterTest_eq] at hpoll
    rw [testResults_eq] at hhold
    exact ⟨_, hc.trans (congrArg Host.Outcome.next (endTestFrame_last h s intact)), hpoll, hscan,
      fun hf ht => hhold hf (slotReads_iff.2 ht), honly⟩

/-- Settles O51. -/
theorem testFramesJudgeTheLoop : Obligations.TestFramesJudgeTheLoop := by
  unfold Obligations.TestFramesJudgeTheLoop
  refine fun s => ⟨fun hn => congrArg Host.Outcome.next (testExpiry_none hn), fun q hq hf hr => ?_⟩
  intro ends hw
  refine ⟨testFrame_ends (c := .testFrameTimeout) hw (congrArg Host.Outcome.next (testExpiry_test hq hf)) rfl,
    testFrame_ends (c := .loopFrameSilence q.loop) hw (congrArg Host.Outcome.next (loopFrame_test hq hf hr [])) ?_,
    fun bytes => testFrame_ends (c := .loopFrameReceived q.loop bytes) hw
      (congrArg Host.Outcome.next (loopFrame_test hq hf hr bytes)) ?_⟩
  · rw [nil_ne_testFrame]
    rfl
  · simp only [boolCode, decide_eq_true_eq]
    rfl

end Sys2Proof.Machine

/-! SUPPORT. Controllability re-evaluated (R98, R99), the acknowledgement of a command (R87, R90), and O52. -/

namespace Sys2Proof.Machine

variable {s t : State} {k : Stage} {l : Link}

/-! ### Controllability and STAGE_UNCONTROLLED (R37, R98, R99) -/

/-- From `s` to `t` a stage's controllability is `now`, and no ring has moved. -/
structure Controls (k : Stage) (now : Bool) (s t : State) : Prop where
  ctrl : t.acc.ctrl = upd s.acc.ctrl k now
  rings : ∀ st : Station, t.acc.accts[st].ring = s.acc.accts[st].ring ∧ t.acc.accts[st].n = s.acc.accts[st].n

theorem Controls.stageFive {now : Bool} (h : Controls k now s t) (st : Station) : Controls k now s (t.stageFive st) := by
  have ha := stageFive_acc st t
  refine ⟨by rw [ha]; exact h.ctrl, fun o => ?_⟩
  obtain ⟨hring, hn⟩ := h.rings o
  rw [← hring, ← hn, ha]
  dsimp only
  rw [upd_get]
  split
  · next he => subst he; exact ⟨rfl, rfl⟩
  · exact ⟨rfl, rfl⟩

theorem takeControllability_controls (k : Stage) (now : Bool) (s : State) : Controls k now s (s.takeControllability k now) := by
  unfold State.takeControllability
  refine forStations_preserves (Controls k now s) _ (fun st t ht => ?_) _ ⟨rfl, fun _ => ⟨rfl, rfl⟩⟩
  split
  · exact ht.stageFive st
  · exact ht

/-- R98: the accumulator once a stage's states have changed. -/
theorem reevaluateLink_controls (k : Stage) (s : State) : Controls k s.links.lines[k].controllable s (s.reevaluateLink k) := by
  have hacc : (s.reevaluateLink k).acc =
      (if s.acc.ctrl[k] = s.links.lines[k].controllable then s else s.takeControllability k s.links.lines[k].controllable).acc :=
    (report_keeps _ _ _ _ _).2.2.2.1
  have hcontrols : Controls k s.links.lines[k].controllable s
      (if s.acc.ctrl[k] = s.links.lines[k].controllable then s else s.takeControllability k s.links.lines[k].controllable) := by
    split
    · next h => exact ⟨by rw [← h, upd_self], fun _ => ⟨rfl, rfl⟩⟩
    · exact takeControllability_controls k _ s
  exact ⟨by rw [hacc]; exact hcontrols.ctrl, by rw [hacc]; exact hcontrols.rings⟩

/-- R99: STAGE_UNCONTROLLED once a stage's states have changed. -/
theorem reevaluateLink_cond (k : Stage) (s : State) :
    (s.reevaluateLink k).notices.conds[CondClass.ix .stageUncontrolled][stageSubject k] = s.links.lines[k].uncontrolled :=
  report_cond_same _ _ _ _ _

/-! ### The link after an acknowledgement (R90, R92) -/

/-- R98: an acknowledged link is controllable exactly with the limiter NORMAL. -/
theorem acknowledge_controllable (w : Nat) (l : Link) : (l.acknowledge (limiterOfWord w)).controllable = decide (w = 0) := by
  unfold Link.controllable Link.acknowledge limiterOfWord
  by_cases h0 : w = 0
  · simp [h0]
  · by_cases h1 : w = 1 <;> simp [h0, h1]

theorem acknowledge_uncontrolled (w : Nat) (l : Link) : (l.acknowledge (limiterOfWord w)).uncontrolled = decide (w ≠ 0) := by
  unfold Link.uncontrolled Link.acknowledge limiterOfWord
  by_cases h0 : w = 0
  · simp [h0]
  · by_cases h1 : w = 1 <;> simp [h0, h1]

/-- R92, R100: the pending value, sent or removed, leaves the link's states and marks alone. -/
theorem sendPending_keeps (starting : Bool) (k : Stage) (l : Link) :
    (l.sendPending starting k).state = l.state ∧ (l.sendPending starting k).failed = l.failed ∧
      (l.sendPending starting k).limiter = l.limiter ∧ (l.sendPending starting k).hold = l.hold ∧
      (l.sendPending starting k).charged = l.charged ∧ (l.sendPending starting k).pend = none := by
  unfold Link.sendPending
  split
  · next h => exact ⟨rfl, rfl, rfl, rfl, rfl, h⟩
  · split
    · exact ⟨rfl, rfl, rfl, rfl, rfl, rfl⟩
    · exact ⟨rfl, rfl, rfl, rfl, rfl, rfl⟩

theorem sendPending_none (h : l.pend = none) (starting : Bool) (k : Stage) : l.sendPending starting k = l := by
  unfold Link.sendPending
  rw [h]

/-- R100: in STARTING the pending value is removed. -/
theorem sendPending_starting {v : Nat} (h : l.pend = some v) (k : Stage) : l.sendPending true k = { l with pend := none } := by
  unfold Link.sendPending
  rw [h]
  rfl

/-- R92: the pending value goes out as a new command. -/
theorem sendPending_sends {v : Nat} (h : l.pend = some v) (htx : l.tx = none) (k : Stage) :
    l.Carries (l.sendPending false k) v ∧ (l.sendPending false k).tx = some (ceilingFrame k l.seq v) := by
  have he : l.sendPending false k = ({ l with pend := none } : Link).begin k v := by
    unfold Link.sendPending
    rw [h]
    rfl
  rw [he]
  refine ⟨⟨⟨_, rfl, rfl, rfl, rfl⟩, rfl, rfl⟩, ?_⟩
  unfold Link.begin
  dsimp only
  rw [htx]
  rfl

/-! ### The acknowledgement (R90) -/

/-- The link of stage `k` once the command has been acknowledged and the pending value taken. -/
def State.acknowledged (s : State) (k : Stage) (limiter : LimiterState) : Link :=
  (s.links.lines[k].acknowledge limiter).sendPending (s.run.state == .starting) k

theorem modLink_links (k : Stage) (f : Link → Link) (s : State) :
    (s.modLink k f).links = { s.links with lines := upd s.links.lines k (f s.links.lines[k]) } := rfl

theorem modLink_same (k : Stage) (f : Link → Link) (s : State) : (s.modLink k f).links.lines[k] = f s.links.lines[k] := by
  rw [modLink_line, if_pos rfl]

theorem acknowledge_links (k : Stage) (limiter : LimiterState) (s : State) :
    (s.acknowledge k limiter).links = { s.links with lines := upd s.links.lines k (s.acknowledged k limiter) } := by
  obtain ⟨-, -, -, -, -, hlinks, -⟩ := reevaluateLink_keeps k (s.modLink k (Link.acknowledge limiter))
  unfold State.acknowledge
  rw [modLink_links, hlinks, modLink_same, modLink_links, upd_upd]
  rfl

/-- R98, R99: what an acknowledgement makes of the accumulator and of the stage's condition. -/
theorem acknowledge_reevaluates (k : Stage) (w : Nat) (s : State) :
    Controls k (decide (w = 0)) s (s.acknowledge k (limiterOfWord w)) ∧
      (s.acknowledge k (limiterOfWord w)).notices.conds[CondClass.ix .stageUncontrolled][stageSubject k] = decide (w ≠ 0) := by
  have hcontrols := reevaluateLink_controls k (s.modLink k (Link.acknowledge (limiterOfWord w)))
  have hcond := reevaluateLink_cond k (s.modLink k (Link.acknowledge (limiterOfWord w)))
  rw [modLink_same, acknowledge_controllable] at hcontrols
  rw [modLink_same, acknowledge_uncontrolled] at hcond
  exact ⟨⟨hcontrols.ctrl, hcontrols.rings⟩, hcond⟩

/-! ### The frame judged (R87) -/

/-- Table 4-1: a sealed ACK read back on its link. -/
theorem parseAck_sealed (k : Stage) (n : Byte) {w : Nat} (hw : w < 65536) :
    parseAck k (sealFrame [0xC35A, k.val + 256 * n.toNat, w]) = some { echo := n, limiter := limiterOfWord w } := by
  have hk := k.isLt
  have hn := n.isLt
  have hwords : isWords [0xC35A, k.val + 256 * n.toNat, w] := by
    intro x hx
    simp only [List.mem_cons, List.not_mem_nil, or_false] at hx
    omega
  have hdiv : (k.val + 256 * n.toNat) / 256 = n.toNat := by omega
  rw [parseAck_sealFrame k hwords (by omega), hdiv, BitVec.ofNat_toNat, BitVec.setWidth_eq]

/-- R85, R87: a frame that ends with no command outstanding, or while the part transmits on the link, is discarded. -/
theorem judgeAck_discards (h : s.links.lines[k].out = none ∨ s.links.lines[k].tx.isSome = true) (frame : Option AckFrame) :
    s.judgeAck k frame = s := by
  unfold State.judgeAck
  split
  · rfl
  · rfl
  · next htx hout =>
    rw [htx, hout] at h
    rcases h with h | h <;> cases h

section

variable {c : Command} (htx : s.links.lines[k].tx = none) (hout : s.links.lines[k].out = some c) {f : AckFrame}

include htx hout

/-- R87: an ACK of another number before the expiry. -/
theorem judgeAck_other (hp : c.phase = .waiting) (hf : f.echo ≠ c.seq) : s.judgeAck k (some f) = s := by
  unfold State.judgeAck
  rw [htx, hout]
  dsimp only
  rw [hp]
  exact if_neg hf

/-- R87, R89: the ACK of the command that waits, before its expiry or after. -/
theorem judgeAck_matches (hp : c.phase = .waiting ∨ c.phase = .expired) (hf : f.echo = c.seq) :
    s.judgeAck k (some f) = s.acknowledge k f.limiter := by
  unfold State.judgeAck
  rw [htx, hout]
  dsimp only
  rcases hp with hp | hp <;> rw [hp] <;> exact if_pos hf

end

/-- Settles O52. -/
theorem acknowledgementEndsTheCommand : Obligations.AcknowledgementEndsTheCommand := by
  unfold Obligations.AcknowledgementEndsTheCommand
  intro s k w bytes hw
  refine ⟨fun h => congrArg Host.Outcome.next (judgeAck_discards h _), fun c htx hout hp => ⟨fun n hn hwait => ?_, ?_⟩⟩
  · exact congrArg Host.Outcome.next ((congrArg (s.judgeAck k) (parseAck_sealed k n hw)).trans (judgeAck_other htx hout hwait hn))
  · have hjudge : s.judgeAck k (parseAck k (sealFrame [0xC35A, k.val + 256 * c.seq.toNat, w])) = s.acknowledge k (limiterOfWord w) := by
      rw [parseAck_sealed k c.seq hw]
      exact judgeAck_matches htx hout hp rfl
    obtain ⟨hcontrols, hcond⟩ := acknowledge_reevaluates k w s
    obtain ⟨hrun, hclock, hregs, hgain, hpoll, hwalk, hbook, hscan, hlog, -⟩ := acknowledge_keeps k (limiterOfWord w) s
    obtain ⟨hstate, hfailed, hlimiter, hhold, hcharged, hpend⟩ :=
      sendPending_keeps (s.run.state == .starting) k (s.links.lines[k].acknowledge (limiterOfWord w))
    refine ⟨_, _, congrArg Host.Outcome.next hjudge, acknowledge_links k _ s, hstate, hfailed, hlimiter, hhold, hcharged, hpend, ?_,
      by rw [hcontrols.ctrl, upd_same], hcond, fun j hj => by rw [hcontrols.ctrl, upd_other _ _ _ _ hj], hcontrols.rings, hgain,
      hpoll, hwalk, hbook, hrun, hclock, hregs, hscan, hlog⟩
    unfold State.acknowledged
    cases hv : s.links.lines[k].pend with
    | none =>
      rw [sendPending_none (l := s.links.lines[k].acknowledge _) hv]
      exact ⟨rfl, rfl, htx⟩
    | some v =>
      dsimp only
      split
      · next hs =>
        rw [hs, beq_self_eq_true, sendPending_starting (l := s.links.lines[k].acknowledge _) hv]
        exact ⟨rfl, rfl⟩
      · next hs =>
        rw [beq_false_of_ne hs]
        exact sendPending_sends (l := s.links.lines[k].acknowledge _) hv htx k

end Sys2Proof.Machine

/-! SUPPORT. The end of a transmission (R64, R65, R78, R85, R89), the choice of a loop (R64), and O47. -/

namespace Sys2Proof.Machine

variable {s : State} {l : Loop} {k : Stage}

/-! ### The choice of a loop (R64) -/

theorem usable_iff (v : LoopLine) : v.usable = true ↔ v.state = .good ∨ v.state = .suspect := decide_eq_true_iff

/-- R64: whether a retry takes the loop other than its last one. -/
theorem alternates_iff (s : State) (prev : Loop) :
    (s.timing.alternate && (s.loopLine (otherLoop prev)).usable) = true ↔
      (∃ t, s.poller.timing = some t ∧ t.alternate = true) ∧
        ((s.loopLine (otherLoop prev)).state = .good ∨ (s.loopLine (otherLoop prev)).state = .suspect) := by
  rw [Bool.and_eq_true, usable_iff]
  refine and_congr_left' ?_
  unfold State.timing
  cases s.poller.timing <;> simp

theorem attemptLoop_congr {s t : State} (h : ∀ l, (t.loopLine l).state = (s.loopLine l).state)
    (ht : t.poller.timing = s.poller.timing) (e : Exchange) : t.attemptLoop e = s.attemptLoop e := by
  unfold State.attemptLoop
  split
  · exact firstLoop_congr h _
  · exact retryLoop_congr h ht _ _

/-! ### A line freed (R65) -/

/-- The state with no frame on the loop. -/
def State.freed (l : Loop) (s : State) : State := s.setLoop l { s.loopLine l with tx := none }

theorem freed_line (l m : Loop) (s : State) :
    (s.freed l).loopLine m = { s.loopLine m with tx := if m = l then none else (s.loopLine m).tx } := by
  unfold State.freed
  rw [loopLine_setLoop]
  split
  · next h => rw [h]
  · rfl

/-- R64: the choice of a loop reads no line. -/
theorem freed_attemptLoop (l : Loop) (e : Exchange) (s : State) : (s.freed l).attemptLoop e = s.attemptLoop e :=
  attemptLoop_congr (s := s) (t := s.freed l) (fun o => by rw [freed_line]) rfl e

theorem pollSent_none (h : (s.loopLine l).tx = none) : s.pollSent l = s := by
  unfold State.pollSent
  rw [h]

section

variable (h : (s.loopLine l).tx.isSome = true)

include h

theorem pollSent_exchange {e : Exchange} (he : s.poller.exch = some e) (hl : e.loop = l) : s.pollSent l = (s.freed l).attemptSent e := by
  obtain ⟨f, hf⟩ := Option.isSome_iff_exists.1 h
  unfold State.pollSent
  rw [hf]
  dsimp only
  rw [setLoop_poller_exch, he]
  exact if_pos hl

theorem pollSent_probe {b : Probe} (he : s.poller.exch = none) (hb : s.poller.probe = some b) (hl : b.loop = l) :
    s.pollSent l = (s.freed l).probeSent b := by
  obtain ⟨f, hf⟩ := Option.isSome_iff_exists.1 h
  unfold State.pollSent
  rw [hf]
  dsimp only
  rw [setLoop_poller_exch, setLoop_poller_probe, he, hb]
  exact if_pos hl

end

/-! ### The attempt whose line is free (R64, R65) -/

theorem putPoll_free (h : (s.loopLine l).tx = none) (addr : Nat) :
    s.putPoll l addr = (s.setLoop l { s.loopLine l with tx := some (pollFrame addr s.poller.roundNo) }, .sending) := by
  unfold State.putPoll
  dsimp only
  rw [h]

theorem putPoll_busy (h : (s.loopLine l).tx.isSome = true) (addr : Nat) : s.putPoll l addr = (s, .queued) := by
  obtain ⟨f, hf⟩ := Option.isSome_iff_exists.1 h
  unfold State.putPoll
  dsimp only
  rw [hf]

theorem attemptSent_queued {e : Exchange} (h : e.phase = .queued) (s : State) : s.attemptSent e = s.sendAttempt e := by
  unfold State.attemptSent
  rw [h]

/-- R65: the attempt whose last byte has been sent starts its timer. -/
theorem attemptSent_sending {e : Exchange} (h : e.phase = .sending) (s : State) :
    s.attemptSent e = { s with poller := { s.poller with exch := some { e with phase := .waiting } } } := by
  unfold State.attemptSent
  rw [h]

/-- R64, R65: a waiting attempt sent when the last byte before it has gone, on a loop whose line is free. -/
theorem freed_sendAttempt {e : Exchange} {m : Loop} (hm : s.attemptLoop e = m) (h : m = l ∨ (s.loopLine m).tx = none) :
    (s.freed l).sendAttempt e =
      { s with
        poller := { s.poller with
          loops := upd (upd s.poller.loops (loopIx l) { s.loopLine l with tx := none }) (loopIx m)
            { s.loopLine m with tx := some (pollFrame e.addr s.poller.roundNo) }
          exch := some { e with loop := m, phase := .sending } } } := by
  have hloop : (s.freed l).attemptLoop e = m := (freed_attemptLoop l e s).trans hm
  have htx : ((s.freed l).loopLine m).tx = none := by
    rw [freed_line]
    dsimp only
    split
    · rfl
    · next hne => exact h.resolve_left hne
  unfold State.sendAttempt
  dsimp only
  rw [hloop, putPoll_free htx, freed_line]
  rfl

/-- R64: a waiting attempt that takes the other loop, and waits for its line (log entry 15). -/
theorem freed_waits {e : Exchange} {m : Loop} (hm : s.attemptLoop e = m) (hq : e.phase = .queued) (hne : m ≠ l)
    (h : (s.loopLine m).tx.isSome = true) :
    (s.freed l).sendAttempt e =
      { s with
        poller := { s.poller with
          loops := upd s.poller.loops (loopIx l) { s.loopLine l with tx := none }
          exch := some { e with loop := m } } } := by
  have hloop : (s.freed l).attemptLoop e = m := (freed_attemptLoop l e s).trans hm
  have htx : ((s.freed l).loopLine m).tx.isSome = true := by
    rw [freed_line, if_neg hne]
    exact h
  unfold State.sendAttempt
  dsimp only
  rw [hloop, putPoll_busy htx, ← hq]
  rfl

/-! ### The probe whose line is free (R78) -/

/-- R78: the probe whose last byte has been sent starts its timer. -/
theorem probeSent_sending {b : Probe} (h : b.phase = .sending) (s : State) :
    s.probeSent b = { s with poller := { s.poller with probe := some { b with phase := .waiting } } } := by
  unfold State.probeSent
  rw [h]

theorem freed_probe {b : Probe} (hq : b.phase = .queued) (hl : b.loop = l) (hd : (s.loopLine l).state = .down) :
    (s.freed l).probeSent b =
      { s with
        poller := { s.poller with
          loops := upd s.poller.loops (loopIx l) { s.loopLine l with tx := some (pollFrame b.addr s.poller.roundNo) }
          probe := some { b with phase := .sending } } } := by
  subst hl
  have hline := freed_line b.loop b.loop s
  rw [if_pos rfl] at hline
  unfold State.probeSent
  rw [hq]
  dsimp only
  rw [hline, if_pos hd, putPoll_free (by rw [hline]), hline, ← upd_upd s.poller.loops]
  rfl

theorem freed_drops {b : Probe} (hq : b.phase = .queued) (hl : b.loop = l) (hd : (s.loopLine l).state ≠ .down)
    (hdue : s.poller.probeDue = []) :
    (s.freed l).probeSent b =
      { s with
        poller := { s.poller with
          loops := upd s.poller.loops (loopIx l) { s.loopLine l with tx := none }, probe := none } } := by
  subst hl
  have hline := freed_line b.loop b.loop s
  unfold State.probeSent
  rw [hq]
  dsimp only
  rw [hline, if_neg hd, beginProbe_none (.inl (by unfold State.downDue; exact congrArg _ hdue)), ← hdue]
  rfl

/-! ### The end of a CEILING frame (R85, R89) -/

theorem ceilingSent_none (h : s.links.lines[k].tx = none) : s.modLink k (Link.sent k) = s := by
  have hs : Link.sent k s.links.lines[k] = s.links.lines[k] := by
    unfold Link.sent
    rw [h]
  unfold State.modLink State.setLink
  rw [hs, upd_self]

/-- R85, R89: a link once the last byte of the frame on its line has been sent. -/
theorem sent_eq {v : Link} (h : v.tx.isSome = true) (k : Stage) :
    (v.out = none → v.sent k = { v with tx := none }) ∧
      ∀ c, v.out = some c →
        (c.phase = .sending → v.sent k = { v with tx := none, out := some { c with phase := .waiting } }) ∧
        (c.phase = .queued →
          v.sent k = { v with tx := some (ceilingFrame k c.seq c.ceiling), out := some { c with phase := .sending } }) := by
  obtain ⟨f, hf⟩ := Option.isSome_iff_exists.1 h
  unfold Link.sent
  rw [hf]
  refine ⟨fun ho => by rw [ho], fun c ho => ⟨fun hp => ?_, fun hp => ?_⟩⟩
  · rw [ho]
    dsimp only
    rw [hp]
  · rw [ho]
    dsimp only
    rw [hp]

theorem ceilingSent_exec {v : Link} (h : s.links.lines[k].sent k = v) : exec (.ceilingSent k) s = .next (s.setLink k v) :=
  congrArg (fun v => Host.Outcome.next (s.setLink k v)) h

/-- Settles O47. -/
theorem sentFrameStartsTheTimer : Obligations.SentFrameStartsTheTimer := by
  unfold Obligations.SentFrameStartsTheTimer
  refine ⟨fun s l k => ⟨fun h => congrArg Host.Outcome.next (pollSent_none h), fun h => ⟨fun e he hl => ⟨fun hp => ?_, fun hp => ?_⟩,
    fun b he hb hl => ⟨fun hp => ?_, fun hp => ⟨fun hd => ?_, fun hd hdue => ?_⟩⟩⟩,
    fun h => congrArg Host.Outcome.next (ceilingSent_none h), fun h => ?_⟩, fun s pref prev => ?_⟩
  · exact congrArg Host.Outcome.next ((pollSent_exchange h he hl).trans (attemptSent_sending hp _))
  · have hexch := (pollSent_exchange h he hl).trans (attemptSent_queued hp _)
    exact ⟨fun hm => congrArg Host.Outcome.next (hexch.trans (freed_sendAttempt rfl hm)),
      fun hne hm => congrArg Host.Outcome.next (hexch.trans (freed_waits rfl hp hne hm))⟩
  · exact congrArg Host.Outcome.next ((pollSent_probe h he hb hl).trans (probeSent_sending hp _))
  · exact congrArg Host.Outcome.next ((pollSent_probe h he hb hl).trans (freed_probe hp hl hd))
  · exact congrArg Host.Outcome.next ((pollSent_probe h he hb hl).trans (freed_drops hp hl hd hdue))
  · obtain ⟨hnone, hsome⟩ := sent_eq h k
    exact ⟨fun ho => ceilingSent_exec (hnone ho), fun c ho =>
      ⟨fun hp => ceilingSent_exec ((hsome c ho).1 hp), fun hp => ceilingSent_exec ((hsome c ho).2 hp)⟩⟩
  · dsimp only
    rw [← alternates_iff]
    simp only [← usable_iff]
    unfold State.retryLoop State.firstLoop
    exact ⟨fun h => if_pos h, fun h g => (if_neg h).trans (if_pos g), fun h g d => (if_neg h).trans ((if_neg g).trans (if_pos d)),
      fun h g d => (if_neg h).trans ((if_neg g).trans (if_neg d)), fun h => if_pos h, fun h => if_neg h⟩

end Sys2Proof.Machine

/-! SUPPORT. What the start checks read (R60, R111, R114, R121, R128, R162, Table 7-3), and O19. -/

namespace Sys2Proof.Machine

variable {m : Memory}

/-! ### Checks 1 to 4: the configuration block and the station table -/

/-- R162: a byte that Table 9-2 names holds bad parity. -/
theorem configParity_iff (m : Memory) :
    configParity m = true ↔ ∃ a, (a < 0x1B ∨ (0x1C ≤ a ∧ a < 0x25)) ∧ m.badAt a = true := by
  have hbase : Config.configBase = 0 := rfl
  unfold configParity
  rw [Bool.or_eq_true, parityError_iff, parityError_iff, hbase]
  constructor
  · rintro (⟨a, -, h, hb⟩ | ⟨a, h1, h2, hb⟩)
    · exact ⟨a, .inl (by omega), hb⟩
    · exact ⟨a, .inr (by omega), hb⟩
  · rintro ⟨a, h | h, hb⟩
    · exact .inl ⟨a, by omega, by omega, hb⟩
    · exact .inr ⟨a, by omega, by omega, hb⟩

/-- R60: the entry of a station is loaded enabled. -/
def loadsEnabled (m : Memory) (st : Station) : Prop :=
  bit (m.readLe (0x0100 + 16 * st.val) 1) 0 = true ∧ 1 ≤ m.readLe (0x0101 + 16 * st.val) 1 ∧
    m.readLe (0x0101 + 16 * st.val) 1 ≤ 62

/-- R60, Table 9-3: the copy's entry of a station. -/
theorem readStationTable_entry (m : Memory) (st : Station) :
    ((readStationTable m)[st].enabled = true ↔ loadsEnabled m st) ∧
      (readStationTable m)[st].addr = m.readLe (0x0101 + 16 * st.val) 1 ∧
      (readStationTable m)[st].loop = if m.readLe (0x0102 + 16 * st.val) 1 = 1 then .b else .a := by
  have h1 : 0x0101 + 16 * st.val = Config.stationBase + 16 * st.val + 1 := by
    have hbase : Config.stationBase = 0x0100 := rfl
    omega
  have h2 : 0x0102 + 16 * st.val = Config.stationBase + 16 * st.val + 2 := by
    have hbase : Config.stationBase = 0x0100 := rfl
    omega
  have he : (readStationTable m)[st] = (readStationEntry m st).loaded := ofFn_get _ st
  rw [he]
  unfold loadsEnabled
  rw [h1, h2]
  refine ⟨?_, rfl, rfl⟩
  unfold StationEntry.loaded
  rw [Bool.and_eq_true, decide_eq_true_iff]
  exact Iff.rfl

/-- R60: two entries loaded enabled have one address. -/
def sameAddress (m : Memory) : Prop :=
  ∃ i j : Station, i ≠ j ∧ loadsEnabled m i ∧ loadsEnabled m j ∧
    m.readLe (0x0101 + 16 * i.val) 1 = m.readLe (0x0101 + 16 * j.val) 1

theorem duplicateAddress_iff (m : Memory) : duplicateAddress (readStationTable m) = true ↔ sameAddress m := by
  unfold duplicateAddress sameAddress
  simp only [List.any_eq_true, mem_allStations, true_and, Bool.and_eq_true, decide_eq_true_eq, and_assoc]
  refine exists_congr fun i => exists_congr fun j => and_congr_right' ?_
  obtain ⟨hi, ai, -⟩ := readStationTable_entry m i
  obtain ⟨hj, aj, -⟩ := readStationTable_entry m j
  rw [hi, hj, ai, aj]

/-- Table 9-2: a field of the configuration block lies at its offset. -/
theorem configField_eq (m : Memory) (off n : Nat) : configField m off n = m.readLe off n := by
  have hbase : Config.configBase = 0 := rfl
  unfold configField
  rw [hbase, Nat.zero_add]

/-- Table 7-3, check 4: the ceilings of the configuration block. -/
theorem ceilingAbove_iff (m : Memory) :
    (readConfig m).ceilingAbove = true ↔
      4096 < m.readLe 0x0C 2 ∨ 4096 < m.readLe 0x0A 2 ∨ ∃ k : Stage, 4096 < m.readLe (0x10 + 2 * k.val) 2 := by
  unfold StartConfig.ceilingAbove readConfig
  simp only [configField_eq, ofFn_get, Bool.or_eq_true, List.any_eq_true, mem_allStages, true_and, decide_eq_true_eq, or_assoc]

/-! ### Checks 5 to 7: the book area -/

theorem checkArea_above {area : Nat} (h : 1 < area) : checkArea m area = .error .bookArea :=
  dif_neg (by omega)

theorem checkArea_failed {area : Fin 2} {e : BookFault} (h : validateArea m area = .error e) :
    checkArea m area.val = .error (if e.cause = .parity then .parity else .book) := by
  unfold checkArea
  rw [dif_pos area.isLt, h]

theorem checkArea_read {area : Fin 2} {book : List BookRecord} (h : validateArea m area = .ok book) :
    checkArea m area.val = .ok (area, book) := by
  unfold checkArea
  rw [dif_pos area.isLt, h]

/-! ### Check 8: the schedule header and the head entry -/

/-- Table 9-5: the fields of entry `n` as they stand in RAM. -/
def rawEntryAt (m : Memory) (n : Nat) : RawEntry :=
  let a := entryAddr n
  { kind := m.readLe a 1, next := m.readLe (a + 1) 1, byte2 := m.readLe (a + 2) 1, byte3 := m.readLe (a + 3) 1,
    start := m.readLe (a + 4) 4, word8 := m.readLe (a + 8) 2, h := m.readLe (a + 10) 2, k := m.readLe (a + 12) 2,
    ceil := Vector.ofFn fun k : Fin 4 => m.readLe (a + 14 + 2 * k.val) 2 }

theorem entryParity_iff (m : Memory) (n : Nat) : m.parityError (entryAddr n) 22 = true ↔ entryParity m n :=
  parityError_iff _ _ _

/-- R114: an entry that is read. -/
theorem readEntry_of_good {n : Nat} (h : ¬ entryParity m n) : readEntry m n = some (rawEntryAt m n) := by
  have hbase : Config.scheduleBase + 32 * n = entryAddr n := rfl
  unfold readEntry rawEntryAt
  dsimp only
  rw [hbase, if_neg (fun hp => h ((entryParity_iff m n).1 hp))]
  have hceil : (Vector.ofFn fun k : Fin 4 => field (m.read (entryAddr n) 22) (14 + 2 * k.val) 2) =
      Vector.ofFn fun k : Fin 4 => m.readLe (entryAddr n + 14 + 2 * k.val) 2 :=
    congrArg Vector.ofFn (funext fun k => by rw [field_read _ _ _ _ _ (by omega), Nat.add_assoc])
  rw [hceil]
  simp only [field_read, Nat.reduceAdd, Nat.reduceLeDiff, Nat.add_zero]

theorem readEntry_of_parity {n : Nat} (h : entryParity m n) : readEntry m n = none :=
  if_pos ((entryParity_iff m n).2 h)

/-- R121: the fields of a LIMIT entry in RAM are in range. -/
theorem limitInRange_iff (m : Memory) (n : Nat) : (rawEntryAt m n).limitInRange = true ↔ limitValid m n := by
  have hceil : ∀ k : Stage, (rawEntryAt m n).ceil[k] = (limitAt m n).ceil[k] := fun _ => rfl
  have hfull : Config.fullScale = 4096 := rfl
  unfold RawEntry.limitInRange limitValid
  simp only [Bool.and_eq_true, decide_eq_true_eq, List.all_eq_true, mem_allStages, forall_const, hceil, hfull, and_assoc]
  exact Iff.rfl

theorem headerParity_iff (m : Memory) : m.parityError (Config.scheduleBase + 4) 4 = true ↔ headerParity m :=
  parityError_iff _ _ _

/-- R128: the schedule header and the head entry are usable. -/
def headUsable (m : Memory) : Prop :=
  headerGood m (m.readLe 0x3404 2) (m.readLe 0x3406 2) ∧ 1 ≤ m.readLe 0x3406 2 ∧ m.readLe 0x3406 2 ≤ m.readLe 0x3404 2 ∧
    ¬ entryParity m (m.readLe 0x3406 2) ∧ m.readLe (entryAddr (m.readLe 0x3406 2)) 1 = 1 ∧ limitValid m (m.readLe 0x3406 2)

/-- R121: what validation at the head makes of an entry that is read. -/
theorem validate_head (m : Memory) (n : Nat) :
    (m.readLe (entryAddr n) 1 = 1 ∧ limitValid m n → (rawEntryAt m n).validate n true = .ok (.limit (limitAt m n))) ∧
      (¬ (m.readLe (entryAddr n) 1 = 1 ∧ limitValid m n) → ∃ r, (rawEntryAt m n).validate n true = .error r) := by
  have hkind : (rawEntryAt m n).kind = m.readLe (entryAddr n) 1 := rfl
  unfold RawEntry.validate
  rw [hkind]
  refine ⟨fun ⟨hk, hv⟩ => ?_, fun h => ?_⟩
  · rw [if_pos hk, if_pos ((limitInRange_iff m n).2 hv)]
    rfl
  · split
    · next hk => exact ⟨_, if_neg fun hv => h ⟨hk, (limitInRange_iff m n).1 hv⟩⟩
    · split
      · exact ⟨_, if_pos rfl⟩
      · exact ⟨_, rfl⟩

/-- R111: the header when it is read. -/
theorem readHeader_of_good (h : ¬ headerParity m) :
    readHeader m = some { count := m.readLe 0x3404 2, head := m.readLe 0x3406 2 } :=
  if_neg fun hp => h ((headerParity_iff m).1 hp)

theorem readHeader_of_parity (h : headerParity m) : readHeader m = none :=
  if_pos ((headerParity_iff m).2 h)

theorem readHead_of_usable (h : headUsable m) : readHead m = some (m.readLe 0x3404 2, limitAt m (m.readLe 0x3406 2)) := by
  obtain ⟨⟨hparity, -, -, hcount, hcount'⟩, hhead, hhead', hentry, hlimit⟩ := h
  unfold readHead
  rw [readHeader_of_good hparity]
  dsimp only
  rw [if_neg (by omega), readEntry_of_good hentry]
  dsimp only
  rw [(validate_head m _).1 hlimit]

/-- R128: the header's parity, its numbers, the head entry's parity and its fields, in turn. -/
theorem readHead_of_unusable (h : ¬ headUsable m) : readHead m = none := by
  unfold readHead
  by_cases hparity : headerParity m
  · rw [readHeader_of_parity hparity]
  · rw [readHeader_of_good hparity]
    dsimp only
    split
    · rfl
    · next hrange =>
      by_cases hentry : entryParity m (m.readLe 0x3406 2)
      · rw [readEntry_of_parity hentry]
      · obtain ⟨r, hr⟩ := (validate_head m (m.readLe 0x3406 2)).2 fun hlimit =>
          h ⟨⟨hparity, rfl, rfl, by omega, by omega⟩, by omega, by omega, hentry, hlimit⟩
        rw [readEntry_of_good hentry]
        dsimp only
        rw [hr]

/-! ### What a start that passes takes from the configuration block (R162, R180, R183) -/

/-- R71, R162: the timing, ramp and fallback values, with their clamps. -/
theorem readConfig_clamps (m : Memory) :
    (readConfig m).timing =
        { timeout := max 1 (min 20 (m.readLe 0x00 2)), retries := min 2 (m.readLe 0x02 1), alternate := bit (m.readLe 0x03 1) 0 } ∧
      (readConfig m).gain.dn = max 1 (min 4096 (m.readLe 0x04 2)) ∧ (readConfig m).gain.up = max 1 (min 4096 (m.readLe 0x06 2)) ∧
      (readConfig m).gain.cMin = max 1 (min 256 (m.readLe 0x08 2)) := by
  unfold readConfig clamp
  simp only [configField_eq, Nat.zero_max, and_self]

theorem readConfig_lines (m : Memory) (k : Stage) :
    (readConfig m).gain.lost[k] = m.readLe (0x10 + 2 * k.val) 2 ∧ (readConfig m).link.enabled[k] = bit (m.readLe 0x0E 1) k.val := by
  unfold readConfig
  simp only [configField_eq, ofFn_get, and_self]

theorem readConfig_edge (m : Memory) (i : Fin 9) : (readConfig m).edges[i] = edgeOfByte (m.readLe (0x1C + i.val) 1) := by
  unfold readConfig
  simp only [configField_eq, ofFn_get]

/-! ### The order of the checks (R162, Table 7-3) -/

/-- Checks 1 to 4 pass. -/
structure TablesPass (m : Memory) : Prop where
  config : configParity m = false
  table : stationTableParity m = false
  address : duplicateAddress (readStationTable m) = false
  ceiling : (readConfig m).ceilingAbove = false

namespace TablesPass

variable (h : TablesPass m)

include h

theorem areaFails {e : StartError} (ha : checkArea m (readConfig m).area = .error e) : startCheck m = .error e := by
  unfold startCheck
  simp only [h.config, h.table, h.address, h.ceiling, ha, Bool.false_eq_true, if_false]

variable {area : Fin 2} {book : List BookRecord} (ha : checkArea m (readConfig m).area = .ok (area, book))

include ha

theorem headFails (hh : readHead m = none) : startCheck m = .error .schedule := by
  unfold startCheck
  simp only [h.config, h.table, h.address, h.ceiling, ha, hh, Bool.false_eq_true, if_false]

theorem passes {count : Nat} {head : LimitEntry} (hh : readHead m = some (count, head)) :
    startCheck m =
      .ok { config := readConfig m, copy := readStationTable m, area := area, book := book, count := count, head := head } := by
  unfold startCheck
  simp only [h.config, h.table, h.address, h.ceiling, ha, hh, Bool.false_eq_true, if_false]

end TablesPass

/-- Settles O19: the checks as the manual words them, then the order in which they decide. -/
theorem startChecksInOrder : Obligations.StartChecksInOrder := by
  unfold Obligations.StartChecksInOrder
  intro m f parityA parityB loads same above count head usable
  have hA : configParity m = true ↔ parityA := configParity_iff m
  have hB : stationTableParity m = true ↔ parityB := stationTableParity_iff m
  have hS : duplicateAddress (readStationTable m) = true ↔ same := duplicateAddress_iff m
  have hC : (readConfig m).ceilingAbove = true ↔ above := ceilingAbove_iff m
  have harea : (readConfig m).area = f 0x0F 1 := configField_eq m 0x0F 1
  refine ⟨fun a => if_pos (hA.2 a), fun a b => (if_neg (mt hA.1 a)).trans (if_pos (hB.2 b)),
    fun a b c => (if_neg (mt hA.1 a)).trans ((if_neg (mt hB.1 b)).trans (if_pos (hS.2 c))),
    fun a b c d => (if_neg (mt hA.1 a)).trans ((if_neg (mt hB.1 b)).trans ((if_neg (mt hS.1 c)).trans (if_pos (hC.2 d)))),
    fun a b c d => ?_⟩
  have hpass : TablesPass m :=
    ⟨by simpa using mt hA.1 a, by simpa using mt hB.1 b, by simpa using mt hS.1 c, by simpa using mt hC.1 d⟩
  refine ⟨fun hbig => hpass.areaFails (by rw [harea]; exact checkArea_above hbig), fun area ha => ⟨fun e he => ?_, fun book hbook => ?_⟩⟩
  · exact hpass.areaFails (by rw [harea, ha]; exact checkArea_failed he)
  · have hread : checkArea m (readConfig m).area = .ok (area, book) := by
      rw [harea, ha]
      exact checkArea_read hbook
    refine ⟨fun hu => hpass.headFails hread (readHead_of_unusable hu), fun hu => ?_⟩
    obtain ⟨htiming, hdn, hup, hmin⟩ := readConfig_clamps m
    refine ⟨_, hpass.passes hread (readHead_of_usable hu), rfl, rfl, rfl, rfl, readStationTable_entry m, htiming, hdn, hup, hmin,
      configField_eq m 0x0A 2, configField_eq m 0x0C 2, readConfig_lines m, ?_, ?_, fun i => ?_⟩
    · show (if 255 < configField m 0x18 2 then 0 else configField m 0x18 2) = _
      rw [configField_eq]
    · show logModeOfByte (configField m 0x1A 1) = _
      rw [configField_eq]
      rfl
    · rw [readConfig_edge]
      show edgeOfByte (f (0x1C + i.val) 1) = _
      generalize f (0x1C + i.val) 1 = v
      match v with
      | 0 => rfl
      | 1 => rfl
      | 2 => rfl
      | v + 3 => rfl

end Sys2Proof.Machine

/-! SUPPORT. No operation on a link gives it a ceiling above 4096 (R86, R88, R91 to R93, R100 to R103), and every block keeps it so:
the applied ceilings that the Gain Allocator hands on are at most 4096 themselves. -/

namespace Sys2Proof.Machine

/-! ### One link -/

namespace Link.ceilingsInRange

variable {l : Link} {k : Stage} {v : Nat}

/-- A link with nothing outstanding and nothing pending. -/
theorem of_none (ho : l.out = none) (hp : l.pend = none) : l.ceilingsInRange :=
  ⟨fun c h => (by rw [ho] at h; cases h), fun v h => (by rw [hp] at h; cases h)⟩

/-- The outstanding command gone, the pending value kept. -/
theorem ended (h : l.ceilingsInRange) {m : Link} (ho : m.out = none) (hp : m.pend = l.pend) : m.ceilingsInRange :=
  ⟨fun c hc => (by rw [ho] at hc; cases hc), fun v hv => h.2 v (hp ▸ hv)⟩

/-- The pending value replaced. -/
theorem pending (h : l.ceilingsInRange) (hv : v ≤ Config.fullScale) : ({ l with pend := some v } : Link).ceilingsInRange :=
  ⟨h.1, fun _ he => Option.some.inj he ▸ hv⟩

/-- The outstanding command in another phase or attempt. -/
theorem recast (h : l.ceilingsInRange) {c d : Command} {m : Link} (hc : l.out = some c) (ho : m.out = some d)
    (hd : d.ceiling = c.ceiling) (hp : m.pend = l.pend) : m.ceilingsInRange := by
  refine ⟨fun e he => ?_, fun v hv => h.2 v (hp ▸ hv)⟩
  rw [← Option.some.inj (ho.symm.trans he), hd]
  exact h.1 c hc

theorem unsent (h : l.ceilingsInRange) : ({ l with pend := none } : Link).ceilingsInRange :=
  ⟨h.1, fun _ he => (by cases he)⟩

theorem clear : l.clear.ceilingsInRange := of_none rfl rfl

theorem begin (h : l.ceilingsInRange) (hv : v ≤ Config.fullScale) : (l.begin k v).ceilingsInRange :=
  ⟨fun _ he => Option.some.inj he ▸ hv, h.2⟩

theorem offer (h : l.ceilingsInRange) (hv : v ≤ Config.fullScale) : (l.offer k v).ceilingsInRange := by
  unfold Link.offer
  split
  · exact h
  · split
    · exact h.pending hv
    · exact h.begin hv

theorem closureOffer (h : l.ceilingsInRange) (hv : v ≤ Config.fullScale) : (l.closureOffer k v).ceilingsInRange := by
  unfold Link.closureOffer
  split
  · exact h
  · split
    · exact (of_none (l := { l.clear with hold := false }) rfl rfl).begin hv
    · exact h.offer hv

theorem hardDrop (h : l.ceilingsInRange) (running : Bool) (hv : v ≤ Config.fullScale) :
    (l.hardDrop running k v).ceilingsInRange := by
  unfold Link.hardDrop
  split
  · exact h
  · split
    · exact h.pending hv
    · split
      · exact clear.begin hv
      · exact h

theorem sendPending (h : l.ceilingsInRange) (starting : Bool) : (l.sendPending starting k).ceilingsInRange := by
  unfold Link.sendPending
  split
  · exact h
  · next v hv =>
    split
    · exact h.unsent
    · exact h.unsent.begin (h.2 v hv)

theorem acknowledge (h : l.ceilingsInRange) (limiter : LimiterState) : (l.acknowledge limiter).ceilingsInRange :=
  h.ended rfl rfl

theorem charge (h : l.ceilingsInRange) : ({ l with out := none } : Link).charge.ceilingsInRange := h.ended rfl rfl

theorem resend (h : l.ceilingsInRange) {c : Command} (hc : l.out = some c) : (l.resend k c).ceilingsInRange :=
  h.recast hc rfl rfl rfl

theorem sent (h : l.ceilingsInRange) : (l.sent k).ceilingsInRange := by
  unfold Link.sent
  split
  · exact h
  · exact h
  · next c _ hc =>
    split
    · exact h.recast hc rfl rfl rfl
    · exact h.recast hc rfl rfl rfl
    · exact h
    · exact h

theorem started (enabled : Bool) : (l.started enabled).ceilingsInRange := by
  cases enabled with
  | true => exact of_none rfl rfl
  | false => exact of_none rfl rfl

theorem holdValue (h : l.ceilingsInRange) (hv : v ≤ Config.fullScale) : (l.holdValue v).ceilingsInRange := by
  unfold Link.holdValue
  split
  · exact h.pending hv
  · exact h

theorem stop (h : l.ceilingsInRange) (hv : v ≤ Config.fullScale) : (l.stop k v).ceilingsInRange := by
  unfold Link.stop
  split
  · exact h
  · exact (of_none (l := { l.clear with hold := false }) rfl rfl).begin hv

end Link.ceilingsInRange

/-! ### The four links -/

/-- No ceiling that a link carries or will carry, and none that the Gain Allocator applies, lies above 4096. -/
structure State.CeilingsHold (s : State) : Prop where
  applied : ∀ k : Stage, s.gain.stages[k].applied ≤ Config.fullScale
  links : s.links.ceilingsInRange

variable {s t : State}

namespace State.CeilingsHold

/-- What changes neither an applied ceiling nor a link. -/
theorem congr (h : s.CeilingsHold) (hg : t.gain.stages = s.gain.stages := by simp) (hl : t.links = s.links := by simp) :
    t.CeilingsHold :=
  ⟨by rw [hg]; exact h.applied, by rw [hl]; exact h.links⟩

theorem withPoller (h : s.CeilingsHold) (p : Poller) : State.CeilingsHold { s with poller := p } := h.congr rfl rfl

theorem withAcc (h : s.CeilingsHold) (c : Accumulator) : State.CeilingsHold { s with acc := c } := h.congr rfl rfl

theorem withScanner (h : s.CeilingsHold) (c : Scanner) : State.CeilingsHold { s with scanner := c } := h.congr rfl rfl

theorem withRun (h : s.CeilingsHold) (r : RunControl) : State.CeilingsHold { s with run := r } := h.congr rfl rfl

theorem withBook (h : s.CeilingsHold) (b : BookStore) : State.CeilingsHold { s with book := b } := h.congr rfl rfl

theorem withWalker (h : s.CeilingsHold) (w : Walker) : State.CeilingsHold { s with walker := w } := h.congr rfl rfl

theorem withClock (h : s.CeilingsHold) (c : Nat) : State.CeilingsHold { s with clock := c } := h.congr rfl rfl

theorem withRegs (h : s.CeilingsHold) (r : Registers) : State.CeilingsHold { s with regs := r } := h.congr rfl rfl

theorem withNotices (h : s.CeilingsHold) (n : NoticeWriter) : State.CeilingsHold { s with notices := n } := h.congr rfl rfl

theorem setRam (h : s.CeilingsHold) (m : Memory) : (s.setRam m).CeilingsHold := h.congr rfl rfl

theorem line (h : s.CeilingsHold) (k : Stage) : s.links.lines[k].ceilingsInRange := h.links.1 k

theorem stopCeiling (h : s.CeilingsHold) {g : LinkConfig} (hg : s.links.cfg = some g) : g.stopCeiling ≤ Config.fullScale :=
  h.links.2 g hg

theorem modLink (h : s.CeilingsHold) (k : Stage) {f : Link → Link} (hf : (f s.links.lines[k]).ceilingsInRange) :
    (s.modLink k f).CeilingsHold := by
  refine ⟨h.applied, fun j => ?_, h.links.2⟩
  rw [modLink_line]
  split
  · exact hf
  · exact h.line j

theorem post (h : s.CeilingsHold) (kind sub detail : Nat) : (s.post kind sub detail).CeilingsHold := h.congr

theorem closeMinute (h : s.CeilingsHold) (minute : Nat) (f : RecordFlags) : (s.closeMinute minute f).CeilingsHold := h.congr

theorem reevaluateLink (h : s.CeilingsHold) (k : Stage) : (s.reevaluateLink k).CeilingsHold := h.congr

theorem acknowledge (h : s.CeilingsHold) (k : Stage) (limiter : LimiterState) : (s.acknowledge k limiter).CeilingsHold := by
  have h1 := (h.modLink k ((h.line k).acknowledge limiter)).reevaluateLink k
  exact h1.modLink k ((h1.line k).sendPending _)

theorem exhaust (h : s.CeilingsHold) (k : Stage) : (s.exhaust k).CeilingsHold := by
  have h1 := (h.modLink k (f := fun l => ({ l with out := none } : Link).charge) (h.line k).charge).reevaluateLink k
  exact h1.modLink k ((h1.line k).sendPending _)

theorem failCommand (h : s.CeilingsHold) {k : Stage} {c : Command} (hc : s.links.lines[k].out = some c) :
    (s.failCommand k c).CeilingsHold := by
  unfold State.failCommand
  split
  · exact h.modLink k ((h.line k).resend hc)
  · exact h.exhaust k

theorem judgeAck (h : s.CeilingsHold) (k : Stage) (frame : Option AckFrame) : (s.judgeAck k frame).CeilingsHold := by
  unfold State.judgeAck
  split
  · exact h
  · exact h
  · next hc =>
    split
    · exact h
    · exact h
    · split
      · exact h.failCommand hc
      · split
        · exact h.acknowledge k _
        · exact h
    · split
      · exact h.failCommand hc
      · split
        · exact h.acknowledge k _
        · exact h.failCommand hc

theorem ackExpiry (h : s.CeilingsHold) (k : Stage) (receiving : Bool) : (s.ackExpiry k receiving).CeilingsHold := by
  unfold State.ackExpiry
  split
  · exact h
  · next hc =>
    split
    · split
      · exact h.modLink k ((h.line k).recast hc rfl rfl rfl)
      · exact h.failCommand hc
    · exact h

theorem clearCharged (h : s.CeilingsHold) : s.clearCharged.CeilingsHold := by
  refine ⟨h.applied, fun k => ?_, h.links.2⟩
  unfold State.clearCharged
  rw [ofFn_get]
  exact h.line k

theorem offerStopCeiling (h : s.CeilingsHold) : s.offerStopCeiling.CeilingsHold := by
  unfold State.offerStopCeiling
  split
  · next c hc =>
    exact forStages_preserves State.CeilingsHold _ (fun k t ht => ht.modLink k ((ht.line k).offer (h.stopCeiling hc))) s h
  · exact h

/-- R96: the stop ceiling taken at a start has passed its check. -/
theorem startLinks (h : s.CeilingsHold) {cfg : LinkConfig} (hc : cfg.stopCeiling ≤ Config.fullScale) :
    (s.startLinks cfg).CeilingsHold := by
  have h1 : State.CeilingsHold { s with links := { s.links with cfg := some cfg } } :=
    ⟨h.applied, h.links.1, fun g hg => Option.some.inj hg ▸ hc⟩
  refine forStages_preserves State.CeilingsHold _ (fun k t ht => ?_) _ h1
  exact (ht.modLink k (f := Link.started cfg.enabled[k]) (.started _)).reevaluateLink k

theorem stopLinks (h : s.CeilingsHold) : s.stopLinks.CeilingsHold := by
  unfold State.stopLinks
  split
  · next c hc =>
    exact forStages_preserves State.CeilingsHold _ (fun k t ht => ht.modLink k ((ht.line k).stop (h.stopCeiling hc))) s h
  · exact h

/-! ### Gain Allocator (R41, R48 to R50, R53) -/

/-- R48: the hard drop hands the bound. -/
theorem clipStage_links (h : s.links.ceilingsInRange) (k : Stage) : (s.clipStage k).links.ceilingsInRange := by
  unfold State.clipStage
  dsimp only
  split
  · rw [(stageConditions_keeps _ _).2.2.2.2.2.2.1, (logClip_keeps _ _ _).2.2.2.2.2.2.2.1]
    refine ⟨fun j => ?_, h.2⟩
    unfold State.hardDrop
    rw [modLink_line]
    split
    · exact (h.1 k).hardDrop _ (bound_le _).1
    · exact h.1 j
  · exact h

theorem changeTerms (h : s.CeilingsHold) (f : Stage → GainStage → GainStage) : (s.changeTerms f).CeilingsHold := by
  refine ⟨fun k => (changeTerms_bounded f s k).trans (bound_le _).1, ?_⟩
  exact forStages_preserves (fun t => t.links.ceilingsInRange) _ (fun k _ ht => clipStage_links ht k) _ h.links

theorem evaluateLost (h : s.CeilingsHold) : s.evaluateLost.CeilingsHold := h.changeTerms _

theorem setAmbientMute (h : s.CeilingsHold) (b : Bool) : (s.setAmbientMute b).CeilingsHold := h.changeTerms _

theorem setHold (h : s.CeilingsHold) (k : Stage) (v : Option Nat) : (s.setHold k v).CeilingsHold := h.changeTerms _

theorem rampAll (h : s.CeilingsHold) : s.rampAll.CeilingsHold := by
  refine ⟨fun k => ?_, by rw [(rampAll_keeps s).2.2.2.2.2.2.1]; exact h.links⟩
  cases hc : s.gain.cfg with
  | none =>
    unfold State.rampAll
    rw [hc]
    exact h.applied k
  | some c =>
    rw [rampAll_stage hc]
    exact (close_le _ _ _ _).trans (bound_le _).1

theorem stageConditions (h : s.CeilingsHold) (k : Stage) : (s.stageConditions k).CeilingsHold := h.congr

theorem offerAll (h : s.CeilingsHold) : s.offerAll.CeilingsHold :=
  forStages_preserves State.CeilingsHold _ (fun k _ ht => ht.modLink k ((ht.line k).closureOffer (ht.applied k))) s h

theorem driveGain (h : s.CeilingsHold) : s.driveGain.CeilingsHold := by
  have h1 : s.rampAll.offerAll.logClosure.CeilingsHold := h.rampAll.offerAll.congr
  rw [driveGain_eq]
  exact forStages_preserves State.CeilingsHold _ (fun k _ ht => ht.stageConditions k) _ h1

theorem handStart (h : s.CeilingsHold) (k : Stage) : (s.handStart k).CeilingsHold := by
  have h1 := h.modLink k ((h.line k).holdValue (h.applied k))
  exact State.CeilingsHold.stageConditions (h1.congr (t := State.logClip k _ _)) k

theorem startGain (h : s.CeilingsHold) : s.startGain.CeilingsHold := by
  have h1 : s.startStages.CeilingsHold := by
    refine ⟨fun k => ?_, h.links⟩
    unfold State.startStages
    rw [ofFn_get]
    exact Nat.min_le_left _ _
  rw [startGain_eq]
  exact forStages_preserves State.CeilingsHold _ (fun k _ ht => ht.handStart k) _ h1

theorem stopGain (h : s.CeilingsHold) : s.stopGain.CeilingsHold := by
  refine ⟨fun k => ?_, h.links⟩
  unfold State.stopGain
  rw [ofFn_get]
  exact h.applied k

end State.CeilingsHold

end Sys2Proof.Machine

/-! SUPPORT. The ceilings handed in a pass, a round, a request, a start and a stop, and O11. -/

namespace Sys2Proof.Machine

variable {s t : State}

namespace State.CeilingsHold

/-! ### Schedule Walker (R125, R134, R136) -/

theorem activate (h : s.CeilingsHold) (cause : PassCause) (b : Bool) (e : LimitEntry) : (s.activate cause b e).CeilingsHold := by
  have h1 : (s.atEntry e).CeilingsHold := h.congr rfl rfl
  rw [activate_eq]
  exact (h1.changeTerms (s.entryTerms b e)).congr

theorem takeLast (h : s.CeilingsHold) (cause : PassCause) (p : Pass) : (s.takeLast cause p).CeilingsHold := by
  unfold State.takeLast
  split
  · exact h.activate cause false _
  · exact h

theorem takeFault (h : s.CeilingsHold) (cause : PassCause) (starting : Bool) (p : Pass) :
    (s.takeFault cause starting p).CeilingsHold := by
  unfold State.takeFault
  split
  · exact h.activate cause true _
  · exact h.changeTerms _

theorem endPass (h : s.CeilingsHold) (cause : PassCause) (starting : Bool) (found : WalkerState) (p : Pass) :
    (s.endPass cause starting found p).CeilingsHold := by
  have h1 : (s.countLinks p.links).CeilingsHold := h.withWalker _
  cases he : p.ending with
  | notDue => rw [endPass_notDue _ _ _ _ he]; exact (h1.takeLast cause p).withWalker _
  | final => rw [endPass_final _ _ _ _ he]; exact (h1.takeLast cause p).withWalker _
  | watch pause =>
    rw [endPass_watch _ _ _ _ he]
    exact ((h1.takeLast cause p).withWalker _).post _ _ _
  | fault reason entry link =>
    rw [endPass_fault _ _ _ _ he]
    have h2 : (((s.countLinks p.links).takeFault cause starting p).goTo .faulted).CeilingsHold :=
      (h1.takeFault cause starting p).withWalker _
    exact h2.congr

theorem leaveFaulted (h : s.CeilingsHold) : s.leaveFaulted.CeilingsHold := by
  unfold State.leaveFaulted
  split
  · exact h.changeTerms _
  · exact h

theorem walkerRestart (h : s.CeilingsHold) : s.walkerRestart.1.CeilingsHold := by
  unfold State.walkerRestart
  dsimp only
  exact h.leaveFaulted.endPass _ _ _ _

theorem walkerResume (h : s.CeilingsHold) (pause : Pause) (holder : Byte) : (s.walkerResume pause holder).1.CeilingsHold := by
  unfold State.walkerResume
  dsimp only
  exact h.endPass _ _ _ _

theorem walkerSecond (h : s.CeilingsHold) : s.walkerSecond.CeilingsHold := by
  unfold State.walkerSecond
  repeat' split
  · exact h.endPass _ _ _ _
  · exact h
  · exact h

theorem walkerMoved (h : s.CeilingsHold) : s.walkerMoved.CeilingsHold := by
  unfold State.walkerMoved
  split
  · exact h.endPass _ _ _ _
  · exact h

theorem clockMoved (h : s.CeilingsHold) (logFirst : Bool) (before : Nat) : (s.clockMoved logFirst before).CeilingsHold := by
  unfold State.clockMoved
  dsimp only
  repeat' split
  · exact (h.closeMinute _ _).walkerMoved
  · exact h.walkerMoved
  · exact h.walkerMoved.closeMinute _ _
  · exact h.walkerMoved

/-! ### The measurement (R150, R152, R153) -/

theorem endAmbient (h : s.CeilingsHold) (i : Slot) (results : List Result) :
    (((s.setAmbientMute false).complete i results).endAmbient).CeilingsHold :=
  withAcc (congr (t := (s.setAmbientMute false).complete i results) (h.setAmbientMute false)) _

theorem abortAmbient (h : s.CeilingsHold) : s.abortAmbient.CeilingsHold := h.endAmbient _ _

theorem ambientClosure (h : s.CeilingsHold) : s.ambientClosure.CeilingsHold := by
  unfold State.ambientClosure
  dsimp only
  repeat' split
  · exact h
  · exact h.withAcc _
  · exact h.withAcc _
  · exact endAmbient (withBook (h.withAcc _) _) _ _
  · exact h.withAcc _

/-! ### Rounds (R63 to R74) -/

theorem setStationState (h : s.CeilingsHold) (st : Station) (v : StationState) : (s.setStationState st v).CeilingsHold := by
  have h1 : (s.noteState st v).CeilingsHold := h.congr
  rw [setStationState_eq]
  split
  · exact h1
  · exact h1.evaluateLost

theorem takeOutcome (h : s.CeilingsHold) (st : Station) (o : SecondOutcome) : (s.takeOutcome st o).CeilingsHold := by
  have h1 : (s.storeOutcome st o).CeilingsHold := h.congr
  unfold State.takeOutcome
  split
  · exact h
  · exact h1.setStationState _ _

theorem handMissing (h : s.CeilingsHold) (sts : List Station) : (s.handMissing sts).CeilingsHold :=
  foldl_preserves State.CeilingsHold _ (fun _ st ht => ht.takeOutcome st .missing) sts s h

theorem advanceRest (h : s.CeilingsHold) : s.advanceRest.CeilingsHold := h.congr

theorem closeRound (h : s.CeilingsHold) : s.closeRound.CeilingsHold := by
  have h1 : s.shutRound.CeilingsHold := h.withPoller _
  have h2 : s.beforeDrive.CeilingsHold := h1.advanceRest.ambientClosure
  rw [closeRound_eq]
  exact h2.driveGain.congr

theorem closeByLastOutcome (h : s.CeilingsHold) : s.closeByLastOutcome.CeilingsHold := by
  rw [closeByLastOutcome_eq]
  exact h.closeRound.congr

theorem closeByDeadline (h : s.CeilingsHold) : s.closeByDeadline.CeilingsHold := by
  have h1 := ((h.withPoller { s.poller with exch := none, todo := [] }).handMissing s.poller.unresolved).closeRound
  unfold State.closeByDeadline
  dsimp only
  split
  · exact h1.post _ _ _
  · exact h1

theorem beginExchange (h : s.CeilingsHold) (st : Station) (e : StationEntry) : (s.beginExchange st e).CeilingsHold := h.congr

theorem proceed (h : s.CeilingsHold) : s.proceed.CeilingsHold := by
  unfold State.proceed
  split
  · exact beginExchange (h.withPoller _) _ _
  · exact h.closeByLastOutcome

theorem modLoop (h : s.CeilingsHold) (l : Loop) (f : LoopLine → LoopLine) : (s.modLoop l f).CeilingsHold := h.congr

theorem endExchange (h : s.CeilingsHold) (e : Exchange) (o : SecondOutcome) : (s.endExchange e o).CeilingsHold :=
  (takeOutcome (h.withPoller _) _ _).proceed

theorem failAttempt (h : s.CeilingsHold) (e : Exchange) : (s.failAttempt e).CeilingsHold := by
  have h1 := h.modLoop e.loop LoopLine.failed
  unfold State.failAttempt
  dsimp only
  split
  · exact h1.congr
  · exact h1.endExchange e _

theorem pollerSecond (h : s.CeilingsHold) : s.pollerSecond.CeilingsHold := by
  have hopen : ∀ u : State, u.CeilingsHold → u.abandonProbe.openRound.CeilingsHold := fun u hu => by
    have h1 : u.abandonProbe.CeilingsHold := hu.congr
    exact proceed (h1.congr rfl rfl)
  unfold State.pollerSecond
  dsimp only
  split
  · exact hopen _ h.closeByDeadline
  · exact hopen _ h

theorem frameAtExchange (h : s.CeilingsHold) (l : Loop) (e : Exchange) (kind : ReplyKind) :
    (s.frameAtExchange l e kind).CeilingsHold := by
  unfold State.frameAtExchange
  repeat' split
  · exact (h.modLoop l _).endExchange e _
  · exact h.failAttempt e
  · exact h
  · exact h.failAttempt e
  · exact h
  · exact (h.modLoop l _).endExchange e _
  · exact h
  · exact h
  · exact h

theorem loopFrame (h : s.CeilingsHold) (l : Loop) (bytes : List Byte) : (s.loopFrame l bytes).CeilingsHold := by
  unfold State.loopFrame
  repeat' split
  · exact h.congr
  · exact h
  · exact h
  · exact h.frameAtExchange l _ _
  · exact h.congr
  · exact h

theorem replyExpiry (h : s.CeilingsHold) (l : Loop) (receiving : Bool) : (s.replyExpiry l receiving).CeilingsHold := by
  unfold State.replyExpiry
  repeat' split
  · exact h.withPoller _
  · exact h.failAttempt _
  · exact h
  · exact h.withPoller _
  · exact h.congr
  · exact h
  · exact h

theorem testExpiry (h : s.CeilingsHold) : s.testExpiry.CeilingsHold := by
  unfold State.testExpiry
  repeat' split
  · exact h.congr
  · exact h
  · exact h

theorem roundDeadline (h : s.CeilingsHold) : s.roundDeadline.CeilingsHold := by
  unfold State.roundDeadline
  split
  · exact h.closeByDeadline
  · exact h

/-! ### Requests (R170) -/

theorem exchangeBook (h : s.CeilingsHold) (b : List BookRecord) : (s.exchangeBook b).CeilingsHold :=
  evaluateLost (h.withBook _)

theorem disableInRound (h : s.CeilingsHold) (st : Station) : (s.disableInRound st).CeilingsHold := by
  unfold State.disableInRound
  repeat' split
  · exact proceed (h.withPoller _)
  · exact h.withPoller _
  · exact h
  · exact h

theorem changeStation (h : s.CeilingsHold) (st : Station) (before after : StationEntry) :
    (s.changeStation st before after).CeilingsHold := by
  have h1 : (s.putEntry st after).CeilingsHold := h.congr
  have h2 : ((s.putEntry st after).disableAccount st).CeilingsHold := h1.congr
  have h3 := h1.setStationState st .unknown
  unfold State.changeStation
  dsimp only
  repeat' split
  · exact (h2.setStationState st _).disableInRound st
  · exact h3.congr
  · exact h3
  · exact h1

/-- R170: a request served by its owner. -/
theorem serve (h : s.CeilingsHold) (o : Open) (i : Slot) (copy : List Byte) (k : RequestKind) :
    (Machine.serve o i copy s k).1.CeilingsHold := by
  cases k <;> simp only [Machine.serve]
  case setClock =>
    unfold serveSetClock
    dsimp only
    repeat' split
    · exact h
    · exact h.withClock _
    · exact (h.withClock _).clockMoved _ _
  case restartSchedule =>
    unfold serveRestartSchedule
    split
    · exact h
    · exact h.walkerRestart
  case resumeSchedule =>
    unfold serveResumeSchedule
    repeat' split
    · exact h
    · exact h.walkerResume _ _
    · exact h
  case setWatch =>
    unfold serveSetWatch
    dsimp only
    repeat' split
    · exact h
    · exact h
    · exact h.withWalker _
  case swapBook =>
    unfold serveSwapBook
    dsimp only
    split
    · exact h
    · cases validateArea s.ram (otherArea s.book.area) with
      | ok b =>
        dsimp only
        exact h.exchangeBook b
      | error f => exact h
  case setFlags =>
    unfold serveSetFlags
    dsimp only
    split
    · exact h
    · exact h.withScanner _
  case holdStage =>
    unfold serveHoldStage
    split
    · exact h
    · dsimp only
      exact h.setHold _ _
  case releaseStage =>
    unfold serveReleaseStage
    split
    · exact h
    · dsimp only
      exact h.setHold _ _
  case measureAmbient =>
    unfold serveMeasureAmbient
    dsimp only
    repeat' split
    · exact h
    · exact h
    · exact h
    · dsimp only
      exact setAmbientMute (h.withAcc _) true
  case abortAmbient =>
    unfold serveAbortAmbient
    split
    · exact h.abortAmbient
    · exact h
  case setAmbient =>
    unfold serveSetAmbient
    repeat' split
    · exact h
    · exact h
    · exact h.withBook _
  case loopTest =>
    unfold serveLoopTest
    repeat' split
    · exact h
    · exact h
    · exact h
    · exact h
    · exact (h.modLoop _ _).withPoller _
  case setStation =>
    unfold serveSetStation
    dsimp only
    repeat' split
    · exact h
    · exact h
    · exact h
    · exact h
    · exact h.changeStation _ _ _
  case readWindow =>
    unfold serveReadWindow
    split
    · exact h
    · exact h

theorem takeSlot (h : s.CeilingsHold) (o : Open) (i : Slot) (p : Scan) : (s.takeSlot o i p).CeilingsHold := by
  have hmark : ∀ (u : State) (copy : List Byte) (r : Reply),
      u.CeilingsHold → ((u.answer i copy r).markInFlight i copy r).CeilingsHold := by
    intro u copy r hu
    have h1 : (u.answer i copy r).CeilingsHold := hu.congr
    unfold State.markInFlight
    split
    · exact h1.withScanner _
    · exact h1
  unfold State.takeSlot
  dsimp only
  refine hmark _ _ _ ?_
  split
  · exact (h.withScanner _).serve o i _ _
  · exact h.withScanner _

theorem takeKind (h : s.CeilingsHold) (o : Open) (want : SlotKind → Bool) (i : Slot) : (s.takeKind o want i).CeilingsHold := by
  unfold State.takeKind
  repeat' split
  · exact h.takeSlot _ _ _
  · exact h
  · exact h

theorem runScan (h : s.CeilingsHold) (o : Open) (n : Nat) : (s.runScan o n).CeilingsHold := by
  induction n generalizing s with
  | zero => exact h
  | succ n ih =>
    unfold State.runScan
    repeat' split
    · exact ih (h.takeSlot _ _ _)
    · exact h.withScanner _
    · exact h

theorem scanToEnd (h : s.CeilingsHold) (o : Open) : (s.scanToEnd o).CeilingsHold := by
  unfold State.scanToEnd
  repeat' split
  · exact h.runScan _ _
  · exact h
  · exact h

/-! ### The second event (Table 5-1) -/

theorem secondWork (h : s.CeilingsHold) (wrapped : Bool) (w : SecondWork) : (s.secondWork wrapped w).CeilingsHold := by
  cases w <;> simp only [State.secondWork]
  case accumulator =>
    split
    · exact forStations_preserves State.CeilingsHold _ (fun st t ht => ht.congr) s h
    · exact h
  case poller =>
    split
    · exact h.pollerSecond
    · exact h
  case linkSecond => exact h.clearCharged
  case linkOffer =>
    split
    · exact h.offerStopCeiling
    · exact h
  case scanner =>
    split
    · exact h.withScanner _
    · exact h
  case walker =>
    split
    · exact h.walkerSecond.walkerMoved
    · exact h.walkerSecond
  case minute =>
    split
    · exact h.closeMinute _ _
    · exact h
  case occupancy => exact h.congr

theorem secondEvent (h : s.CeilingsHold) (order : List SecondWork) : (s.secondEvent order).CeilingsHold := by
  unfold State.secondEvent
  split
  · exact h
  · exact foldl_preserves State.CeilingsHold _ (fun _ w ht => ht.secondWork _ w) _ _ (h.withClock _)

end State.CeilingsHold

/-! ### Starts, stops and resets (R100, R101, R103 to R105) -/

/-- Table 7-3, check 4. -/
theorem stopCeiling_le {c : StartConfig} (h : c.ceilingAbove = false) : c.link.stopCeiling ≤ Config.fullScale := by
  unfold StartConfig.ceilingAbove at h
  simp only [Bool.or_eq_false_iff, decide_eq_false_iff_not, not_lt] at h
  exact h.1.1

/-- R162: a start whose checks all pass has passed check 4. -/
theorem startCheck_ceilings {m : Memory} {d : StartData} (h : startCheck m = .ok d) : d.config.ceilingAbove = false := by
  unfold startCheck at h
  dsimp only at h
  repeat' split at h
  all_goals cases h
  exact Bool.eq_false_iff.2 ‹¬ (readConfig m).ceilingAbove = true›

namespace State.CeilingsHold

theorem succeedStart (h : s.CeilingsHold) {d : StartData} (hd : startCheck s.ram = .ok d) : (s.succeedStart d).CeilingsHold := by
  have h1 : (s.withConfig d).CeilingsHold := h.congr rfl rfl
  have h2 : (s.takeConfig d).CeilingsHold := by
    rw [takeConfig_eq]
    exact (h1.startLinks (stopCeiling_le (startCheck_ceilings hd))).congr
  have h3 : ((s.configured d).startGain.startWalker d).CeilingsHold :=
    endPass (withWalker (startGain (h2.withBook _)) _) _ _ _ _
  have h4 : (s.started d).CeilingsHold := by
    unfold State.started
    exact h3.congr
  obtain ⟨r, n, c, he, -⟩ := succeedStart_of d (s := s) rfl
  rw [he]
  exact h4.congr rfl rfl

theorem failStart (h : s.CeilingsHold) (e : StartError) : (s.failStart e).CeilingsHold :=
  withScanner (post (h.withRun _) _ _ _) _

theorem completeStart (h : s.CeilingsHold) : s.completeStart.CeilingsHold := by
  unfold State.completeStart
  repeat' split
  · next hd => exact h.succeedStart hd
  · exact h.failStart _
  · exact h

theorem stopRound (h : s.CeilingsHold) : s.stopRound.CeilingsHold := by
  have h1 := h.withPoller { s.poller with exch := none, probe := none, probeDue := [], todo := [] }
  unfold State.stopRound
  dsimp only
  split
  · exact (h1.handMissing _).advanceRest.withPoller _
  · exact h1

theorem stopAmbient (h : s.CeilingsHold) : s.stopAmbient.CeilingsHold := by
  unfold State.stopAmbient
  split
  · exact h.abortAmbient
  · exact h

theorem stopShow (h : s.CeilingsHold) : s.stopShow.CeilingsHold := by
  have h1 : s.toIdle.CeilingsHold := h.withRun _
  have h2 : s.toIdle.stoppedWork.CeilingsHold := by
    unfold State.stoppedWork
    exact h1.stopAmbient.stopRound.congr
  have h3 : s.stopped.CeilingsHold := h2.stopGain.stopLinks
  obtain ⟨r, n, he⟩ := stopShow_of (s := s) rfl
  rw [he]
  generalize s.stopped = u at h3 ⊢
  exact h3.congr rfl rfl

/-- R54, R104: nothing applied below 4096, nothing outstanding and no configuration. -/
theorem softReset (s : State) : s.softReset.CeilingsHold := by
  have h : s.forgotten.CeilingsHold := by
    refine ⟨fun k => ?_, fun k => ?_, fun g hg => (by cases hg)⟩
    · rw [forgotten_stage]
      exact (congrArg GainStage.applied (replicate_get GainStage.reset k)).le
    · rw [forgotten_line]
      exact .of_none rfl rfl
  rw [softReset_eq]
  exact h.congr rfl rfl

theorem assertReset (s : State) : s.assertReset.CeilingsHold := by
  refine ⟨fun k => ?_, fun k => ?_, fun g hg => (by cases hg)⟩
  · exact (congrArg GainStage.applied (replicate_get GainStage.reset k)).le
  · exact (replicate_get Link.reset k).symm ▸ .of_none rfl rfl

/-! ### The registers (R160, R192) -/

theorem writeMute (h : s.CeilingsHold) (v : Bool) : (s.writeMute v).CeilingsHold := by
  unfold State.writeMute
  split
  · exact h
  · exact changeTerms (h.withRun _) _

theorem writeIntEnable (h : s.CeilingsHold) (v : Bool) : (s.writeIntEnable v).CeilingsHold := by
  unfold State.writeIntEnable
  split
  · exact h
  · exact h.congr

theorem writeRun (h : s.CeilingsHold) (v : Bool) : (s.writeRun v).CeilingsHold := by
  unfold State.writeRun
  repeat' split
  · exact h
  · exact post (h.withRun _) _ _ _
  · exact h.stopShow
  · exact h.failStart _
  · exact h.withRun _

theorem writeRegister (h : s.CeilingsHold) (reg : Reg) (high : Half) : (s.writeRegister reg high).CeilingsHold := by
  unfold State.writeRegister
  dsimp only
  split
  · exact h
  · cases reg <;> dsimp only
    case control =>
      unfold State.writeControl
      split
      · exact softReset s
      · exact ((h.writeMute _).writeIntEnable _).writeRun _
    case status =>
      unfold State.writeStatus
      split
      · exact h.withNotices _
      · exact h
    case attention =>
      unfold State.writeAttention
      split
      · exact h
      · exact h.withScanner _
      · exact h.withScanner _
      · exact h.withScanner _
    case noticeTail =>
      unfold State.writeNoticeTail
      split
      · exact h.congr
      · exact h
    all_goals exact h

/-! ### Every command -/

theorem exec (h : s.CeilingsHold) (c : Instr) (ht : Machine.exec c s = .next t) : t.CeilingsHold := by
  cases c <;> cases ht
  case hardwareReset => exact assertReset s
  case resetRelease =>
    unfold State.releaseReset
    split
    · exact h.congr rfl rfl
    · exact h
  case ramClearComplete =>
    unfold State.endClearing
    split
    · exact post (h.withRun _) _ _ _
    · exact h
  case secondEvent => exact h.secondEvent _
  case startChecksComplete => exact h.completeStart
  case start | stop | softReset | immediateMute | intEnable | noticeOverrunClear | attention | noticeTailWrite
      | registerWriteIgnored => exact h.writeRegister _ _
  case registerLowHalfWrite =>
    unfold State.writeLowHalf
    split
    · exact h
    · exact h.withRegs _
  case hostRamAccess word access =>
    unfold State.hostAccess
    cases access with
    | read => exact h.withRegs _
    | write data low high =>
      dsimp only
      split
      · exact h
      · exact h.setRam _
  case requestScan => exact h.scanToEnd _
  case setClock | restartSchedule | resumeSchedule | setWatch | swapBook | setFlags | holdStage | releaseStage
      | measureAmbient | abortAmbient | setAmbient | loopTest | setStation | readWindow | requestBadKind =>
    exact h.takeKind _ _ _
  case pollSent => exact h.congr
  case replyTimeout => exact h.replyExpiry _ _
  case loopFrameReceived => exact h.loopFrame _ _
  case loopFrameSilence => exact h.loopFrame _ _
  case roundDeadline => exact h.roundDeadline
  case ceilingSent k => exact h.modLink k (h.line k).sent
  case ackTimeout => exact h.ackExpiry _ _
  case linkFrameReceived => exact h.judgeAck _ _
  case linkFrameSilence => exact h.judgeAck _ _
  case testFrameTimeout => exact h.testExpiry
  case registerLowHalfRead => exact h.withRegs _
  case ramContentDisturbed => exact h.setRam _

theorem step (h : s.CeilingsHold) (ht : Machine.step s = .next t) : t.CeilingsHold := by
  unfold Machine.step at ht
  split at ht
  · cases ht
    exact h
  · next c rest _ => exact exec (h.congr (t := { s with pending := rest }) rfl rfl) c ht

end State.CeilingsHold

/-- Settles O11: what the Gain Allocator hands on is an applied ceiling or a hard bound, and neither lies above 4096. -/
theorem stepKeepsCommandCeilings : Obligations.StepKeepsCommandCeilings := by
  unfold Obligations.StepKeepsCommandCeilings
  intro s t hb hl ht
  have h : s.CeilingsHold := ⟨fun k => (hb k).trans (bound_le _).1, hl⟩
  exact (h.step ht).links

end Sys2Proof.Machine

/-! SUPPORT. A failed attempt of a ceiling command (R89), the failed second that its exhaustion charges (R95), and O53. -/

namespace Sys2Proof.Machine

variable {s : State} {k : Stage} {c : Command}

/-! ### The attempt that fails (R87, R89) -/

/-- R89: while a frame is being received the expiry waits for it. -/
theorem ackExpiry_receiving (hout : s.links.lines[k].out = some c) (hp : c.phase = .waiting) :
    s.ackExpiry k true = s.setLink k { s.links.lines[k] with out := some { c with phase := .expired } } := by
  unfold State.ackExpiry
  rw [hout]
  exact if_pos hp

theorem ackExpiry_fails (hout : s.links.lines[k].out = some c) (hp : c.phase = .waiting) :
    s.ackExpiry k false = s.failCommand k c := by
  unfold State.ackExpiry
  rw [hout]
  exact if_pos hp

section

variable (htx : s.links.lines[k].tx = none) (hout : s.links.lines[k].out = some c)

include htx hout

/-- R87: an invalid or incomplete frame. -/
theorem judgeAck_invalid (hp : c.phase = .waiting ∨ c.phase = .expired) : s.judgeAck k none = s.failCommand k c := by
  unfold State.judgeAck
  rw [htx, hout]
  dsimp only
  rcases hp with hp | hp <;> rw [hp]

/-- R87, R89: an ACK of another number, once the timer has expired. -/
theorem judgeAck_late {f : AckFrame} (hp : c.phase = .expired) (hf : f.echo ≠ c.seq) : s.judgeAck k (some f) = s.failCommand k c := by
  unfold State.judgeAck
  rw [htx, hout]
  dsimp only
  rw [hp]
  exact if_neg hf

/-- The commands that fail the attempt that waits. -/
theorem exec_failsAttempt (hp : c.phase = .waiting ∨ c.phase = .expired) {cmd : Instr}
    (h : (c.phase = .waiting ∧ cmd = .ackTimeout k false) ∨ cmd = .linkFrameSilence k ∨
      ∃ bytes, cmd = .linkFrameReceived k bytes ∧
        (parseAck k bytes = none ∨ (c.phase = .expired ∧ ∃ f, parseAck k bytes = some f ∧ f.echo ≠ c.seq))) :
    exec cmd s = .next (s.failCommand k c) := by
  rcases h with ⟨hwait, rfl⟩ | rfl | ⟨bytes, rfl, hbytes⟩
  · exact congrArg Host.Outcome.next (ackExpiry_fails hout hwait)
  · exact congrArg Host.Outcome.next (judgeAck_invalid htx hout hp)
  · refine congrArg Host.Outcome.next ?_
    rcases hbytes with hnone | ⟨hexp, f, hf, hecho⟩
    · rw [hnone]
      exact judgeAck_invalid htx hout hp
    · rw [hf]
      exact judgeAck_late htx hout hexp hecho

end

/-! ### The attempts exhausted (R89, R92, R95) -/

/-- The link of stage `k` once its command has ended unacknowledged, the second charged and the pending value taken. -/
def State.exhausted (s : State) (k : Stage) : Link :=
  ({ s.links.lines[k] with out := none } : Link).charge.sendPending (s.run.state == .starting) k

theorem exhaust_links (k : Stage) (s : State) :
    (s.exhaust k).links = { s.links with lines := upd s.links.lines k (s.exhausted k) } := by
  obtain ⟨-, -, -, -, -, hlinks, -⟩ :=
    reevaluateLink_keeps k (s.modLink k fun l => ({ l with out := none } : Link).charge)
  unfold State.exhaust
  rw [modLink_links, hlinks, modLink_same, modLink_links, upd_upd]
  rfl

/-- R92, R100: the pending value at the end of a command that no frame follows on the line. -/
theorem sendPending_begins {l : Link} (htx : l.tx = none) (hout : l.out = none) (r : RunState) (k : Stage) :
    match l.pend with
    | some v =>
      if r = .starting then
        (l.sendPending (r == .starting) k).out = none ∧ (l.sendPending (r == .starting) k).seq = l.seq
      else l.Carries (l.sendPending (r == .starting) k) v
    | none => (l.sendPending (r == .starting) k).out = none ∧ (l.sendPending (r == .starting) k).seq = l.seq := by
  cases hv : l.pend with
  | none =>
    rw [sendPending_none hv]
    exact ⟨hout, rfl⟩
  | some v =>
    dsimp only
    split
    · next hs =>
      rw [hs, beq_self_eq_true, sendPending_starting hv]
      exact ⟨hout, rfl⟩
    · next hs =>
      rw [beq_false_of_ne hs]
      exact (sendPending_sends hv htx k).1

/-- Settles O53: each command named fails the attempt; the frame goes out again before the third failure, and the third ends the
command. -/
theorem commandIsResentThenCharged : Obligations.CommandIsResentThenCharged := by
  unfold Obligations.CommandIsResentThenCharged
  intro s k c
  refine fun htx hout hp => ⟨fun hwait => congrArg Host.Outcome.next (ackExpiry_receiving hout hwait), fun cmd hcmd => ?_⟩
  rw [exec_failsAttempt htx hout hp hcmd]
  refine ⟨fun hlt => congrArg Host.Outcome.next (if_pos hlt), fun hge => ?_⟩
  have hfail : s.failCommand k c = s.exhaust k := if_neg (Nat.not_lt.2 hge)
  obtain ⟨hrun, hclock, hregs, hgain, hpoll, hwalk, hbook, hscan, hlog, -⟩ := exhaust_keeps k s
  obtain ⟨hstate, hfailed, hlimiter, -, hcharged, hpend⟩ :=
    sendPending_keeps (s.run.state == .starting) k ({ s.links.lines[k] with out := none } : Link).charge
  exact ⟨_, _, congrArg Host.Outcome.next hfail, exhaust_links k s, hcharged, hfailed, hlimiter, hpend, hstate,
    sendPending_begins (l := ({ s.links.lines[k] with out := none } : Link).charge) htx rfl s.run.state k, hgain, hpoll, hwalk,
    hbook, hrun, hclock, hregs, hscan, hlog⟩

end Sys2Proof.Machine

/-! SUPPORT. What the end of a pass makes of the walker (R118, R122 to R125, R130, R134), as one equation. -/

namespace Sys2Proof.Machine

-- Proofs one at a time: those that wait side by side each hold a thread's stack.
set_option Elab.async false

variable {s t u : State}

/-- The walker state that a pass ends in (R122, R123, R130, R134). -/
def PassEnd.leaves : PassEnd → WalkerState
  | .notDue => .waiting
  | .final => .final
  | .watch _ => .paused
  | .fault _ _ _ => .faulted

/-- The pause that a pass ends with (R130). -/
def PassEnd.pauses : PassEnd → Option Pause
  | .watch q => some q
  | .notDue => none
  | .final => none
  | .fault _ _ _ => none

/-- The entry that the end of a pass activates: the start's first pass activates the last LIMIT reached whatever ends it (R134). -/
def Pass.puts (starting : Bool) (p : Pass) : Option LimitEntry := if starting then p.last else p.activates

/-- The walker after a pass. -/
def Walker.afterPass (starting : Bool) (p : Pass) (w : Walker) : Walker :=
  { w with state := p.ending.leaves, active := (p.puts starting).or w.active, pause := p.ending.pauses, links := p.links }

theorem leaves_ne_unstarted (e : PassEnd) : e.leaves ≠ .unstarted := by cases e <;> simp [PassEnd.leaves]

theorem pauses_iff (e : PassEnd) : e.pauses.isSome = true ↔ e.leaves = .paused := by
  cases e <;> simp [PassEnd.leaves, PassEnd.pauses]

@[simp] theorem activate_walker (cause : PassCause) (b : Bool) (e : LimitEntry) (s : State) :
    (s.activate cause b e).walker = { s.walker with active := some e } := by
  unfold State.activate
  simp

theorem takeLast_walker (cause : PassCause) (p : Pass) (s : State) :
    (s.takeLast cause p).walker = { s.walker with active := p.last.or s.walker.active } := by
  unfold State.takeLast
  cases p.last with
  | none => rfl
  | some e => exact activate_walker cause false e s

theorem takeFault_walker (cause : PassCause) (starting : Bool) (p : Pass) (s : State) :
    (s.takeFault cause starting p).walker =
      { s.walker with active := (if starting then p.last else none).or s.walker.active } := by
  unfold State.takeFault
  cases starting with
  | false => exact (changeTerms_keeps _ s).2.2.2.2.2.1
  | true =>
    cases p.last with
    | none => exact (changeTerms_keeps _ s).2.2.2.2.2.1
    | some e => exact activate_walker cause true e s

theorem endPass_walker (cause : PassCause) (starting : Bool) (found : WalkerState) (p : Pass) (s : State) :
    (s.endPass cause starting found p).walker = s.walker.afterPass starting p := by
  have hlast : p.ending.leaves ≠ .faulted → p.puts starting = p.last := fun h => by
    unfold Pass.puts Pass.activates
    cases he : p.ending <;> simp_all [PassEnd.leaves]
  have htake := takeLast_walker cause p (s.countLinks p.links)
  unfold Walker.afterPass
  cases he : p.ending with
  | notDue =>
    rw [endPass_notDue _ _ _ _ he, hlast (by rw [he]; decide)]
    exact congrArg (fun w : Walker => { w with state := .waiting }) htake
  | final =>
    rw [endPass_final _ _ _ _ he, hlast (by rw [he]; decide)]
    exact congrArg (fun w : Walker => { w with state := .final }) htake
  | watch q =>
    rw [endPass_watch _ _ _ _ he, hlast (by rw [he]; exact WalkerState.noConfusion), (postWatchReached_keeps _ _ _).2.2.2.2.2.2.2.1]
    exact congrArg (fun w : Walker => { w with state := .paused, pause := some q }) htake
  | fault reason entry link =>
    have hputs : p.puts starting = if starting then p.last else none := by
      unfold Pass.puts Pass.activates
      rw [he]
    rw [endPass_fault _ _ _ _ he, (reportFault_keeps _ _ _ _ _).2.2.2.2.2.2.2.1, hputs]
    exact congrArg (fun w : Walker => { w with state := .faulted }) (takeFault_walker cause starting p (s.countLinks p.links))

end Sys2Proof.Machine


/-! SUPPORT. The walker through every operation of the part (R118), and O9. -/

namespace Sys2Proof.Machine

-- Proofs one at a time: those that wait side by side each hold a thread's stack.
set_option Elab.async false

variable {s t u : State}

namespace State.WalkerSound

/-- The invariant reads the run state and the walker alone. -/
theorem congr (h : s.WalkerSound) (hr : t.run.state = s.run.state := by simp) (hw : t.walker = s.walker := by simp) :
    t.WalkerSound := by
  unfold State.WalkerSound
  rw [hr, hw]
  exact h

/-- The run state moves between values other than RUNNING. -/
theorem offstage (h : s.WalkerSound) (hs : s.run.state ≠ .running) (ht : t.run.state ≠ .running)
    (hw : t.walker = s.walker := by simp) : t.WalkerSound := by
  obtain ⟨hrun, hrest⟩ := h
  unfold State.WalkerSound
  rw [hw]
  exact ⟨iff_of_false ht fun h => hs (hrun.2 h), hrest⟩

/-- R118: the walker UNSTARTED, with no entry active and no pause, outside RUNNING. -/
theorem ended (hr : t.run.state ≠ .running) (hs : t.walker.state = .unstarted) (ha : t.walker.active = none)
    (hp : t.walker.pause = none) : t.WalkerSound := by
  unfold State.WalkerSound
  rw [hs, ha, hp]
  exact ⟨iff_of_false hr fun h => h rfl, iff_of_true rfl rfl, by simp⟩

/-- A pass in RUNNING with an entry active after it. -/
theorem passed {starting : Bool} {p : Pass} {w : Walker} (hr : t.run.state = .running)
    (hw : t.walker = w.afterPass starting p) (ha : ((p.puts starting).or w.active).isSome = true) : t.WalkerSound := by
  have hactive : (p.puts starting).or w.active ≠ none := Option.isSome_iff_ne_none.1 ha
  have hstate := leaves_ne_unstarted p.ending
  unfold State.WalkerSound
  rw [hw]
  exact ⟨iff_of_true hr hstate, iff_of_false hactive hstate, pauses_iff p.ending⟩

/-! ### Schedule Walker -/

/-- A pass from a walker that has left UNSTARTED. -/
theorem endPass (h : s.WalkerSound) (hs : s.walker.state ≠ .unstarted) (cause : PassCause) (found : WalkerState) (p : Pass) :
    (s.endPass cause false found p).WalkerSound := by
  obtain ⟨hrun, hactive, -⟩ := h
  refine passed ?_ (endPass_walker cause false found p s) ?_
  · rw [(endPass_keeps cause false found p s).1]
    exact hrun.2 hs
  · rw [Option.isSome_or, Option.isSome_iff_ne_none.2 fun e => hs (hactive.1 e), Bool.or_true]

theorem walkerSecond (h : s.WalkerSound) : s.walkerSecond.WalkerSound := by
  unfold State.walkerSecond
  repeat' split
  · next hw _ _ _ => exact h.endPass (by rw [hw]; decide) _ _ _
  · exact h
  · exact h

theorem walkerMoved (h : s.WalkerSound) : s.walkerMoved.WalkerSound := by
  unfold State.walkerMoved
  split
  · next hw => exact h.endPass (by rcases hw with hw | hw | hw <;> rw [hw] <;> decide) _ _ _
  · exact h

theorem walkerRestart (h : s.WalkerSound) (hr : s.run.state = .running) : s.walkerRestart.1.WalkerSound := by
  have hw : s.leaveFaulted.walker = s.walker := (leaveFaulted_keeps s).2.2.2.2.2.1
  have hs : s.walker.state ≠ .unstarted := h.1.1 hr
  unfold State.walkerRestart
  dsimp only
  exact State.WalkerSound.endPass (h.congr (by simp) hw) (by rw [hw]; exact hs) _ _ _

/-! ### Requests -/

theorem clockMoved (h : s.WalkerSound) (logFirst : Bool) (before : Nat) : (s.clockMoved logFirst before).WalkerSound := by
  unfold State.clockMoved
  dsimp only
  repeat' split
  · exact (h.congr (t := s.closeMinute _ _)).walkerMoved
  · exact h.walkerMoved
  · exact h.walkerMoved.congr
  · exact h.walkerMoved

theorem serveSetClock (h : s.WalkerSound) (b : Bool) (copy : List Byte) : (Machine.serveSetClock b copy s).1.WalkerSound := by
  have hclock : ∀ v : Nat, State.WalkerSound { s with clock := v } := fun v => h.congr rfl rfl
  unfold Machine.serveSetClock
  dsimp only
  repeat' split
  · exact h
  · exact hclock _
  · exact (hclock _).clockMoved _ _

theorem serveRestartSchedule (h : s.WalkerSound) (copy : List Byte) :
    (Machine.serveRestartSchedule copy s).1.WalkerSound := by
  unfold Machine.serveRestartSchedule
  split
  · exact h
  · next hr => exact h.walkerRestart (not_not.1 hr)

theorem serveResumeSchedule (h : s.WalkerSound) (holder : Byte) (copy : List Byte) :
    (Machine.serveResumeSchedule holder copy s).1.WalkerSound := by
  unfold Machine.serveResumeSchedule
  repeat' split
  · exact h
  · next hw _ => exact h.endPass (by rw [hw]; decide) _ _ _
  · exact h

/-- R133: the watch index is no part of the invariant. -/
theorem serveSetWatch (h : s.WalkerSound) (copy : List Byte) : (Machine.serveSetWatch copy s).1.WalkerSound := by
  unfold Machine.serveSetWatch
  dsimp only
  repeat' split
  all_goals exact h

end State.WalkerSound

/-- The requests that the walker does not take. -/
def RequestKind.offWalker (k : RequestKind) : Prop :=
  k ≠ .setClock ∧ k ≠ .restartSchedule ∧ k ≠ .resumeSchedule ∧ k ≠ .setWatch

theorem serve_walker {k : RequestKind} (h : k.offWalker) (o : Open) (i : Slot) (copy : List Byte) (s : State) :
    (serve o i copy s k).1.walker = s.walker := by
  obtain ⟨hclock, hrestart, hresume, hwatch⟩ := h
  cases k <;> simp only [serve]
  case setClock => exact absurd rfl hclock
  case restartSchedule => exact absurd rfl hrestart
  case resumeSchedule => exact absurd rfl hresume
  case setWatch => exact absurd rfl hwatch
  case swapBook =>
    unfold serveSwapBook
    dsimp only
    repeat' split
    all_goals simp
  case setFlags => unfold serveSetFlags; dsimp only; split <;> rfl
  case holdStage => unfold serveHoldStage; split <;> simp
  case releaseStage => unfold serveReleaseStage; split <;> simp
  case measureAmbient =>
    unfold serveMeasureAmbient
    dsimp only
    repeat' split
    all_goals simp
  case abortAmbient => unfold serveAbortAmbient; split <;> simp
  case setAmbient =>
    unfold serveSetAmbient
    repeat' split
    all_goals rfl
  case loopTest =>
    unfold serveLoopTest
    repeat' split
    all_goals simp
  case setStation =>
    unfold serveSetStation
    dsimp only
    repeat' split
    all_goals simp
  case readWindow => unfold serveReadWindow; split <;> rfl

theorem markInFlight_walker (i : Slot) (copy : List Byte) (r : Reply) (s : State) : (s.markInFlight i copy r).walker = s.walker := by
  unfold State.markInFlight
  split <;> rfl

namespace State.WalkerSound

theorem serve (h : s.WalkerSound) (o : Open) (i : Slot) (copy : List Byte) (k : RequestKind) :
    (Machine.serve o i copy s k).1.WalkerSound := by
  have hother : k.offWalker → (Machine.serve o i copy s k).1.WalkerSound := fun hk =>
    h.congr (by rw [(serve_run o i copy s k).1]) (serve_walker hk o i copy s)
  cases k
  case setClock => exact h.serveSetClock _ copy
  case restartSchedule => exact h.serveRestartSchedule copy
  case resumeSchedule => exact h.serveResumeSchedule _ copy
  case setWatch => exact h.serveSetWatch copy
  all_goals exact hother (by simp [RequestKind.offWalker])

theorem withScanner (h : s.WalkerSound) (c : Scanner) : State.WalkerSound { s with scanner := c } := h.congr rfl rfl

theorem takeSlot (h : s.WalkerSound) (o : Open) (i : Slot) (p : Scan) : (s.takeSlot o i p).WalkerSound := by
  have hwritten : ∀ {v : State} (copy : List Byte) (r : Reply), v.WalkerSound →
      ((v.answer i copy r).markInFlight i copy r).WalkerSound := fun {v} copy r hv =>
    hv.congr (by rw [(markInFlight_run _ _ _ _).1]; simp) (by rw [markInFlight_walker]; simp)
  unfold State.takeSlot
  dsimp only
  cases s.ram.slotKind i with
  | kind k => exact hwritten _ _ ((h.withScanner _).serve o i _ k)
  | bad code => exact hwritten _ _ (h.withScanner _)

theorem takeKind (h : s.WalkerSound) (o : Open) (want : SlotKind → Bool) (i : Slot) : (s.takeKind o want i).WalkerSound := by
  unfold State.takeKind
  repeat' split
  · exact h.takeSlot o i _
  · exact h
  · exact h

theorem runScan (h : s.WalkerSound) (o : Open) (n : Nat) : (s.runScan o n).WalkerSound := by
  induction n generalizing s with
  | zero => exact h
  | succ n ih =>
    unfold State.runScan
    repeat' split
    · exact ih (h.takeSlot _ _ _)
    · exact h.withScanner _
    · exact h

theorem scanToEnd (h : s.WalkerSound) (o : Open) : (s.scanToEnd o).WalkerSound := by
  unfold State.scanToEnd
  repeat' split
  · exact h.runScan _ _
  · exact h
  · exact h

/-! ### Run Control -/

/-- R128, R129, R164: the start's first pass activates an entry. -/
theorem succeedStart (d : StartData) : (s.succeedStart d).WalkerSound := by
  have hwalk : ∃ (v : State) (w : Walker), (s.started d).walker = w.afterPass true (v.passAtStart d.count d.head) := by
    unfold State.started State.startWalker
    rw [(startStations_keeps _).2.2.2.2.2.2.2.1, (startPriming_keeps _).2.2.2.2.2.2.2.1]
    exact ⟨_, _, endPass_walker _ _ _ _ _⟩
  obtain ⟨v, w, hw⟩ := hwalk
  obtain ⟨r, n, c, ht, -⟩ := succeedStart_of d (s := s) rfl
  refine passed (w := w) (starting := true) (p := v.passAtStart d.count d.head) ?_ ?_ ?_
  · rw [ht]
  · rw [ht]
    exact hw
  · have hlast : ((v.passAtStart d.count d.head).puts true).isSome = true := passAtStart_last v d.count d.head
    rw [Option.isSome_or, hlast, Bool.true_or]

theorem failStart (h : s.WalkerSound) (hs : s.run.state = .starting) (e : StartError) : (s.failStart e).WalkerSound := by
  unfold State.failStart
  refine State.WalkerSound.withScanner (State.WalkerSound.offstage h (by rw [hs]; decide) ?_) _
  rw [(postRunState_keeps _ _).1]
  exact RunState.noConfusion

theorem completeStart (h : s.WalkerSound) : s.completeStart.WalkerSound := by
  unfold State.completeStart
  repeat' split
  · exact succeedStart _
  · next hs _ _ _ => exact h.failStart hs _
  · exact h

theorem beginStart (h : s.WalkerSound) (hs : s.run.state = .idle) : s.beginStart.WalkerSound := by
  unfold State.beginStart
  refine h.offstage (by rw [hs]; decide) ?_
  rw [(postRunState_keeps _ _).1]
  exact RunState.noConfusion

theorem stopShow : s.stopShow.WalkerSound := by
  obtain ⟨r, n, h⟩ := stopShow_of (s := s) rfl
  refine ended (by rw [stopShow_idle]; decide) ?_ ?_ ?_ <;> rw [h] <;> rfl

theorem softReset : s.softReset.WalkerSound := by
  have hw : s.softReset.walker = .reset := (postRunState_keeps _ _).2.2.2.2.2.2.2.1
  refine ended (by rw [softReset_idle]; decide) ?_ ?_ ?_ <;> rw [hw] <;> rfl

theorem assertReset : s.assertReset.WalkerSound := ended RunState.noConfusion rfl rfl rfl

theorem releaseReset (h : s.WalkerSound) : s.releaseReset.WalkerSound := by
  unfold State.releaseReset
  split
  · exact h.congr rfl rfl
  · exact h

theorem endClearing (h : s.WalkerSound) : s.endClearing.WalkerSound := by
  unfold State.endClearing
  split
  · next hs =>
    refine h.offstage (by rw [hs.1]; decide) ?_
    rw [(postRunState_keeps _ _).1]
    exact RunState.noConfusion
  · exact h

/-! ### The bus and the timebase -/

theorem writeMute (h : s.WalkerSound) (v : Bool) : (s.writeMute v).WalkerSound := by
  unfold State.writeMute
  split
  · exact h
  · exact h.congr

theorem writeIntEnable (h : s.WalkerSound) (v : Bool) : (s.writeIntEnable v).WalkerSound := by
  unfold State.writeIntEnable
  split
  · exact h
  · exact h.congr

theorem writeRun (h : s.WalkerSound) (v : Bool) : (s.writeRun v).WalkerSound := by
  unfold State.writeRun
  split
  · exact h
  · split
    · next hs _ => exact h.beginStart hs
    · exact stopShow
    · next hs _ => exact h.failStart hs _
    · exact h.congr rfl rfl

theorem writeControl (h : s.WalkerSound) (v : Nat) : (s.writeControl v).WalkerSound := by
  unfold State.writeControl
  split
  · exact softReset
  · exact ((h.writeMute _).writeIntEnable _).writeRun _

theorem writeRegister (h : s.WalkerSound) (reg : Reg) (high : Half) : (s.writeRegister reg high).WalkerSound := by
  unfold State.writeRegister
  dsimp only
  split
  · exact h
  · cases reg <;> dsimp only
    case control => exact h.writeControl _
    case status =>
      unfold State.writeStatus
      split
      · exact h.congr rfl rfl
      · exact h
    case attention =>
      unfold State.writeAttention
      split
      · exact h
      · exact h.withScanner _
      · exact h.withScanner _
      · exact h.withScanner _
    case noticeTail =>
      unfold State.writeNoticeTail
      split
      · exact h.congr
      · exact h
    all_goals exact h

theorem hostAccess (h : s.WalkerSound) (word : BitVec 15) (access : RamAccess) : (s.hostAccess word access).WalkerSound := by
  unfold State.hostAccess
  cases access with
  | read => exact h.congr rfl rfl
  | write data low high =>
    dsimp only
    split
    · exact h
    · exact h.congr

theorem secondWork (h : s.WalkerSound) (wrapped : Bool) (w : SecondWork) : (s.secondWork wrapped w).WalkerSound := by
  cases w <;> simp only [State.secondWork]
  case walker =>
    split
    · exact h.walkerSecond.walkerMoved
    · exact h.walkerSecond
  case linkSecond | occupancy => exact h.congr
  all_goals
    split
    · exact h.congr
    · exact h

theorem secondEvent (h : s.WalkerSound) (order : List SecondWork) : (s.secondEvent order).WalkerSound := by
  unfold State.secondEvent
  split
  · exact h
  · exact foldl_preserves State.WalkerSound _ (fun _ w ht => ht.secondWork _ w) _ _ (h.congr rfl rfl)

theorem roundDeadline (h : s.WalkerSound) : s.roundDeadline.WalkerSound := by
  unfold State.roundDeadline
  split
  · exact h.congr
  · exact h

theorem testExpiry (h : s.WalkerSound) : s.testExpiry.WalkerSound := by
  unfold State.testExpiry
  repeat' split
  · exact h.congr
  · exact h
  · exact h

theorem exec (h : s.WalkerSound) (c : Instr) (ht : Machine.exec c s = .next t) : t.WalkerSound := by
  cases c <;> cases ht
  case hardwareReset => exact assertReset
  case resetRelease => exact h.releaseReset
  case ramClearComplete => exact h.endClearing
  case secondEvent => exact h.secondEvent _
  case startChecksComplete => exact h.completeStart
  case start | stop | softReset | immediateMute | intEnable | noticeOverrunClear | attention | noticeTailWrite
      | registerWriteIgnored => exact h.writeRegister _ _
  case registerLowHalfWrite =>
    unfold State.writeLowHalf
    split
    · exact h
    · exact h.congr rfl rfl
  case hostRamAccess => exact h.hostAccess _ _
  case requestScan => exact h.scanToEnd _
  case setClock | restartSchedule | resumeSchedule | setWatch | swapBook | setFlags | holdStage | releaseStage
      | measureAmbient | abortAmbient | setAmbient | loopTest | setStation | readWindow | requestBadKind =>
    exact h.takeKind _ _ _
  case roundDeadline => exact h.roundDeadline
  case pollSent | replyTimeout | loopFrameReceived | ceilingSent | ackTimeout | linkFrameReceived
      | linkFrameSilence | ramContentDisturbed => exact h.congr
  case loopFrameSilence => exact h.congr (by simp [State.loopSilence]) (by simp [State.loopSilence])
  case testFrameTimeout => exact h.testExpiry
  case registerLowHalfRead => exact h.congr rfl rfl

end State.WalkerSound

/-- Settles O9: the start's first pass activates an entry, no later pass takes the active one away, and a stop or a reset leaves the
walker UNSTARTED as the part leaves RUNNING. -/
theorem stepKeepsOneActiveEntry : Obligations.StepKeepsOneActiveEntry := by
  unfold Obligations.StepKeepsOneActiveEntry
  intro s t h ht
  unfold step at ht
  split at ht
  · cases ht
    exact h
  · next c rest _ => exact State.WalkerSound.exec (s := { s with pending := rest }) (h.congr rfl rfl) c ht

end Sys2Proof.Machine


/-! SUPPORT. The schedule as a pass reads it (R117, R120, R121, Tables 5-3 and 9-5): the validation of an entry and the conditions of
a TEST. -/

namespace Sys2Proof.Machine

-- Proofs one at a time: those that wait side by side each hold a thread's stack.
set_option Elab.async false

variable {m : Memory} {n : Nat}

/-! ### Validation (R121) -/

/-- Table 5-3. -/
theorem testInRange_iff (cond operand : Nat) : testInRange cond operand = true ↔ testValid cond operand := by
  unfold testInRange testValid
  split
  case h_9 =>
    refine iff_of_false Bool.false_ne_true ?_
    rintro ⟨hlow, hhigh, -⟩
    interval_cases cond <;> contradiction
  all_goals simp

theorem validate_kind {b : Bool} (h1 : (rawEntryAt m n).kind ≠ 1) (h2 : (rawEntryAt m n).kind ≠ 2) :
    (rawEntryAt m n).validate n b = .error .kind := by
  unfold RawEntry.validate
  rw [if_neg h1, if_neg h2]

theorem validate_limit_bad {b : Bool} (hk : (rawEntryAt m n).kind = 1) (h : ¬ limitValid m n) :
    (rawEntryAt m n).validate n b = .error .field := by
  unfold RawEntry.validate
  rw [if_pos hk, if_neg fun e => h ((limitInRange_iff m n).1 e)]

theorem validate_limit {b : Bool} (hk : (rawEntryAt m n).kind = 1) (h : limitValid m n) :
    (rawEntryAt m n).validate n b = .ok (.limit (limitAt m n)) := by
  unfold RawEntry.validate
  rw [if_pos hk, if_pos ((limitInRange_iff m n).2 h)]
  rfl

theorem validate_test_head (hk : (rawEntryAt m n).kind = 2) : (rawEntryAt m n).validate n true = .error .kind := by
  unfold RawEntry.validate
  rw [if_neg (by omega), if_pos hk, if_pos rfl]

theorem validate_test_bad (hk : (rawEntryAt m n).kind = 2) (h : ¬ testValid (rawEntryAt m n).byte2 (rawEntryAt m n).word8) :
    (rawEntryAt m n).validate n false = .error .field := by
  unfold RawEntry.validate
  rw [if_neg (by omega), if_pos hk, if_neg Bool.false_ne_true, if_neg fun e => h ((testInRange_iff _ _).1 e)]

theorem validate_test (hk : (rawEntryAt m n).kind = 2) (h : testValid (rawEntryAt m n).byte2 (rawEntryAt m n).word8) :
    (rawEntryAt m n).validate n false =
      .ok (.test (rawEntryAt m n).start (rawEntryAt m n).next (rawEntryAt m n).byte3 (rawEntryAt m n).byte2
        (rawEntryAt m n).word8) := by
  unfold RawEntry.validate
  rw [if_neg (by omega), if_pos hk, if_neg Bool.false_ne_true, if_pos ((testInRange_iff _ _).2 h)]

/-! ### Conditions (R117, Table 5-3) -/

theorem anyExceed_iff (s : State) : s.anyExceed = true ↔ ∃ st : Station, s.enabledStation st = true ∧
    (s.acc.accts[st].a.overdrawn = true ∨ s.acc.accts[st].c.overdrawn = true) := by
  simp only [State.anyExceed, Account.inExceed, List.any_eq_true, Bool.and_eq_true, Bool.or_eq_true]
  exact ⟨fun ⟨st, _, h⟩ => ⟨st, h⟩, fun ⟨st, h⟩ => ⟨st, mem_allStations st, h⟩⟩

theorem stageHeld_val (s : State) (k : Stage) : s.stageHeld k.val = s.gain.stages[k].hold.isSome := by
  simp [State.stageHeld]

theorem stationLive_val (s : State) (st : Station) : s.stationLive st.val = true ↔ s.poller.states[st] = .live := by
  simp [State.stationLive]

/-- Each condition reads what Table 5-3 says. -/
theorem conditionsHold (s : State) : s.conditionsHold := by
  refine ⟨fun n => ⟨Iff.rfl, ?_⟩, fun n => ⟨anyExceed_iff s, ?_⟩, fun k => ⟨?_, ?_⟩, fun st => ⟨stationLive_val s st, ?_⟩⟩
  · show (!s.scanner.flags.getLsbD n.val) = true ↔ _
    rw [Bool.not_eq_true']
  · show (!s.anyExceed) = true ↔ _
    rw [← anyExceed_iff s, Bool.not_eq_true', Bool.not_eq_true]
  · show s.stageHeld k.val = true ↔ _
    rw [stageHeld_val]
  · show (!s.stageHeld k.val) = true ↔ _
    rw [stageHeld_val, Bool.not_eq_true', Option.isSome_eq_false_iff, Option.isNone_iff_eq_none]
  · show (!s.stationLive st.val) = true ↔ _
    rw [Ne, ← stationLive_val s st, Bool.not_eq_true, Bool.not_eq_true']

end Sys2Proof.Machine


/-! SUPPORT. An advance pass link by link (R120 to R124), where it begins (R111, R119, R132), and what holds of every pass. -/

namespace Sys2Proof.Machine

-- Proofs one at a time: those that wait side by side each hold a thread's stack.
set_option Elab.async false

variable {s t u : State} {count left : Nat} {last : Option LimitEntry} {linker linkerStart link : Nat}

/-! ### The processing of an entry (R121) -/

/-- R121: entry `n` processed, whatever its start time, with `left` links still allowed. -/
def State.process (s : State) (count left : Nat) (last : Option LimitEntry) (n : Nat) (atHead : Bool) : Pass :=
  match (rawEntryAt s.ram n).validate n atHead with
  | .error reason => { last := last, links := Config.linkMax - left, ending := .fault reason n n }
  | .ok (.test start next taken cond operand) =>
    s.follow count left last n start (if s.holds cond operand then taken else next)
  | .ok (.limit l) =>
    if l.final then { last := some l, links := Config.linkMax - left, ending := .final }
    else s.follow count left (some l) n l.start l.next

theorem processFirst_eq (s : State) (count : Nat) (atHead : Bool) (n : Nat) :
    s.processFirst count atHead n (rawEntryAt s.ram n) = s.process count 64 none n atHead := rfl

theorem process_error {n : Nat} {atHead : Bool} {reason : FaultReason}
    (h : (rawEntryAt s.ram n).validate n atHead = .error reason) :
    s.process count left last n atHead = { last := last, links := 64 - left, ending := .fault reason n n } := by
  unfold State.process
  rw [h]
  rfl

/-- The processing of an entry gives what R121 says. -/
theorem process_processesTo (s : State) (count left : Nat) (last : Option LimitEntry) (n : Nat) (atHead : Bool) :
    s.processesTo count left last n atHead (s.process count left last n atHead) := by
  refine ⟨fun h1 h2 => process_error (validate_kind h1 h2), fun hk hv => process_error (validate_limit_bad hk hv),
    fun hk hv hf => ?_, fun hk hv hf => ?_, fun hk ha => ?_, fun hk ha hv => ?_, fun hk ha hv => ?_⟩
  · have hfinal : (limitAt s.ram n).final = true := decide_eq_true hf
    unfold State.process
    rw [validate_limit hk hv]
    exact if_pos hfinal
  · have hfinal : ¬ (limitAt s.ram n).final = true := by
      unfold limitAt
      simp [hf]
    unfold State.process
    rw [validate_limit hk hv]
    exact if_neg hfinal
  · subst ha
    exact process_error (validate_test_head hk)
  · subst ha
    exact process_error (validate_test_bad hk hv)
  · subst ha
    unfold State.process
    rw [validate_test hk hv]
    rfl

/-! ### The following of a link (R120) -/

/-- A pass that ends where a link is followed, with `left` links still allowed. -/
def Pass.ended (last : Option LimitEntry) (left : Nat) (e : PassEnd) : Pass :=
  { last := last, links := Config.linkMax - left, ending := e }

theorem follow_header (h : link = 0) :
    s.follow count left last linker linkerStart link = .ended last left (.fault .linkHeader linker 0) := by
  unfold State.follow
  exact if_pos h

theorem follow_range (h0 : link ≠ 0) (h : count < link) :
    s.follow count left last linker linkerStart link = .ended last left (.fault .linkRange linker link) := by
  unfold State.follow
  exact (if_neg h0).trans (if_pos h)

section

variable (h0 : link ≠ 0) (hc : link ≤ count)

include h0 hc

theorem follow_parity (h : entryParity s.ram link) :
    s.follow count left last linker linkerStart link = .ended last left (.fault .parity link link) := by
  unfold State.follow
  dsimp only
  rw [if_neg h0, if_neg (Nat.not_lt.2 hc), readEntry_of_parity h]
  rfl

variable (hp : ¬ entryParity s.ram link)

include hp

theorem follow_notDue (h : s.clock < (rawEntryAt s.ram link).start) :
    s.follow count left last linker linkerStart link = .ended last left .notDue := by
  unfold State.follow
  dsimp only
  rw [if_neg h0, if_neg (Nat.not_lt.2 hc), readEntry_of_good hp]
  exact if_pos h

variable (hd : (rawEntryAt s.ram link).start ≤ s.clock)

include hd

theorem follow_order (h : (rawEntryAt s.ram link).start < linkerStart) :
    s.follow count left last linker linkerStart link = .ended last left (.fault .order link link) := by
  unfold State.follow
  dsimp only
  rw [if_neg h0, if_neg (Nat.not_lt.2 hc), readEntry_of_good hp]
  exact (if_neg (Nat.not_lt.2 hd)).trans (if_pos h)

variable (ho : linkerStart ≤ (rawEntryAt s.ram link).start)

include ho

theorem follow_chain :
    s.follow count 0 last linker linkerStart link = .ended last 0 (.fault .chain linker link) := by
  unfold State.follow
  dsimp only
  rw [if_neg h0, if_neg (Nat.not_lt.2 hc), readEntry_of_good hp]
  exact (if_neg (Nat.not_lt.2 hd)).trans (if_neg (Nat.not_lt.2 ho))

theorem follow_watch (hw : link = s.walker.watch) :
    s.follow count (left + 1) last linker linkerStart link =
      .ended last left (.watch { index := link, linkerStart := linkerStart }) := by
  rw [State.follow]
  dsimp only
  rw [if_neg h0, if_neg (Nat.not_lt.2 hc), readEntry_of_good hp]
  dsimp only
  rw [if_neg (Nat.not_lt.2 hd), if_neg (Nat.not_lt.2 ho), if_pos hw]
  rfl

theorem follow_enters (hw : link ≠ s.walker.watch) :
    s.follow count (left + 1) last linker linkerStart link = s.process count left last link false := by
  rw [State.follow]
  dsimp only
  rw [if_neg h0, if_neg (Nat.not_lt.2 hc), readEntry_of_good hp]
  dsimp only
  rw [if_neg (Nat.not_lt.2 hd), if_neg (Nat.not_lt.2 ho), if_neg hw]
  rfl

end

/-- The following of one link gives what R120 says. -/
theorem follow_followsTo (s : State) (count left : Nat) (last : Option LimitEntry) (linker linkerStart link : Nat) :
    s.followsTo count left last linker linkerStart link (s.follow count left last linker linkerStart link) := by
  refine ⟨follow_header, follow_range, follow_parity, fun h0 hc hp => ⟨follow_notDue h0 hc hp, follow_order h0 hc hp,
    fun hd ho => ⟨?_, ?_⟩⟩⟩
  · rintro rfl
    exact follow_chain h0 hc hp hd ho
  · rintro n rfl
    refine ⟨follow_watch h0 hc hp hd ho, fun hw => ?_⟩
    rw [follow_enters h0 hc hp hd ho hw]
    exact process_processesTo s count n last link false

/-- What the following of a link can give: the end of the pass there, or, with a link fewer allowed, the processing of the entry
that it names, which is due. -/
theorem follow_cases (s : State) (count left : Nat) (last : Option LimitEntry) (linker linkerStart link : Nat) :
    (∃ e, s.follow count left last linker linkerStart link = .ended last left e ∧ e ≠ .final ∧ (∀ q, e ≠ .watch q) ∧
        ∀ en li, e = .fault .chain en li → left = 0) ∨
      ∃ n, left = n + 1 ∧ link ≠ 0 ∧ link ≤ count ∧ (rawEntryAt s.ram link).start ≤ s.clock ∧
        ((link = s.walker.watch ∧ s.follow count left last linker linkerStart link =
            .ended last n (.watch { index := link, linkerStart := linkerStart })) ∨
          s.follow count left last linker linkerStart link = s.process count n last link false) := by
  by_cases h0 : link = 0
  · exact .inl ⟨_, follow_header h0, by simp⟩
  by_cases hc : count < link
  · exact .inl ⟨_, follow_range h0 hc, by simp⟩
  replace hc := Nat.not_lt.1 hc
  by_cases hp : entryParity s.ram link
  · exact .inl ⟨_, follow_parity h0 hc hp, by simp⟩
  by_cases hd : s.clock < (rawEntryAt s.ram link).start
  · exact .inl ⟨_, follow_notDue h0 hc hp hd, by simp⟩
  replace hd := Nat.not_lt.1 hd
  by_cases ho : (rawEntryAt s.ram link).start < linkerStart
  · exact .inl ⟨_, follow_order h0 hc hp hd ho, by simp⟩
  replace ho := Nat.not_lt.1 ho
  cases left with
  | zero => exact .inl ⟨_, follow_chain h0 hc hp hd ho, by simp⟩
  | succ n =>
    refine .inr ⟨n, rfl, h0, hc, hd, ?_⟩
    by_cases hw : link = s.walker.watch
    · exact .inl ⟨hw, follow_watch h0 hc hp hd ho hw⟩
    · exact .inr (follow_enters h0 hc hp hd ho hw)

/-! ### What holds of every pass (R120, R121, R122, R130) -/

/-- R121: a LIMIT entry that a pass reaches is due, and its fields are in range. -/
def LimitEntry.reachedAt (clock : Nat) (l : LimitEntry) : Prop :=
  l.start ≤ clock ∧ 60 ≤ l.w ∧ l.w ≤ 900 ∧ 10 ≤ l.h ∧ l.h ≤ 600 ∧ 1 ≤ l.k ∧ l.k ≤ 4 ∧ ∀ k : Stage, l.ceil[k] ≤ 4096

/-- What a pass that reaches due entries alone gives, whatever ends it. -/
structure State.Lawful (s : State) (count : Nat) (p : Pass) : Prop where
  links : p.links ≤ 64
  reached : ∀ l, p.last = some l → l.reachedAt s.clock
  final : p.ending = .final → ∃ l, p.last = some l ∧ l.final = true
  watch : ∀ q, p.ending = .watch q → q.index = s.walker.watch ∧ s.walker.watch ≠ 0 ∧ s.walker.watch ≤ count
  chain : ∀ en li, p.ending = .fault .chain en li → p.links = 64

theorem limit_reachedAt {n : Nat} {b : Bool} {l : LimitEntry} (h : (rawEntryAt s.ram n).validate n b = .ok (.limit l))
    (hd : (rawEntryAt s.ram n).start ≤ s.clock) : l.reachedAt s.clock := by
  have hvalid : (rawEntryAt s.ram n).kind = 1 ∧ limitValid s.ram n := by
    unfold RawEntry.validate at h
    repeat' split at h
    all_goals cases h
    next hk hv => exact ⟨hk, (limitInRange_iff _ _).1 hv⟩
  obtain ⟨hk, hv⟩ := hvalid
  rw [validate_limit hk hv] at h
  cases h
  obtain ⟨-, -, hrest⟩ := hv
  exact ⟨hd, hrest⟩

theorem validate_not_chain {n : Nat} {b : Bool} {r : FaultReason} (h : (rawEntryAt s.ram n).validate n b = .error r) :
    r ≠ .chain := by
  unfold RawEntry.validate at h
  repeat' split at h
  all_goals cases h <;> decide

/-- A pass that has reached due entries alone goes on so. -/
theorem follow_lawful (s : State) (count left : Nat) {last : Option LimitEntry} (linker linkerStart link : Nat)
    (hl : ∀ l, last = some l → l.reachedAt s.clock) : s.Lawful count (s.follow count left last linker linkerStart link) := by
  have hlinks : ∀ n, Config.linkMax - n ≤ 64 := fun n => Nat.sub_le _ _
  induction left using Nat.strong_induction_on generalizing last linker linkerStart link with
  | _ left ih =>
    rcases follow_cases s count left last linker linkerStart link with
      ⟨e, he, hfinal, hwatch, hchain⟩ | ⟨n, rfl, h0, hc, hd, ⟨hw, he⟩ | he⟩ <;> rw [he]
    · refine ⟨hlinks left, hl, fun h => absurd h hfinal, fun q h => absurd h (hwatch q), fun en li h => ?_⟩
      rw [hchain en li h]
      rfl
    · refine ⟨hlinks n, hl, fun h => (nomatch h), fun q h => ?_, fun _ _ h => (nomatch h)⟩
      cases h
      exact ⟨hw, hw ▸ h0, hw ▸ hc⟩
    · unfold State.process
      split
      · next r hr =>
        refine ⟨hlinks n, hl, fun h => (nomatch h), fun _ h => (nomatch h), fun en li h => ?_⟩
        cases h
        exact absurd rfl (validate_not_chain hr)
      · exact ih n (Nat.lt_succ_self n) _ _ _ hl
      · next l hv =>
        have hreach : ∀ x, some l = some x → x.reachedAt s.clock := fun x hx => by
          cases hx
          exact limit_reachedAt hv hd
        split
        · next hf => exact ⟨hlinks n, hreach, fun _ => ⟨l, rfl, hf⟩, fun _ h => (nomatch h), fun _ _ h => (nomatch h)⟩
        · exact ih n (Nat.lt_succ_self n) _ _ _ hreach

/-! ### Where a pass begins (R111, R119, R132) -/

section

variable (f : Header → Pass)

theorem withHeader_parity (h : headerParity s.ram) : s.withHeader f = .early .parity 0 0 := by
  unfold State.withHeader
  rw [readHeader_of_parity h]

theorem withHeader_field (h : ¬ headerParity s.ram) (hc : s.ram.readLe 0x3404 2 = 0 ∨ 255 < s.ram.readLe 0x3404 2) :
    s.withHeader f = .early .field 0 0 := by
  unfold State.withHeader
  rw [readHeader_of_good h]
  exact if_pos hc

theorem withHeader_good {count head : Nat} (h : headerGood s.ram count head) :
    s.withHeader f = f { count := count, head := head } := by
  obtain ⟨hp, rfl, rfl, hlow, hhigh⟩ := h
  unfold State.withHeader
  rw [readHeader_of_good hp]
  exact if_neg (by dsimp only; omega)

/-- A pass that begins with the header's faults, or once the header has been read. -/
theorem withHeader_cases (s : State) :
    s.withHeader f = .early .parity 0 0 ∨ s.withHeader f = .early .field 0 0 ∨
      ∃ head, headerGood s.ram (s.ram.readLe 0x3404 2) head ∧
        s.withHeader f = f { count := s.ram.readLe 0x3404 2, head := head } := by
  by_cases hp : headerParity s.ram
  · exact .inl (withHeader_parity f hp)
  · by_cases hc : s.ram.readLe 0x3404 2 = 0 ∨ 255 < s.ram.readLe 0x3404 2
    · exact .inr (.inl (withHeader_field f hp hc))
    · have hg : headerGood s.ram (s.ram.readLe 0x3404 2) (s.ram.readLe 0x3406 2) := ⟨hp, rfl, rfl, by omega, by omega⟩
      exact .inr (.inr ⟨_, hg, withHeader_good f hg⟩)

end

theorem early_lawful {r : FaultReason} (hr : r ≠ .chain) (entry link : Nat) : s.Lawful count (.early r entry link) :=
  ⟨Nat.zero_le _, fun _ h => (nomatch h), fun h => (nomatch h), fun _ h => (nomatch h), fun _ _ h => by cases h; exact absurd rfl hr⟩

theorem passFromSuccessor_lawful (s : State) (e : LimitEntry) : s.Lawful (s.ram.readLe 0x3404 2) (s.passFromSuccessor e) := by
  unfold State.passFromSuccessor
  rcases withHeader_cases (fun h => s.follow h.count Config.linkMax none e.index e.start e.next) s with h | h | ⟨head, -, h⟩ <;> rw [h]
  · exact early_lawful (by decide) _ _
  · exact early_lawful (by decide) _ _
  · exact follow_lawful s _ _ _ _ _ fun _ h => nomatch h

/-- R119: a pass from the head, once the header has been read. -/
theorem passFromHead_begins (s : State) {count head : Nat} (hg : headerGood s.ram count head) :
    (head = 0 → s.passFromHead = .early .linkHeader 0 0) ∧
      (count < head → s.passFromHead = .early .linkRange 0 (min 255 head)) ∧
      (head ≠ 0 → head ≤ count →
        (entryParity s.ram head → s.passFromHead = .early .parity head head) ∧
        (¬ entryParity s.ram head → s.processesTo count 64 none head true s.passFromHead)) := by
  unfold State.passFromHead
  rw [withHeader_good _ hg]
  have hcount : 1 ≤ count := hg.2.2.2.1
  refine ⟨fun h0 => if_pos h0, fun h => (if_neg (show head ≠ 0 by omega)).trans (if_pos h), fun h0 hc => ⟨fun hp => ?_, fun hp => ?_⟩⟩
  · dsimp only
    rw [if_neg h0, if_neg (Nat.not_lt.2 hc), readEntry_of_parity hp]
  · dsimp only
    rw [if_neg h0, if_neg (Nat.not_lt.2 hc), readEntry_of_good hp]
    exact process_processesTo s count 64 none head true

/-- R119, R132: a pass from the pause index, once the header has been read. -/
theorem passFromPause_begins (s : State) (q : Pause) (holder : Byte) {count head : Nat} (hg : headerGood s.ram count head) :
    (count < q.index → s.passFromPause q holder = .early .linkRange holder.toNat q.index) ∧
      (q.index ≤ count →
        (entryParity s.ram q.index → s.passFromPause q holder = .early .parity q.index q.index) ∧
        (¬ entryParity s.ram q.index →
          ((rawEntryAt s.ram q.index).start < q.linkerStart → s.passFromPause q holder = .early .order q.index q.index) ∧
          (q.linkerStart ≤ (rawEntryAt s.ram q.index).start →
            s.processesTo count 64 none q.index false (s.passFromPause q holder)))) := by
  unfold State.passFromPause
  rw [withHeader_good _ hg]
  refine ⟨fun h => if_pos h, fun hc => ⟨fun hp => ?_, fun hp => ⟨fun h => ?_, fun h => ?_⟩⟩⟩
  · dsimp only
    rw [if_neg (Nat.not_lt.2 hc), readEntry_of_parity hp]
  · dsimp only
    rw [if_neg (Nat.not_lt.2 hc), readEntry_of_good hp]
    exact if_pos h
  · dsimp only
    rw [if_neg (Nat.not_lt.2 hc), readEntry_of_good hp]
    dsimp only
    rw [if_neg (Nat.not_lt.2 h)]
    exact process_processesTo s count 64 none q.index false

/-! ### What a pass reads (R114, R120) -/

/-- From `s` to `t` nothing has changed that a pass reads: the header, the entries of a header in range, the clock, the watch index and
the conditions. -/
structure State.SamePass (s t : State) : Prop where
  header : readHeader t.ram = readHeader s.ram
  entry : ∀ n, n ≤ 255 → readEntry t.ram n = readEntry s.ram n
  clock : t.clock = s.clock
  watch : t.walker.watch = s.walker.watch
  holds : ∀ cond operand, t.holds cond operand = s.holds cond operand

/-- A byte of the schedule (Table 9-1). -/
def inSchedule (a : Nat) : Prop := 0x3400 ≤ a ∧ a < 0x5400

theorem parityError_congr {m k : Memory} (a n : Nat) (h : ∀ x, a ≤ x → x < a + n → k.badAt x = m.badAt x) :
    k.parityError a n = m.parityError a n := by
  rw [Bool.eq_iff_iff, parityError_iff, parityError_iff]
  refine exists_congr fun x => and_congr_right fun h1 => and_congr_right fun h2 => ?_
  rw [h x h1 h2]

/-- The header and the entries of a header in range lie within the schedule. -/
theorem schedule_congr {p : Nat → Prop} {m k : Memory} (h : keepsOutside p m k) (hp : ∀ a, inSchedule a → ¬ p a) :
    readHeader k = readHeader m ∧ ∀ n, n ≤ 255 → readEntry k n = readEntry m n := by
  have hbase : Config.scheduleBase = 0x3400 := rfl
  have hread : ∀ a n, 0x3400 ≤ a → a + n ≤ 0x5400 → k.read a n = m.read a n := fun a n h1 h2 =>
    read_congr _ _ fun x h3 h4 => (h x (hp x ⟨by omega, by omega⟩)).1
  have hbad : ∀ a n, 0x3400 ≤ a → a + n ≤ 0x5400 → k.parityError a n = m.parityError a n := fun a n h1 h2 =>
    parityError_congr _ _ fun x h3 h4 => (h x (hp x ⟨by omega, by omega⟩)).2
  constructor
  · unfold readHeader Memory.readLe
    rw [hbad _ _ (by omega) (by omega), hread _ _ (by omega) (by omega), hread _ _ (by omega) (by omega)]
  · intro n hn
    unfold readEntry
    dsimp only
    rw [hbad _ _ (by omega) (by omega), hread _ _ (by omega) (by omega)]

namespace State.SamePass

variable (h : s.SamePass t)

include h

theorem follow (hc : count ≤ 255) (left : Nat) (last : Option LimitEntry) (linker linkerStart link : Nat) :
    t.follow count left last linker linkerStart link = s.follow count left last linker linkerStart link := by
  induction left generalizing last linker linkerStart link with
  | zero =>
    unfold State.follow
    dsimp only
    by_cases hl : count < link
    · rw [if_pos hl, if_pos hl]
    · rw [if_neg hl, if_neg hl, h.entry link (by omega), h.clock]
  | succ left ih =>
    unfold State.follow
    dsimp only
    by_cases hl : count < link
    · rw [if_pos hl, if_pos hl]
    · rw [if_neg hl, if_neg hl, h.entry link (by omega), h.clock, h.watch]
      simp only [ih, h.holds]

theorem processFirst (hc : count ≤ 255) (b : Bool) (n : Nat) (e : RawEntry) :
    t.processFirst count b n e = s.processFirst count b n e := by
  unfold State.processFirst
  simp only [h.follow hc, h.holds]

theorem withHeader {f g : Header → Pass} (hf : ∀ x : Header, x.count ≤ 255 → g x = f x) : t.withHeader g = s.withHeader f := by
  unfold State.withHeader
  rw [h.header]
  cases readHeader s.ram with
  | none => rfl
  | some x =>
    dsimp only
    split
    · rfl
    · next hc => exact hf x (by omega)

theorem fromHead : t.passFromHead = s.passFromHead := by
  refine h.withHeader fun x hx => ?_
  by_cases hl : x.count < x.head
  · simp only [if_pos hl]
  · simp only [if_neg hl, h.entry x.head (by omega), h.processFirst hx]

theorem fromSuccessor (e : LimitEntry) : t.passFromSuccessor e = s.passFromSuccessor e :=
  h.withHeader fun _ hx => h.follow hx _ _ _ _ _

theorem fromPause (q : Pause) (holder : Byte) : t.passFromPause q holder = s.passFromPause q holder := by
  refine h.withHeader fun x hx => ?_
  by_cases hl : x.count < q.index
  · simp only [if_pos hl]
  · simp only [if_neg hl, h.entry q.index (by omega), h.processFirst hx]

end State.SamePass

end Sys2Proof.Machine


/-! SUPPORT. The fault record (R135). -/

namespace Sys2Proof.Machine

-- Proofs one at a time: those that wait side by side each hold a thread's stack.
set_option Elab.async false

variable {m : Memory}

/-- R135: the record is free when its state reads EMPTY with good parity. -/
def faultRecordFree (m : Memory) : Prop := m.badAt 0x0200 = false ∧ m.readLe 0x0200 1 = 0

/-- R135: the nine bytes that follow the state of a record written in full. -/
def faultBytes (reason entry link clock found : Nat) : List Byte :=
  leBytes 1 reason ++ leBytes 1 entry ++ leBytes 1 link ++ leBytes 4 clock ++ leBytes 1 found ++ leBytes 1 0

theorem faultBytes_length (reason entry link clock found : Nat) : (faultBytes reason entry link clock found).length = 9 := by
  simp [faultBytes]

theorem faultRecordFree_iff (m : Memory) : (m.badAt Config.faultBase = false ∧ m.byte Config.faultBase = 0) ↔ faultRecordFree m := by
  unfold faultRecordFree
  rw [readLe_one]
  exact and_congr_right fun _ => ⟨fun h => congrArg BitVec.toNat h, fun h => BitVec.eq_of_toNat_eq h⟩

theorem recordFault_free (h : faultRecordFree m) (reason entry link clock found : Nat) :
    m.recordFault reason entry link clock found =
      (m.writeBytes 0x0201 (faultBytes reason entry link clock found)).writeLe 0x0200 1 1 :=
  if_pos ((faultRecordFree_iff m).2 h)

theorem recordFault_taken (h : ¬ faultRecordFree m) (reason entry link clock found : Nat) :
    m.recordFault reason entry link clock found = m.writeLe 0x0209 1 1 :=
  if_neg fun e => h ((faultRecordFree_iff m).1 e)

theorem keeps_writeBytes (hw : m.wf = true) (a : Nat) (bytes : List Byte) :
    keepsOutside (fun x => a ≤ x ∧ x < a + bytes.length) m (m.writeBytes a bytes) := fun x hx => by
  refine ⟨byte_writeBytes_outside hw _ _ (by omega), ?_⟩
  rw [badAt_writeBytes, decide_eq_true (by omega), Bool.and_true]

/-- R135: whatever is recorded stays within the record. -/
theorem keeps_recordFault (hw : m.wf = true) (reason entry link clock found : Nat) :
    keepsOutside (fun a => 0x0200 ≤ a ∧ a < 0x020A) m (m.recordFault reason entry link clock found) := by
  have hlen := faultBytes_length reason entry link clock found
  by_cases h : faultRecordFree m
  · have hwf := wf_writeBytes hw 0x0201 (faultBytes reason entry link clock found)
    rw [recordFault_free h]
    exact keepsOutside_trans (keeps_writeBytes hw _ _) (keeps_writeLe hwf 0x0200 1 1) (fun a ha => by omega) fun a ha => by omega
  · rw [recordFault_taken h]
    exact keepsOutside_trans (keepsOutside_refl _ m) (keeps_writeLe hw 0x0209 1 1) (fun _ ha => ha) fun a ha => by omega

/-- R135: the record written in full. -/
theorem recordFault_written (hw : m.wf = true) (h : faultRecordFree m) {reason entry link clock found : Nat} (hr : reason < 256)
    (he : entry < 256) (hl : link < 256) (hc : clock < 4294967296) (hf : found < 256) :
    let r := m.recordFault reason entry link clock found
    r.readLe 0x0200 1 = 1 ∧ r.readLe 0x0201 1 = reason ∧ r.readLe 0x0202 1 = entry ∧ r.readLe 0x0203 1 = link ∧
      r.readLe 0x0204 4 = clock ∧ r.readLe 0x0208 1 = found ∧ r.readLe 0x0209 1 = 0 ∧
      keepsOutside (fun a => 0x0200 ≤ a ∧ a < 0x020A) m r := by
  have hlen := faultBytes_length reason entry link clock found
  have hwf := wf_writeBytes hw 0x0201 (faultBytes reason entry link clock found)
  have hfield : ∀ off n, off + n ≤ 9 → (m.recordFault reason entry link clock found).readLe (0x0201 + off) n =
      leNat (((faultBytes reason entry link clock found).drop off).take n) := fun off n hn => by
    rw [recordFault_free h, Memory.writeLe, readLe_writeBytes_outside hwf _ _ (by rw [length_leBytes]; omega),
      readLe_writeBytes_field hw _ _ (by rw [hlen]; exact hn)]
  have hle := fun n v => leNat_leBytes n v
  refine ⟨?_, (hfield 0 1 (by omega)).trans ?_, (hfield 1 1 (by omega)).trans ?_, (hfield 2 1 (by omega)).trans ?_,
    (hfield 3 4 (by omega)).trans ?_, (hfield 7 1 (by omega)).trans ?_, (hfield 8 1 (by omega)).trans ?_, ?_⟩
  · rw [recordFault_free h]
    exact readLe_writeLe hwf _ _ _
  · exact (hle 1 reason).trans (Nat.mod_eq_of_lt hr)
  · exact (hle 1 entry).trans (Nat.mod_eq_of_lt he)
  · exact (hle 1 link).trans (Nat.mod_eq_of_lt hl)
  · exact (hle 4 clock).trans (Nat.mod_eq_of_lt hc)
  · exact (hle 1 found).trans (Nat.mod_eq_of_lt hf)
  · exact hle 1 0
  · exact keeps_recordFault hw reason entry link clock found

/-- R135: the further-faults flag alone set. -/
theorem recordFault_further (hw : m.wf = true) (h : ¬ faultRecordFree m) (reason entry link clock found : Nat) :
    let r := m.recordFault reason entry link clock found
    r.readLe 0x0209 1 = 1 ∧ keepsOutside (fun a => a = 0x0209) m r := by
  dsimp only
  rw [recordFault_taken h]
  exact ⟨readLe_writeLe hw _ _ _,
    keepsOutside_trans (keepsOutside_refl (fun a => a = 0x0209) m) (keeps_writeLe hw 0x0209 1 1) (fun _ ha => ha) fun a ha => by omega⟩

end Sys2Proof.Machine

/-! SUPPORT. What a pass puts in force (R122 to R125, R130, R134): the end of any pass but the start's as `State.PassTaken` says it,
and the changes that leave it standing. -/

namespace Sys2Proof.Machine

-- Proofs one at a time: those that wait side by side each hold a thread's stack.
set_option Elab.async false

variable {s t u : State} {p : Pass}

/-- From `s` to `t` the walker, what an active entry puts in force, and the schedule and fault ceilings are the same. -/
structure State.SameForce (s t : State) : Prop where
  walker : t.walker = s.walker
  inForce : t.acc.inForce = s.acc.inForce
  sched : ∀ k : Stage, t.gain.stages[k].sched = s.gain.stages[k].sched
  fault : ∀ k : Stage, t.gain.stages[k].fault = s.gain.stages[k].fault

theorem inForce_iff {c d : Accumulator} : c.inForce = d.inForce ↔
    c.w = d.w ∧ c.set = d.set ∧ c.h = d.h ∧ c.k = d.k ∧ c.primePending = d.primePending := by
  simp [Accumulator.inForce]

namespace State.SameForce

theorem refl (s : State) : s.SameForce s := ⟨rfl, rfl, fun _ => rfl, fun _ => rfl⟩

theorem trans (h : s.SameForce t) (g : t.SameForce u) : s.SameForce u :=
  ⟨g.walker.trans h.walker, g.inForce.trans h.inForce, fun k => (g.sched k).trans (h.sched k),
    fun k => (g.fault k).trans (h.fault k)⟩

theorem of_eq (hw : t.walker = s.walker := by simp) (ha : t.acc.inForce = s.acc.inForce := by simp)
    (hg : t.gain = s.gain := by simp) : s.SameForce t :=
  ⟨hw, ha, fun _ => by rw [hg], fun _ => by rw [hg]⟩

/-- What a pass taken has put in force stands. -/
theorem passTaken (g : t.SameForce u) (h : s.PassTaken t p) : s.PassTaken u p := by
  obtain ⟨hw, hset, hh, hk, -⟩ := inForce_iff.1 g.inForce
  unfold State.PassTaken at h ⊢
  simp only [g.walker, g.sched, g.fault, hw, hset, hh, hk]
  exact h

end State.SameForce

/-- What a pass finds in force may stand from an earlier state. -/
theorem passTaken_from (hw : t.walker = s.walker) (ha : t.acc = s.acc) (hc : t.gain.cfg = s.gain.cfg)
    (hs : ∀ k : Stage, t.gain.stages[k].sched = s.gain.stages[k].sched) (h : t.PassTaken u p) : s.PassTaken u p := by
  unfold State.PassTaken at h ⊢
  simp only [← hw, ← ha, ← hc, ← hs]
  exact h

/-! ### The end of a pass -/

/-- R125: what an entry activated puts in force, with the fault ceiling that stood before. -/
theorem activate_puts (cause : PassCause) (e : LimitEntry) (s : State) :
    let t := s.activate cause false e
    (t.acc.w = e.w ∧ t.acc.set = e.set ∧ t.acc.h = e.h ∧ t.acc.k = e.k ∧ ∀ k : Stage, t.gain.stages[k].sched = some e.ceil[k]) ∧
      ∀ k : Stage, t.gain.stages[k].fault = s.gain.stages[k].fault := by
  obtain ⟨-, -, -, hacc, hgain, -⟩ := postEntryActivated_keeps e.index cause ((s.atEntry e).changeTerms (s.entryTerms false e))
  have hterms : ((s.atEntry e).changeTerms (s.entryTerms false e)).acc = (s.atEntry e).acc := (changeTerms_keeps _ _).2.2.2.1
  have hstage := changeTerms_stage (s.entryTerms false e) (s.atEntry e)
  rw [activate_eq]
  dsimp only
  rw [hacc, hgain, hterms]
  refine ⟨⟨rfl, rfl, rfl, rfl, fun k => ?_⟩, fun k => ?_⟩
  · rw [hstage]
    rfl
  · rw [hstage]
    rfl

/-- R134: a fault's term on every stage, with the schedule ceilings that stood before. -/
theorem raiseFault_puts (s : State) (k : Stage) :
    s.raiseFault.gain.stages[k].fault = s.gain.cfg.map GainConfig.fault ∧
      s.raiseFault.gain.stages[k].sched = s.gain.stages[k].sched := by
  unfold State.raiseFault
  rw [changeTerms_stage]
  exact ⟨rfl, rfl⟩

/-- R122, R123, R130: the accumulator and the ceilings after a pass that no fault ends. -/
theorem endPass_good (cause : PassCause) (starting : Bool) (found : WalkerState) (s : State)
    (h : ∀ reason entry link, p.ending ≠ .fault reason entry link) :
    (s.endPass cause starting found p).acc = ((s.countLinks p.links).takeLast cause p).acc ∧
      (s.endPass cause starting found p).gain = ((s.countLinks p.links).takeLast cause p).gain := by
  cases he : p.ending with
  | notDue =>
    rw [endPass_notDue _ _ _ _ he]
    exact ⟨rfl, rfl⟩
  | final =>
    rw [endPass_final _ _ _ _ he]
    exact ⟨rfl, rfl⟩
  | watch q =>
    rw [endPass_watch _ _ _ _ he]
    generalize ((s.countLinks p.links).takeLast cause p) = v
    obtain ⟨-, -, -, hacc, hgain, -⟩ := postWatchReached_keeps q.index ((v.walker.active.map LimitEntry.index).getD 0) (v.pauseAt q)
    exact ⟨hacc, hgain⟩
  | fault reason entry link => exact absurd he (h reason entry link)

/-- R134: the accumulator and the ceilings after a fault in a pass that began no show. -/
theorem endPass_bad (cause : PassCause) (found : WalkerState) (s : State) {reason : FaultReason} {entry link : Nat}
    (h : p.ending = .fault reason entry link) :
    (s.endPass cause false found p).acc = s.acc ∧
      (s.endPass cause false found p).gain = (s.countLinks p.links).raiseFault.gain := by
  have hacc : (s.countLinks p.links).raiseFault.acc = s.acc := (changeTerms_keeps _ _).2.2.2.1
  rw [endPass_fault _ _ _ _ h, takeFault_eq]
  generalize (s.countLinks p.links).raiseFault = v at hacc
  obtain ⟨-, -, -, racc, rgain, -⟩ := reportFault_keeps reason entry link found (v.goTo .faulted)
  exact ⟨racc.trans hacc, rgain⟩

theorem activates_of_good (h : ∀ reason entry link, p.ending ≠ .fault reason entry link) : p.activates = p.last := by
  unfold Pass.activates
  cases he : p.ending with
  | fault reason entry link => exact absurd he (h reason entry link)
  | _ => rfl

/-- R122 to R125, R130, R134: any pass but the start's. -/
theorem endPass_taken (cause : PassCause) (found : WalkerState) (p : Pass) (s : State) :
    s.PassTaken (s.endPass cause false found p) p := by
  have hwalk := endPass_walker cause false found p s
  have hputs : p.puts false = p.activates := rfl
  unfold State.PassTaken
  rw [hwalk]
  refine ⟨rfl, rfl, ?_, ?_⟩
  · unfold Walker.afterPass
    cases he : p.ending with
    | notDue => exact ⟨rfl, rfl⟩
    | final => exact ⟨rfl, rfl⟩
    | watch q => exact ⟨rfl, rfl⟩
    | fault reason entry link =>
      refine ⟨rfl, rfl, fun k => ?_⟩
      rw [(endPass_bad cause found s he).2]
      exact (raiseFault_puts (s.countLinks p.links) k).1
  · unfold Walker.afterPass
    dsimp only
    rw [hputs]
    by_cases hf : ∃ reason entry link, p.ending = .fault reason entry link
    · obtain ⟨reason, entry, link, he⟩ := hf
      obtain ⟨hacc, hgain⟩ := endPass_bad cause found s he
      have hnone : p.activates = none := by
        unfold Pass.activates
        rw [he]
      rw [hnone, hacc, hgain]
      exact ⟨rfl, rfl, rfl, rfl, rfl, fun k => (raiseFault_puts (s.countLinks p.links) k).2⟩
    · have hgood : ∀ reason entry link, p.ending ≠ .fault reason entry link := fun r e l he => hf ⟨r, e, l, he⟩
      obtain ⟨hacc, hgain⟩ := endPass_good cause false found s hgood
      rw [activates_of_good hgood, hacc, hgain]
      unfold State.takeLast
      cases p.last with
      | none => exact ⟨rfl, rfl, rfl, rfl, rfl, fun _ => rfl⟩
      | some e =>
        have hforce := (activate_puts cause e (s.countLinks p.links)).1
        dsimp only at hforce ⊢
        generalize (s.countLinks p.links).activate cause false e = v at hforce ⊢
        exact ⟨Option.some_or, hforce⟩

/-- A pass that no fault ends leaves the fault ceilings as they stood. -/
theorem endPass_fault_kept (cause : PassCause) (found : WalkerState) (s : State) (h : p.reasonCode = 0) (k : Stage) :
    (s.endPass cause false found p).gain.stages[k].fault = s.gain.stages[k].fault := by
  have hgood : ∀ reason entry link, p.ending ≠ .fault reason entry link := fun r e l he => by
    unfold Pass.reasonCode at h
    rw [he] at h
    cases r <;> cases h
  rw [(endPass_good cause false found s hgood).2]
  unfold State.takeLast
  split
  · next e _ => exact (activate_puts cause e (s.countLinks p.links)).2 k
  · rfl

end Sys2Proof.Machine

/-! SUPPORT. What the work of a second event but the walker's leaves of what a pass put in force (R107, R119). -/

namespace Sys2Proof.Machine

-- Proofs one at a time: those that wait side by side each hold a thread's stack.
set_option Elab.async false

variable {s t : State}

namespace State.SameForce

/-! ### Terms, measurement and stations (R41, R45, R150) -/

variable (h : s.SameForce t)

include h

theorem congr {u : State} (hw : u.walker = t.walker := by simp) (ha : u.acc.inForce = t.acc.inForce := by simp)
    (hg : u.gain = t.gain := by simp) : s.SameForce u := h.trans (.of_eq hw ha hg)

/-- Terms changed other than the schedule's and the fault's. -/
theorem changeTerms {f : Stage → GainStage → GainStage} (hs : ∀ k g, (f k g).sched = g.sched := by intros; rfl)
    (hf : ∀ k g, (f k g).fault = g.fault := by intros; rfl) : s.SameForce (t.changeTerms f) := by
  refine h.trans ⟨by simp, by simp, fun k => ?_, fun k => ?_⟩
  · rw [changeTerms_stage]
    exact hs k _
  · rw [changeTerms_stage]
    exact hf k _

theorem setAmbientMute (b : Bool) : s.SameForce (t.setAmbientMute b) := by
  unfold State.setAmbientMute
  exact h.changeTerms

theorem withAmbient (m : Ambient) : s.SameForce (t.withAmbient m) := h.congr rfl rfl rfl

theorem endAmbient : s.SameForce t.endAmbient := h.withAmbient _

theorem completeAmbient (m : Ambient) : s.SameForce (t.completeAmbient m) := by
  have h1 : s.SameForce { t with book := t.book.takeAmbient m } := h.congr rfl rfl rfl
  have h2 := h1.setAmbientMute false
  unfold State.completeAmbient
  dsimp only
  generalize State.setAmbientMute false _ = v at h2
  exact endAmbient h2.congr

theorem ambientClosure : s.SameForce t.ambientClosure := by
  unfold State.ambientClosure
  dsimp only
  repeat' split
  · exact h
  · exact h.withAmbient _
  · exact h.withAmbient _
  · exact (h.withAmbient _).completeAmbient _
  · exact h.withAmbient _

theorem setStationState (st : Station) (v : StationState) : s.SameForce (t.setStationState st v) := by
  have h1 : s.SameForce (t.noteState st v) := h.congr
  rw [setStationState_eq]
  split
  · exact h1
  · exact h1.changeTerms

theorem takeOutcome (st : Station) (o : SecondOutcome) : s.SameForce (t.takeOutcome st o) := by
  cases hadv : t.acc.advanced[st] with
  | true => rw [takeOutcome_of_advanced hadv]; exact h
  | false =>
    have hacc : (t.storeOutcome st o).acc.inForce = t.acc.inForce := by
      rw [storeOutcome_acc hadv]
      rfl
    have h1 : s.SameForce (t.storeOutcome st o) := h.congr (ha := hacc)
    rw [takeOutcome_eq hadv]
    exact h1.setStationState st _

theorem handMissing (sts : List Station) : s.SameForce (t.handMissing sts) :=
  foldl_preserves s.SameForce _ (fun _ st ht => ht.takeOutcome st .missing) sts t h

/-! ### Rounds (R63, R69, R70) -/

theorem driveGain : s.SameForce t.driveGain := by
  have hramp : ∀ k : Stage, t.rampAll.gain.stages[k].sched = t.gain.stages[k].sched ∧
      t.rampAll.gain.stages[k].fault = t.gain.stages[k].fault := fun k => by
    cases hc : t.gain.cfg with
    | none =>
      unfold State.rampAll
      rw [hc]
      exact ⟨rfl, rfl⟩
    | some c =>
      rw [rampAll_stage hc]
      exact ⟨rfl, rfl⟩
  refine h.trans ⟨by simp, by simp, fun k => ?_, fun k => ?_⟩ <;> rw [driveGain_gain]
  · exact (hramp k).1
  · exact (hramp k).2

theorem closeRound : s.SameForce t.closeRound := by
  have h1 : s.SameForce t.shutRound.advanceRest :=
    congr (t := t.shutRound) (h.congr rfl rfl rfl) (ha := (inForce_of_frame (advanceRest_frame _)).1)
  have h2 : s.SameForce t.beforeDrive := h1.ambientClosure
  rw [closeRound_eq]
  exact h2.driveGain.congr

theorem closeByLastOutcome : s.SameForce t.closeByLastOutcome := by
  rw [closeByLastOutcome_eq]
  exact h.closeRound.congr

theorem closeByDeadline : s.SameForce t.closeByDeadline := by
  have h1 : s.SameForce { t with poller := { t.poller with exch := none, todo := [] } } := h.congr rfl rfl rfl
  have h2 := (h1.handMissing t.poller.unresolved).closeRound
  unfold State.closeByDeadline
  dsimp only
  split
  · exact h2.congr
  · exact h2

theorem openRound : s.SameForce t.openRound := by
  have h1 : s.SameForce t.roundOpened := h.congr rfl rfl rfl
  rw [openRound_eq]
  unfold State.proceed
  split
  · next rest copy _ _ =>
    have h2 : s.SameForce { t.roundOpened with poller := { t.roundOpened.poller with todo := rest } } := h1.congr rfl rfl rfl
    exact h2.congr
  · exact h1.closeByLastOutcome

theorem pollerSecond : s.SameForce t.pollerSecond := by
  have hopen : ∀ u : State, s.SameForce u → s.SameForce u.abandonProbe.openRound := fun u hu => openRound (hu.congr)
  unfold State.pollerSecond
  dsimp only
  split
  · exact hopen _ h.closeByDeadline
  · exact hopen _ h

/-! ### The second event (Table 5-1) -/

theorem secondWork (wrapped : Bool) {w : SecondWork} (hw : w ≠ .walker) : s.SameForce (t.secondWork wrapped w) := by
  cases w <;> simp only [State.secondWork]
  case accumulator =>
    split
    · exact h.congr (ha := (inForce_of_frame (advanceAll_frame t)).1)
    · exact h
  case poller =>
    split
    · exact h.pollerSecond
    · exact h
  case linkSecond => exact h.congr
  case linkOffer =>
    split
    · exact h.congr
    · exact h
  case scanner =>
    split
    · exact h.congr rfl rfl rfl
    · exact h
  case walker => exact absurd rfl hw
  case minute =>
    split
    · exact h.congr
    · exact h
  case occupancy => exact h.congr

end State.SameForce

/-! ### The walker's part of the event (R108, R119) -/

/-- The walker's work done first: nothing that follows touches what it put in force. -/
theorem walkerFirst_sameForce (wrapped : Bool) (order : List SecondWork) (s : State) :
    (s.secondWork wrapped .walker).SameForce ((fullOrder (.walker :: order)).foldl (State.secondWork wrapped) s) := by
  obtain ⟨rest, hrest⟩ := fullOrder_cons .walker order
  have hn : SecondWork.walker ∉ rest := (List.nodup_cons.1 (hrest ▸ fullOrder_nodup (.walker :: order))).1
  rw [hrest, List.foldl_cons]
  exact foldl_preserves_mem (State.SameForce _) _ (fun t w hw ht => ht.secondWork wrapped fun e => hn (e ▸ hw)) (.refl _)

/-- With no wrap and the walker not in WAITING, no order of the blocks makes a pass. -/
theorem secondWorks_walker (h : s.walker.state ≠ .waiting) (order : List SecondWork) :
    (order.foldl (State.secondWork false) s).walker = s.walker := by
  refine foldl_preserves (fun t => t.walker = s.walker) _ (fun t w ht => ?_) order s rfl
  by_cases hw : w = .walker
  · rw [hw, work_walker, if_neg Bool.false_ne_true, walkerSecond_of_ne (by rw [ht]; exact h)]
    exact ht
  · exact ((State.SameForce.refl t).secondWork false hw).walker.trans ht

end Sys2Proof.Machine

/-! O60: an advance pass (section 5.6). -/

namespace Sys2Proof.Machine

-- Proofs one at a time: those that wait side by side each hold a thread's stack.
set_option Elab.async false

variable {s t : State}

/-! ### The second event at the walker (R108, R119) -/

theorem secondEvent_next {order : List SecondWork} (h : exec (.secondEvent order) s = .next t) : s.secondEvent order = t :=
  Host.Outcome.next.inj h

/-- R108: the state whose clock a second event has advanced. -/
def State.ticked (s : State) : State := { s with clock := if s.clock < 2147483647 then s.clock + 1 else 0 }

theorem secondEvent_ticked (h : s.run.state ≠ .resetBusy) (order : List SecondWork) :
    s.secondEvent order = (fullOrder order).foldl (State.secondWork (decide (2147483647 ≤ s.clock))) s.ticked := by
  unfold State.secondEvent State.ticked
  rw [if_neg h, clockAfter_eq]
  rfl

/-- R108: the clock plays no part in what a pass finds in force. -/
theorem passTaken_ticked {p : Pass} (h : s.ticked.PassTaken t p) : s.PassTaken t p :=
  passTaken_from rfl rfl rfl (fun _ => rfl) h

/-- R119: a second event in WAITING takes a pass from the successor. -/
theorem walkerSecond_taken {e : LimitEntry} (hw : s.walker.state = .waiting) (he : s.walker.active = some e) :
    s.PassTaken s.walkerSecond (s.passFromSuccessor e) := by
  unfold State.walkerSecond
  rw [if_pos hw, he]
  exact endPass_taken _ _ _ s

/-- R126: a movement of the clock takes a pass from the head in WAITING, PAUSED and FINAL. -/
theorem walkerMoved_taken (h : s.walker.state = .waiting ∨ s.walker.state = .paused ∨ s.walker.state = .final) :
    s.PassTaken s.walkerMoved s.passFromHead := by
  unfold State.walkerMoved
  rw [if_pos h]
  exact endPass_taken _ _ _ s

theorem walkerMoved_still (h : s.walker.state = .unstarted ∨ s.walker.state = .faulted) : s.walkerMoved = s := by
  unfold State.walkerMoved
  rcases h with h | h <;> exact if_neg (by simp [h])

/-- R122, R123, R130, R134: where a pass from the successor can leave the walker. -/
theorem walkerSecond_state {e : LimitEntry} (hw : s.walker.state = .waiting) (he : s.walker.active = some e) :
    s.walkerSecond.walker.state ≠ .unstarted := by
  unfold State.walkerSecond
  rw [if_pos hw, he]
  dsimp only
  rw [endPass_walker]
  exact leaves_ne_unstarted _

theorem moved_iff (w : WalkerState) (h : w ≠ .unstarted) (hf : w ≠ .faulted) : w = .waiting ∨ w = .paused ∨ w = .final := by
  cases w <;> simp_all

theorem secondEvent_waits (hr : s.run.state ≠ .resetBusy) (hc : s.clock < 2147483647) (hw : s.walker.state ≠ .waiting)
    (order : List SecondWork) : (s.secondEvent order).walker = s.walker := by
  rw [secondEvent_ticked hr, decide_eq_false (Nat.not_le.2 hc)]
  exact secondWorks_walker (s := s.ticked) hw _

section

variable (hr : s.run.state ≠ .resetBusy) (order : List SecondWork)

include hr

theorem secondEvent_plain (hc : s.clock < 2147483647) :
    s.ticked.walkerSecond.SameForce (s.secondEvent (.walker :: order)) := by
  rw [secondEvent_ticked hr, decide_eq_false (Nat.not_le.2 hc)]
  exact walkerFirst_sameForce false order s.ticked

theorem secondEvent_wraps (hc : 2147483647 ≤ s.clock) :
    s.ticked.walkerSecond.walkerMoved.SameForce (s.secondEvent (.walker :: order)) := by
  rw [secondEvent_ticked hr, decide_eq_true hc]
  exact walkerFirst_sameForce true order s.ticked

/-- R119: at the wrap with the walker not in WAITING. -/
theorem secondEvent_wrap_rests (hc : 2147483647 ≤ s.clock) (hw : s.walker.state = .unstarted ∨ s.walker.state = .faulted) :
    (s.secondEvent (.walker :: order)).walker = s.walker := by
  have h := (secondEvent_wraps hr order hc).walker
  rw [walkerSecond_of_ne (s := s.ticked) (by rcases hw with hw | hw <;> exact hw ▸ WalkerState.noConfusion),
    walkerMoved_still (s := s.ticked) hw] at h
  exact h

theorem secondEvent_wrap_head (hc : 2147483647 ≤ s.clock) (hw : s.walker.state = .paused ∨ s.walker.state = .final) :
    s.PassTaken (s.secondEvent (.walker :: order)) s.ticked.passFromHead := by
  have h := secondEvent_wraps hr order hc
  rw [walkerSecond_of_ne (s := s.ticked) (by rcases hw with hw | hw <;> exact hw ▸ WalkerState.noConfusion)] at h
  exact passTaken_ticked (h.passTaken (walkerMoved_taken (s := s.ticked) (.inr hw)))

/-- R119: at the wrap in WAITING a second pass follows, from the head, unless the first faulted. -/
theorem secondEvent_wrap_waiting (hc : 2147483647 ≤ s.clock) (hw : s.walker.state = .waiting) {e : LimitEntry}
    (he : s.walker.active = some e) :
    let u := s.ticked.walkerSecond
    s.PassTaken u (s.ticked.passFromSuccessor e) ∧
      (u.walker.state ≠ .faulted → u.PassTaken (s.secondEvent (.walker :: order)) u.passFromHead) ∧
        (u.walker.state = .faulted → (s.secondEvent (.walker :: order)).walker = u.walker) := by
  have h := secondEvent_wraps hr order hc
  refine ⟨passTaken_ticked (walkerSecond_taken (s := s.ticked) hw he), fun hf => ?_, fun hf => ?_⟩
  · exact h.passTaken (walkerMoved_taken (moved_iff _ (walkerSecond_state (s := s.ticked) hw he) hf))
  · rw [h.walker, walkerMoved_still (.inr hf)]

end

/-! ### The obligation -/

/-- R111, R119: the header's faults before a pass that needs it. -/
theorem withHeader_begins (f : Header → Pass) {good : Prop}
    (hgood : headerGood s.ram (s.ram.readLe 0x3404 2) (s.ram.readLe 0x3406 2) → good) :
    (headerParity s.ram → s.withHeader f = .early .parity 0 0) ∧
      (¬ headerParity s.ram → s.ram.readLe 0x3404 2 = 0 ∨ 255 < s.ram.readLe 0x3404 2 → s.withHeader f = .early .field 0 0) ∧
      (headerGood s.ram (s.ram.readLe 0x3404 2) (s.ram.readLe 0x3406 2) → good) :=
  ⟨withHeader_parity f, withHeader_field f, hgood⟩

/-- Settles O60. -/
theorem passKeepsItsRules : Obligations.PassKeepsItsRules := by
  unfold Obligations.PassKeepsItsRules
  refine ⟨fun s e => ?_, fun s => ?_, fun s t order hr => ?_, fun m reason entry link clock found hw h1 h2 h3 h4 h5 => ?_⟩
  · have h := passFromSuccessor_lawful s e
    exact ⟨h.links, h.reached, h.final, fun q hq => ⟨(h.watch q hq).1, (h.watch q hq).2.1⟩, h.chain⟩
  · exact ⟨conditionsHold s, follow_followsTo s, fun e => withHeader_begins _ fun hg => withHeader_good _ hg,
      withHeader_begins _ (passFromHead_begins s), fun q holder => withHeader_begins _ (passFromPause_begins s q holder)⟩
  · refine ⟨fun hc hwait ht => ?_, fun ht => ?_⟩ <;> obtain rfl := secondEvent_next ht
    · exact secondEvent_waits hr hc hwait order
    refine ⟨fun hc hwait e he => ?_, fun hc => ⟨fun h => ?_, fun h => ?_, fun h e he => ?_⟩⟩
    · exact passTaken_ticked ((secondEvent_plain hr order hc).passTaken (walkerSecond_taken (s := s.ticked) hwait he))
    · exact secondEvent_wrap_rests hr order hc h
    · exact secondEvent_wrap_head hr order hc h
    · exact secondEvent_wrap_waiting hr order hc h he
  · dsimp only
    split
    · next hfree => exact recordFault_written hw hfree h1 h2 h3 h4 h5
    · next hfree => exact recordFault_further hw hfree reason entry link clock found

end Sys2Proof.Machine

/-! SUPPORT. A request that its block answers at once (R170, R171), the RAM and the notices untouched; O37 and O39. -/

namespace Sys2Proof.Machine

-- Proofs one at a time: those that wait side by side each hold a thread's stack.
set_option Elab.async false

variable {s u : State} {i : Slot} {p : Scan} {k : RequestKind}

/-- A request refused by a block that has changed nothing. -/
theorem takeKind_refuses (hw : s.ram.wf = true) (h : s.TakesNext i p k) (o : Open) {code : ResultCode}
    (hr : serve o i (s.copyOf i) (s.atSlot p) k = (s.atSlot p, .refused code [])) :
    s.Answered (s.takeKind o (SlotKind.is k) i) i 4 code.code [] ∧
      s.takeKind o (SlotKind.is k) i = s.afterScanOnly (s.takeKind o (SlotKind.is k) i) p := by
  rw [takeKind_refused h o hr]
  exact close_answered hw i p (by simp [placed]) (by decide) (by cases code <;> decide)

/-- A request completed by a block that has changed neither the RAM, the notices nor the run values. -/
theorem takeKind_completes (hw : s.ram.wf = true) (h : s.TakesNext i p k) (o : Open) {results : List Result}
    (hr : serve o i (s.copyOf i) (s.atSlot p) k = (u, .done results)) (hp : placed 4 results) (hm : u.ram = s.ram)
    (hn : u.notices = s.notices) (hrun : u.run = s.run) :
    let t := s.takeKind o (SlotKind.is k) i
    s.Answered t i 3 0 results ∧ t = { u with ram := t.ram, notices := t.notices } := by
  dsimp only
  rw [takeKind_done h o hr]
  exact ⟨answered_of (s := s) (u := u) hw hm hn hrun i hp (by decide) (by decide), close_only _ _ _ _ _ _⟩

/-! ### SET_FLAGS (R116) -/

/-- R116: the flags after a SET_FLAGS. -/
def maskFlags (flags : Byte) (mask values : Nat) : Byte :=
  (flags &&& ~~~BitVec.ofNat 8 mask) ||| (BitVec.ofNat 8 values &&& BitVec.ofNat 8 mask)

theorem maskFlags_bit (flags : Byte) (mask values : Nat) (n : Fin 8) :
    (maskFlags flags mask values).getLsbD n.val = if bit mask n.val then bit values n.val else flags.getLsbD n.val := by
  unfold maskFlags bit
  rw [BitVec.getLsbD_or, BitVec.getLsbD_and, BitVec.getLsbD_and, BitVec.getLsbD_not, BitVec.getLsbD_ofNat, BitVec.getLsbD_ofNat]
  cases mask.testBit n.val <;> simp

theorem serveSetFlags_refused {copy : List Byte} (h : 255 < field copy 0x04 2 ∨ 255 < field copy 0x06 2) (s : State) :
    serveSetFlags copy s = (s, .refused .badField []) := if_pos h

theorem serveSetFlags_done {copy : List Byte} (h : ¬ (255 < field copy 0x04 2 ∨ 255 < field copy 0x06 2)) (s : State) :
    serveSetFlags copy s =
      ({ s with scanner := { s.scanner with flags := maskFlags s.scanner.flags (field copy 0x04 2) (field copy 0x06 2) } },
        .done [⟨0x20, 1, (maskFlags s.scanner.flags (field copy 0x04 2) (field copy 0x06 2)).toNat⟩]) := if_neg h

/-- Settles O39. -/
theorem setFlagsFollowsTheMask : Obligations.SetFlagsFollowsTheMask := by
  unfold Obligations.SetFlagsFollowsTheMask
  intro s i p hw ht
  dsimp only
  have hmask : field (s.copyOf i) 0x04 2 = s.param i 0x04 2 := field_copy s i _ _ (by omega)
  have hvalues : field (s.copyOf i) 0x06 2 = s.param i 0x06 2 := field_copy s i _ _ (by omega)
  rw [← hmask, ← hvalues]
  refine ⟨s.takeKind Open.none (SlotKind.is .setFlags) i, rfl, ?_⟩
  split
  · next h => exact takeKind_refuses hw ht Open.none (serveSetFlags_refused h _)
  · next h =>
    obtain ⟨hans, hrest⟩ := takeKind_completes hw ht Open.none (serveSetFlags_done h _) (by simp [placed]) rfl rfl rfl
    generalize s.takeKind Open.none (SlotKind.is .setFlags) i = t at hans hrest
    have hflags : t.scanner.flags = maskFlags s.scanner.flags (field (s.copyOf i) 0x04 2) (field (s.copyOf i) 0x06 2) := by
      rw [hrest]
      rfl
    rw [hflags]
    exact ⟨hans, maskFlags_bit _ _ _, hrest, fun n => ⟨congrArg (fun f : Byte => f.getLsbD n.val) hflags,
      congrArg (fun f : Byte => !f.getLsbD n.val) hflags⟩⟩

/-! ### SET_WATCH (R133) -/

theorem serveSetWatch_idle (h : s.run.state ≠ .running) (copy : List Byte) :
    serveSetWatch copy s = (s, .refused .notRunning []) := if_pos h

theorem serveSetWatch_refused {copy : List Byte} (hr : s.run.state = .running) (h : 255 < field copy 0x04 2) :
    serveSetWatch copy s = (s, .refused .badField []) := (if_neg fun e => e hr).trans (if_pos h)

theorem serveSetWatch_done {copy : List Byte} (hr : s.run.state = .running) (h : ¬ 255 < field copy 0x04 2) :
    serveSetWatch copy s =
      ({ s with walker := { s.walker with watch := field copy 0x04 2 } }, .done [⟨0x20, 1, s.walker.watch⟩]) :=
  (if_neg fun e => e hr).trans (if_neg h)

/-- Settles O37. -/
theorem setWatchReplacesTheWatch : Obligations.SetWatchReplacesTheWatch := by
  unfold Obligations.SetWatchReplacesTheWatch
  intro s i p hw ht
  dsimp only
  have hvalue : field (s.copyOf i) 0x04 2 = s.param i 0x04 2 := field_copy s i _ _ (by omega)
  rw [← hvalue]
  refine ⟨s.takeKind Open.none (SlotKind.is .setWatch) i, rfl, ?_⟩
  split
  · next h => exact takeKind_refuses hw ht Open.none (serveSetWatch_idle (s := s.atSlot p) h _)
  next hr =>
  replace hr := not_not.1 hr
  split
  · next h => exact takeKind_refuses hw ht Open.none (serveSetWatch_refused (s := s.atSlot p) hr h)
  · next h =>
    obtain ⟨hans, hrest⟩ :=
      takeKind_completes hw ht Open.none (serveSetWatch_done (s := s.atSlot p) hr h) (by simp [placed]) rfl rfl rfl
    generalize s.takeKind Open.none (SlotKind.is .setWatch) i = t at hans hrest
    have hwatch : t.walker.watch = field (s.copyOf i) 0x04 2 := by rw [hrest]
    refine ⟨hans, hrest, fun e q hq => ?_⟩
    rw [← hwatch]
    exact (passFromSuccessor_lawful t e).watch q hq

end Sys2Proof.Machine

/-! SUPPORT. A pass that a command of the host begins (R119, R126, R132, R137): what it reads, what it writes and what its request
answers. -/

namespace Sys2Proof.Machine

-- Proofs one at a time: those that wait side by side each hold a thread's stack.
set_option Elab.async false

variable {s t u v : State} {i : Slot} {p : Scan}

/-! ### What a pass reads (R111, R117, R120) -/

theorem holds_congr (hs : t.scanner.flags = s.scanner.flags) (ha : t.acc = s.acc) (hp : t.poller = s.poller)
    (hh : ∀ k : Stage, t.gain.stages[k].hold = s.gain.stages[k].hold) (cond operand : Nat) :
    t.holds cond operand = s.holds cond operand := by
  have hlive : t.stationLive operand = s.stationLive operand := by
    unfold State.stationLive
    rw [hp]
  have hheld : t.stageHeld operand = s.stageHeld operand := congrArg Option.isSome (hh (Fin.ofNat 4 operand))
  have hexceed : t.anyExceed = s.anyExceed := by
    unfold State.anyExceed State.enabledStation
    rw [ha, hp]
  unfold State.holds
  rw [hs, hexceed, hheld, hlive]

theorem samePass_of {q : Nat → Prop} (hk : keepsOutside q s.ram t.ram) (hq : ∀ a, inSchedule a → ¬ q a) (hc : t.clock = s.clock)
    (hw : t.walker.watch = s.walker.watch) (hs : t.scanner.flags = s.scanner.flags) (ha : t.acc = s.acc)
    (hp : t.poller = s.poller) (hh : ∀ k : Stage, t.gain.stages[k].hold = s.gain.stages[k].hold) : s.SamePass t :=
  have h := schedule_congr hk hq
  ⟨h.1, h.2, hc, hw, holds_congr hs ha hp hh⟩

theorem notSchedule_of_queue {a : Nat} (h : inSchedule a) : ¬ inNoticeQueue a := fun hq => by
  unfold inSchedule at h
  unfold inNoticeQueue at hq
  omega

/-! ### What a pass writes (R134, R135) -/

/-- The bytes that a pass may write. -/
def passWrites (a : Nat) : Prop := inNoticeQueue a ∨ inFaultRecord a

theorem Noticed.activate {m : Memory} {n : BitVec 10} (h : Noticed m n s) (cause : PassCause) (b : Bool) (e : LimitEntry) :
    Noticed m n (s.activate cause b e) := by
  rw [activate_eq]
  exact ((h.congr (t := s.atEntry e) rfl rfl).changeTerms _).post _ _ _

theorem Noticed.takeLast {m : Memory} {n : BitVec 10} (h : Noticed m n s) (cause : PassCause) (P : Pass) :
    Noticed m n (s.takeLast cause P) := by
  unfold State.takeLast
  split
  · exact h.activate cause false _
  · exact h

theorem Noticed.takeFault {m : Memory} {n : BitVec 10} (h : Noticed m n s) (cause : PassCause) (b : Bool) (P : Pass) :
    Noticed m n (s.takeFault cause b P) := by
  unfold State.takeFault
  split
  · exact h.activate cause true _
  · exact h.changeTerms _

/-- R135: the fault's notice and its record. -/
theorem reportFault_ram {m : Memory} {n : BitVec 10} (h : Noticed m n s) (reason : FaultReason) (entry link : Nat)
    (found : WalkerState) :
    let t := s.reportFault reason entry link found
    t.ram.wf = true ∧ keepsOutside passWrites m t.ram ∧ t.log.writeIdx = n := by
  have hpost : Noticed m n (s.postScheduleFault entry reason.code link) := h.post _ _ _
  unfold State.reportFault
  dsimp only
  generalize s.postScheduleFault entry reason.code link = u at hpost
  exact ⟨(State.Tidy.recordFault_tidy hpost.wf _ _ _ _ _).1,
    keepsOutside_trans hpost.keeps (keeps_recordFault hpost.wf _ _ _ _ _) (fun _ ha => .inl ha) fun a ha =>
      .inr (by unfold inFaultRecord; omega), hpost.writeIdx⟩

theorem Noticed.written {m : Memory} {n : BitVec 10} (h : Noticed m n s) :
    s.ram.wf = true ∧ keepsOutside passWrites m s.ram ∧ s.log.writeIdx = n :=
  ⟨h.wf, keepsOutside_trans h.keeps (keepsOutside_refl inNoticeQueue _) (fun _ ha => .inl ha) fun _ ha => .inl ha, h.writeIdx⟩

theorem endPass_ram {m : Memory} {n : BitVec 10} (h : Noticed m n s) (cause : PassCause) (starting : Bool) (found : WalkerState)
    (P : Pass) :
    let t := s.endPass cause starting found P
    t.ram.wf = true ∧ keepsOutside passWrites m t.ram ∧ t.log.writeIdx = n := by
  have h1 : Noticed m n (s.countLinks P.links) := h.congr rfl rfl
  have hlast := h1.takeLast cause P
  cases he : P.ending with
  | notDue =>
    rw [endPass_notDue _ _ _ _ he]
    exact (hlast.congr (t := State.goTo .waiting _) rfl rfl).written
  | final =>
    rw [endPass_final _ _ _ _ he]
    exact (hlast.congr (t := State.goTo .final _) rfl rfl).written
  | watch q =>
    rw [endPass_watch _ _ _ _ he]
    exact (Noticed.post (hlast.congr (t := State.pauseAt q _) rfl rfl) _ _ _).written
  | fault reason entry link =>
    rw [endPass_fault _ _ _ _ he]
    exact reportFault_ram ((h1.takeFault cause starting P).congr (t := State.goTo .faulted _) rfl rfl) _ _ _ _

/-! ### The answer (R170, R171) -/

/-- A request completed by a block, in a canonical RAM. -/
theorem close_holds (hw : u.ram.wf = true) (i : Slot) (copy : List Byte) {state code : Nat} {results : List Result}
    (hp : placed 4 results) (hs : state < 256) (hc : code < 256) :
    slotHolds (u.close i copy state code results).ram i state code results ∧
      keepsOutside (fun a => inResults i results a ∨ inNoticeQueue a) u.ram (u.close i copy state code results).ram :=
  close_noticed (Noticed.refl hw) i copy hp hs hc

theorem close_sameForce (i : Slot) (copy : List Byte) (state code : Nat) (results : List Result) (u : State) :
    u.SameForce (u.close i copy state code results) := by
  rw [close_only]
  exact .of_eq rfl rfl rfl

theorem close_parts (i : Slot) (copy : List Byte) (state code : Nat) (results : List Result) (u : State) :
    let t := u.close i copy state code results
    t.run = u.run ∧ t.clock = u.clock ∧ t.regs = u.regs ∧ t.scanner = u.scanner ∧ t.log = u.log ∧ t.pending = u.pending ∧
      t.poller = u.poller ∧ t.book = u.book ∧ t.acc = u.acc ∧ t.gain = u.gain ∧ t.walker = u.walker ∧ t.links = u.links := by
  rw [close_only]
  exact ⟨rfl, rfl, rfl, rfl, rfl, rfl, rfl, rfl, rfl, rfl, rfl, rfl⟩

/-! ### FAULTED left (R136, R137) -/

/-- R136: the terms once FAULTED has been left. -/
theorem leaveFaulted_stage (s : State) (k : Stage) :
    s.leaveFaulted.gain.stages[k].sched = s.gain.stages[k].sched ∧ s.leaveFaulted.gain.stages[k].hold = s.gain.stages[k].hold ∧
      s.leaveFaulted.gain.stages[k].fault = if s.walker.state = .faulted then none else s.gain.stages[k].fault := by
  unfold State.leaveFaulted
  split
  · rw [changeTerms_stage]
    exact ⟨rfl, rfl, rfl⟩
  · exact ⟨rfl, rfl, rfl⟩

@[simp] theorem leaveFaulted_cfg (s : State) : s.leaveFaulted.gain.cfg = s.gain.cfg := by
  unfold State.leaveFaulted
  split
  · exact changeTerms_cfg _ s
  · rfl

theorem noticed_leaveFaulted (hw : s.ram.wf = true) : Noticed s.ram s.log.writeIdx s.leaveFaulted := by
  unfold State.leaveFaulted
  split
  · exact noticed_changeTerms hw _
  · exact .refl hw

theorem leaveFaulted_samePass (hw : s.ram.wf = true) (p : Scan) : s.SamePass (s.atSlot p).leaveFaulted := by
  obtain ⟨-, hclock, -, hacc, hpoll, hwalk, -, hscan, -⟩ := leaveFaulted_keeps (s.atSlot p)
  exact samePass_of (noticed_leaveFaulted (s := s.atSlot p) hw).keeps (fun _ ha => notSchedule_of_queue ha) hclock (by rw [hwalk]; rfl)
    (by rw [hscan]; rfl) hacc hpoll fun k => (leaveFaulted_stage (s.atSlot p) k).2.1

end Sys2Proof.Machine

/-! O36: RESTART_SCHEDULE and RESUME_SCHEDULE (R132, R137). -/

namespace Sys2Proof.Machine

-- Proofs one at a time: those that wait side by side each hold a thread's stack.
set_option Elab.async false

variable {s u : State} {i : Slot} {p : Scan}

theorem passResults_congr {t : State} (P : Pass) (h : t.walker = u.walker) : passResults P t = passResults P u := by
  unfold passResults
  rw [h]

theorem passResults_placed (P : Pass) (u : State) : placed 4 (passResults P u) := by simp [placed, passResults]

/-- From `s` to `u` a request whose scan is at `p` has left FAULTED and taken the pass `P`. -/
structure State.Passed (s u : State) (p : Scan) (P : Pass) : Prop where
  taken : s.PassTaken u P
  wf : u.ram.wf = true
  keeps : keepsOutside passWrites s.ram u.ram
  fault : ∀ k : Stage, P.reasonCode = 0 →
    u.gain.stages[k].fault = if s.walker.state = .faulted then none else s.gain.stages[k].fault
  rest : s.restKept u p
  poller : u.poller = s.poller
  book : u.book = s.book
  rings : u.acc.rings = s.acc.rings

theorem passed_of_leaveFaulted (hw : s.ram.wf = true) (p : Scan) (cause : PassCause) (found : WalkerState) (P : Pass) :
    s.Passed ((s.atSlot p).leaveFaulted.endPass cause false found P) p P := by
  obtain ⟨vrun, vclock, vregs, vacc, vpoll, vwalk, vbook, vscan, vpend⟩ := leaveFaulted_keeps (s.atSlot p)
  have vcfg : (s.atSlot p).leaveFaulted.gain.cfg = s.gain.cfg := leaveFaulted_cfg (s.atSlot p)
  have vstage := leaveFaulted_stage (s.atSlot p)
  have vram := noticed_leaveFaulted (s := s.atSlot p) hw
  generalize (s.atSlot p).leaveFaulted = v at vrun vclock vregs vacc vpoll vwalk vbook vscan vpend vcfg vstage vram ⊢
  obtain ⟨uwf, ukeeps, uidx⟩ := endPass_ram vram cause false found P
  obtain ⟨urun, uclock, uregs, upoll, ubook, uscan, upend⟩ := endPass_keeps cause false found P v
  exact {
    taken := passTaken_from vwalk vacc vcfg (fun k => (vstage k).1) (endPass_taken cause found P v)
    wf := uwf
    keeps := ukeeps
    fault := fun k h => (endPass_fault_kept cause found v h k).trans (vstage k).2.2
    rest := ⟨urun.trans vrun, uclock.trans vclock, uregs.trans vregs, uscan.trans vscan, uidx, upend.trans vpend⟩
    poller := upoll.trans vpoll
    book := ubook.trans vbook
    rings := (endPass_rings cause false found P v).trans (congrArg Accumulator.rings vacc) }

/-- The same once the request's result has been written. -/
theorem State.Passed.closed {P : Pass} (h : s.Passed u p P) (i : Slot) (copy : List Byte) :
    let t := u.close i copy 3 0 (passResults P u)
    s.PassTaken t P ∧
      (slotHolds t.ram i 3 0 (passResults P t) ∧
        keepsOutside (fun a => inResults i (passResults P t) a ∨ inNoticeQueue a ∨ inFaultRecord a) s.ram t.ram) ∧
      (∀ k : Stage, P.reasonCode = 0 →
        t.gain.stages[k].fault = if s.walker.state = .faulted then none else s.gain.stages[k].fault) ∧
      s.restKept t p ∧ t.poller = s.poller ∧ t.book = s.book ∧
      ∀ st : Station, t.acc.accts[st].ring = s.acc.accts[st].ring := by
  obtain ⟨hholds, hkeeps⟩ := close_holds h.wf i copy (state := 3) (code := 0) (passResults_placed P u) (by decide) (by decide)
  have htaken := (close_sameForce i copy 3 0 (passResults P u) u).passTaken h.taken
  obtain ⟨trun, tclock, tregs, tscan, tlog, tpend, tpoll, tbook, tacc, tgain, twalk, -⟩ :=
    close_parts i copy 3 0 (passResults P u) u
  obtain ⟨urun, uclock, uregs, uscan, uidx, upend⟩ := h.rest
  dsimp only
  rw [passResults_congr P twalk]
  generalize u.close i copy 3 0 (passResults P u) = t at *
  refine ⟨htaken, ⟨hholds, keepsOutside_trans h.keeps hkeeps (fun _ ha => .inr ha) fun _ ha => ha.imp_right .inl⟩, fun k hk => ?_,
    ⟨trun.trans urun, tclock.trans uclock, tregs.trans uregs, tscan.trans uscan, ?_, tpend.trans upend⟩,
    tpoll.trans h.poller, tbook.trans h.book, fun st => ?_⟩
  · rw [tgain]
    exact h.fault k hk
  · rw [tlog]
    exact uidx
  · rw [tacc]
    exact congrFun (congrArg Prod.snd h.rings) st

theorem serveRestartSchedule_done (hr : s.run.state = .running) (copy : List Byte) :
    serveRestartSchedule copy s =
      (s.leaveFaulted.endPass .restart false s.walker.state s.leaveFaulted.passFromHead,
        .done (passResults s.leaveFaulted.passFromHead
          (s.leaveFaulted.endPass .restart false s.walker.state s.leaveFaulted.passFromHead))) :=
  if_neg fun e => e hr

theorem serveResumeSchedule_done (hr : s.run.state = .running) {q : Pause} (hp : s.walker.state = .paused)
    (hq : s.walker.pause = some q) (holder : Byte) (copy : List Byte) :
    serveResumeSchedule holder copy s =
      (s.endPass .resume false s.walker.state (s.passFromPause q holder),
        .done (passResults (s.passFromPause q holder) (s.endPass .resume false s.walker.state (s.passFromPause q holder)))) := by
  unfold serveResumeSchedule
  rw [if_neg fun e => e hr, hq]
  conv_lhs => rw [hp]
  rfl

theorem serveResumeSchedule_refused (hr : s.run.state = .running) (hp : s.walker.state ≠ .paused) (holder : Byte)
    (copy : List Byte) : serveResumeSchedule holder copy s = (s, .refused .conflict []) := by
  unfold serveResumeSchedule
  rw [if_neg fun e => e hr]
  split
  · next h _ => exact absurd h hp
  · rfl

/-- Settles O36. -/
theorem restartAndResumeTakeAPass : Obligations.RestartAndResumeTakeAPass := by
  unfold Obligations.RestartAndResumeTakeAPass
  intro s i p half hw hr _
  dsimp only
  refine ⟨fun ht => ?_, fun ht => ⟨fun q hp hq => ?_, fun hp => ?_⟩⟩
  · have hx := takeKind_done ht Open.none (serveRestartSchedule_done (s := s.atSlot p) hr (s.copyOf i))
    rw [(leaveFaulted_samePass hw p).fromHead] at hx
    exact ⟨_, congrArg Host.Outcome.next hx, (passed_of_leaveFaulted hw p _ _ _).closed i _⟩
  · have hx := takeKind_done ht { logFirst := false, unstated := half }
      (serveResumeSchedule_done (s := s.atSlot p) hr hp hq (half.setWidth 8) (s.copyOf i))
    have hsame : s.SamePass (s.atSlot p) := ⟨rfl, fun _ _ => rfl, rfl, rfl, fun _ _ => rfl⟩
    have hpassed := passed_of_leaveFaulted hw p .resume (s.atSlot p).walker.state (s.passFromPause q (half.setWidth 8))
    rw [leaveFaulted_of_ne (s := s.atSlot p) (by rw [show (s.atSlot p).walker.state = _ from hp]; exact WalkerState.noConfusion)] at hpassed
    rw [hsame.fromPause] at hx
    exact ⟨_, congrArg Host.Outcome.next hx, hpassed.closed i _⟩
  · exact ⟨_, rfl, takeKind_refuses hw ht { logFirst := false, unstated := half }
        (serveResumeSchedule_refused (s := s.atSlot p) hr hp _ (s.copyOf i))⟩

end Sys2Proof.Machine

/-! SUPPORT. What the closing of a minute leaves of the schedule (R183, R187); the movement of the clock (R109, R126, R186); and O35. -/

namespace Sys2Proof.Machine

-- Proofs one at a time: those that wait side by side each hold a thread's stack.
set_option Elab.async false

variable {s t : State} {i : Slot} {p : Scan}

/-! ### The schedule through the closing of a minute -/

/-- The RAM is canonical and holds the schedule that `m` held. -/
structure State.ScheduleKept (m : Memory) (s : State) : Prop where
  wf : s.ram.wf = true
  keeps : keepsOutside (fun a => ¬ inSchedule a) m s.ram

namespace State.ScheduleKept

variable {m : Memory}

theorem refl (h : s.ram.wf = true) : s.ScheduleKept s.ram := ⟨h, keepsOutside_refl _ _⟩

variable (h : s.ScheduleKept m)

include h

theorem congr (hr : t.ram = s.ram := by rfl) : t.ScheduleKept m := ⟨by rw [hr]; exact h.wf, by rw [hr]; exact h.keeps⟩

theorem writeBytes (a : Nat) (bytes : List Byte) (ha : ∀ x, a ≤ x → x < a + bytes.length → ¬ inSchedule x) :
    State.ScheduleKept m (s.setRam (s.ram.writeBytes a bytes)) :=
  ⟨wf_writeBytes h.wf a bytes,
    keepsOutside_trans h.keeps (keeps_writeBytes h.wf a bytes) (fun _ hx => hx) fun x hx => ha x hx.1 hx.2⟩

theorem post (kind sub detail : Nat) : (s.post kind sub detail).ScheduleKept m :=
  ⟨wf_post h.wf kind sub detail,
    keepsOutside_trans h.keeps (keeps_post h.wf kind sub detail) (fun _ ha => ha) fun _ ha hin =>
      notSchedule_of_queue hin (inNextNotice_queue ha)⟩

theorem report (cls : CondClass) (sub : Fin 16) (now : Bool) (v : Nat) : (s.report cls sub now v).ScheduleKept m := by
  unfold State.report
  split
  · exact h
  · dsimp only
    split
    · exact post h.congr _ _ _
    · exact h.congr

theorem readOccupancy : s.readOccupancy.ScheduleKept m := by
  unfold State.readOccupancy
  exact report h.congr _ _ _ _

theorem writeIndex (a v : Nat) (ha : a = 0x0240 ∨ a = 0x0242) : State.ScheduleKept m (s.setRam (s.ram.writeLe a 2 v)) :=
  h.writeBytes a _ fun x h1 h2 hin => by
    rw [length_leBytes] at h2
    unfold inSchedule at hin
    omega

theorem putRecord (bytes : List Byte) : (s.putRecord bytes).ScheduleKept m := by
  have h1 := h.writeBytes (Config.logBase + 32 * s.log.writeIdx.toNat) bytes fun x h1 _ hin => by
    unfold inSchedule at hin
    rw [show Config.logBase = 0x5400 from rfl] at h1
    omega
  unfold State.putRecord
  exact readOccupancy (writeIndex (s := { s.setRam _ with log := _ }) h1.congr 0x0240 _ (.inl rfl))

theorem writeRecord (bytes : List Byte) (given : Nat) : (s.writeRecord bytes given).1.ScheduleKept m := by
  unfold State.writeRecord
  repeat' split
  · exact h.putRecord _
  · exact h
  · exact post h.congr _ _ _
  · exact putRecord (h.writeIndex 0x0242 _ (.inr rfl)) _

theorem writeRecords (minute : Nat) (f : RecordFlags) : (s.writeRecords minute f).1.ScheduleKept m := by
  unfold State.writeRecords
  refine foldl_preserves (fun q : State × Nat => q.1.ScheduleKept m) _ (fun q st hq => ?_) _ (s, 0) h
  split
  · exact hq.writeRecord _ _
  · exact hq

theorem closeMinute (minute : Nat) (f : RecordFlags) : (s.closeMinute minute f).ScheduleKept m := by
  have hp : (if s.log.folded = 0 then (s, 0) else s.writeRecords minute f).1.ScheduleKept m := by
    split
    · exact h
    · exact h.writeRecords minute f
  unfold State.closeMinute
  split
  · dsimp only
    generalize (if s.log.folded = 0 then (s, 0) else s.writeRecords minute f) = q at hp
    split
    · exact hp.congr
    · exact congr (hp.post _ _ _)
  · exact h

end State.ScheduleKept

/-! ### The movement at the Log Writer and at the walker (R126, R186) -/

/-- R186: the minute that a movement of the clock closes in RUNNING. -/
def State.minuteMoved (before : Nat) (s : State) : State :=
  if s.run.state = .running then s.closeMinute (before / 60 + 1) { clockSet := true, stopped := false } else s

theorem clockMoved_eq (logFirst : Bool) (before : Nat) (s : State) :
    s.clockMoved logFirst before = if logFirst then (s.minuteMoved before).walkerMoved else s.walkerMoved.minuteMoved before := rfl

theorem minuteMoved_keeps (before : Nat) (s : State) :
    (s.minuteMoved before).clock = s.clock ∧ (s.minuteMoved before).acc = s.acc ∧ (s.minuteMoved before).gain = s.gain ∧
      (s.minuteMoved before).poller = s.poller ∧ (s.minuteMoved before).links = s.links ∧
      (s.minuteMoved before).walker = s.walker ∧ (s.minuteMoved before).scanner = s.scanner := by
  unfold State.minuteMoved
  split <;> simp

theorem minuteMoved_schedule (hw : s.ram.wf = true) (before : Nat) : (s.minuteMoved before).ScheduleKept s.ram := by
  unfold State.minuteMoved
  split
  · exact (State.ScheduleKept.refl hw).closeMinute _ _
  · exact .refl hw

theorem wf_walkerMoved (hw : s.ram.wf = true) : s.walkerMoved.ram.wf = true := by
  unfold State.walkerMoved
  split
  · exact (endPass_ram (.refl hw) _ _ _ _).1
  · exact hw

variable (logFirst : Bool) (before : Nat)

theorem wf_clockMoved (hw : s.ram.wf = true) : (s.clockMoved logFirst before).ram.wf = true := by
  rw [clockMoved_eq]
  split
  · exact wf_walkerMoved (minuteMoved_schedule hw before).wf
  · exact (minuteMoved_schedule (wf_walkerMoved hw) before).wf

theorem clockMoved_rings (s : State) : (s.clockMoved logFirst before).acc.rings = s.acc.rings := by
  rw [clockMoved_eq]
  split
  · rw [walkerMoved_rings, (minuteMoved_keeps before s).2.1]
  · rw [(minuteMoved_keeps before _).2.1, walkerMoved_rings]

/-- R126: no pass begins in UNSTARTED or in FAULTED. -/
theorem clockMoved_still (h : s.walker.state = .unstarted ∨ s.walker.state = .faulted) :
    s.clockMoved logFirst before = s.minuteMoved before := by
  have hmoved : (s.minuteMoved before).walker = s.walker := (minuteMoved_keeps before s).2.2.2.2.2.1
  rw [clockMoved_eq, walkerMoved_still h, walkerMoved_still (by rw [hmoved]; exact h)]
  exact ite_self _

/-- R126: in the other states a movement takes a pass from the head, whichever block comes first (log entry 33). -/
theorem clockMoved_taken (hw : s.ram.wf = true)
    (h : s.walker.state = .waiting ∨ s.walker.state = .paused ∨ s.walker.state = .final) :
    s.PassTaken (s.clockMoved logFirst before) s.passFromHead := by
  rw [clockMoved_eq]
  split
  · obtain ⟨hclock, hacc, hgain, hpoll, -, hwalk, hscan⟩ := minuteMoved_keeps before s
    have hsame : s.SamePass (s.minuteMoved before) :=
      samePass_of (minuteMoved_schedule hw before).keeps (fun _ ha hn => hn ha) hclock (by rw [hwalk]) (by rw [hscan]) hacc hpoll
        fun k => by rw [hgain]
    rw [← hsame.fromHead]
    exact passTaken_from hwalk hacc (by rw [hgain]) (fun k => by rw [hgain]) (walkerMoved_taken (by rw [hwalk]; exact h))
  · obtain ⟨-, hacc, hgain, -, -, hwalk, -⟩ := minuteMoved_keeps before s.walkerMoved
    exact (State.SameForce.of_eq hwalk (by rw [hacc]) hgain).passTaken (walkerMoved_taken h)

/-! ### The request (R109) -/

/-- R109: the state whose clock a SET_CLOCK has set, before a movement is handed on. -/
def State.withClock (v : Nat) (s : State) : State := { s with clock := v }

/-- R109, R126: a SET_CLOCK taken by the clock and, when it moves it, by the walker and the Log Writer. -/
def State.clockSet (v : Nat) (s : State) : State :=
  if v = s.clock then s.withClock v else (s.withClock v).clockMoved logFirst s.clock

/-- The results of a SET_CLOCK (Table 9-8). -/
def clockResults (before v : Nat) (w : WalkerState) : List Result := [⟨0x20, 4, before⟩, ⟨0x24, 4, v⟩, ⟨0x28, 1, w.code⟩]

theorem serveSetClock_refused {copy : List Byte} (h : 2147483647 < field copy 0x04 4) (s : State) :
    serveSetClock logFirst copy s = (s, .refused .badField []) := if_pos h

theorem serveSetClock_done {copy : List Byte} (h : field copy 0x04 4 ≤ 2147483647) (s : State) :
    serveSetClock logFirst copy s =
      (s.clockSet logFirst (field copy 0x04 4),
        .done (clockResults s.clock (field copy 0x04 4) (s.clockSet logFirst (field copy 0x04 4)).walker.state)) :=
  if_neg (Nat.not_lt.2 h)

theorem clockSet_keeps (v : Nat) (s : State) :
    (s.clockSet logFirst v).run = s.run ∧ (s.clockSet logFirst v).clock = v ∧ (s.clockSet logFirst v).regs = s.regs ∧
      (s.clockSet logFirst v).poller = s.poller ∧ (s.clockSet logFirst v).book = s.book ∧
      (s.clockSet logFirst v).scanner = s.scanner ∧ (s.clockSet logFirst v).acc.rings = s.acc.rings := by
  unfold State.clockSet
  split
  · exact ⟨rfl, rfl, rfl, rfl, rfl, rfl, rfl⟩
  · obtain ⟨hrun, hclock, hregs, hpoll, hbook, hscan, -⟩ := clockMoved_keeps logFirst s.clock (s.withClock v)
    exact ⟨hrun, hclock, hregs, hpoll, hbook, hscan, clockMoved_rings logFirst s.clock (s.withClock v)⟩

theorem wf_clockSet (hw : s.ram.wf = true) (v : Nat) : (s.clockSet logFirst v).ram.wf = true := by
  unfold State.clockSet
  split
  · exact hw
  · exact wf_clockMoved (s := s.withClock v) logFirst s.clock hw

/-- R126: a set that does not move the clock, or one outside a show. -/
theorem clockSet_only {v : Nat} (h : v = s.clock ∨ (s.run.state ≠ .running ∧ s.walker.state = .unstarted)) :
    s.clockSet logFirst v = s.withClock v := by
  unfold State.clockSet
  split
  · rfl
  · next hv =>
    obtain ⟨hr, hw⟩ := h.resolve_left hv
    rw [clockMoved_still (s := s.withClock v) logFirst s.clock (.inl hw)]
    exact if_neg hr

theorem clockSet_faulted (h : s.walker.state = .faulted) (v : Nat) :
    (s.clockSet logFirst v).walker = s.walker ∧ (s.clockSet logFirst v).gain = s.gain ∧
      (s.clockSet logFirst v).acc = s.acc ∧ (s.clockSet logFirst v).links = s.links := by
  unfold State.clockSet
  split
  · exact ⟨rfl, rfl, rfl, rfl⟩
  · rw [clockMoved_still (s := s.withClock v) logFirst s.clock (.inr h)]
    obtain ⟨-, hacc, hgain, -, hlinks, hwalk, -⟩ := minuteMoved_keeps s.clock (s.withClock v)
    exact ⟨hwalk, hgain, hacc, hlinks⟩

theorem clockSet_taken (hw : s.ram.wf = true) {v : Nat} (hv : v ≠ s.clock)
    (h : s.walker.state = .waiting ∨ s.walker.state = .paused ∨ s.walker.state = .final) :
    s.PassTaken (s.clockSet logFirst v) (s.withClock v).passFromHead := by
  unfold State.clockSet
  rw [if_neg hv]
  exact passTaken_from rfl rfl rfl (fun _ => rfl) (clockMoved_taken (s := s.withClock v) logFirst s.clock hw h)

/-- From `s` to `u` a SET_CLOCK whose scan is at `p` has set the clock to `v`, and a movement has been handed on. -/
structure State.ClockTaken (s u : State) (p : Scan) (v : Nat) : Prop where
  wf : u.ram.wf = true
  clock : u.clock = v
  run : u.run = s.run
  regs : u.regs = s.regs
  poller : u.poller = s.poller
  book : u.book = s.book
  scanner : u.scanner = { s.scanner with scan := some p }
  rings : u.acc.rings = s.acc.rings
  only : v = s.clock ∨ (s.run.state ≠ .running ∧ s.walker.state = .unstarted) → u = (s.atSlot p).withClock v
  faulted : s.walker.state = .faulted → u.walker = s.walker ∧ u.gain = s.gain ∧ u.acc = s.acc ∧ u.links = s.links
  taken : v ≠ s.clock → s.walker.state = .waiting ∨ s.walker.state = .paused ∨ s.walker.state = .final →
    s.PassTaken u (s.withClock v).passFromHead

theorem clockSet_clockTaken (hw : s.ram.wf = true) (p : Scan) (v : Nat) :
    s.ClockTaken ((s.atSlot p).clockSet logFirst v) p v := by
  obtain ⟨hrun, hclock, hregs, hpoll, hbook, hscan, hrings⟩ := clockSet_keeps logFirst v (s.atSlot p)
  have hsame : (s.withClock v).SamePass ((s.atSlot p).withClock v) := ⟨rfl, fun _ _ => rfl, rfl, rfl, fun _ _ => rfl⟩
  refine ⟨wf_clockSet (s := s.atSlot p) logFirst hw v, hclock, hrun, hregs, hpoll, hbook, hscan, hrings,
    clockSet_only (s := s.atSlot p) logFirst, fun h => clockSet_faulted (s := s.atSlot p) logFirst h v, fun hv h => ?_⟩
  rw [← hsame.fromHead]
  exact passTaken_from rfl rfl rfl (fun _ => rfl) (clockSet_taken (s := s.atSlot p) logFirst hw hv h)

/-- The same once the request's result has been written. -/
theorem State.ClockTaken.closed {u : State} {v : Nat} (h : s.ClockTaken u p v) (i : Slot) (copy : List Byte) :
    let t := u.close i copy 3 0 (clockResults s.clock v u.walker.state)
    t.clock = v ∧ slotHolds t.ram i 3 0 (clockResults s.clock v t.walker.state) ∧
      t.run = s.run ∧ t.regs = s.regs ∧ t.poller = s.poller ∧ t.book = s.book ∧
      t.scanner = { s.scanner with scan := some p } ∧ (∀ st : Station, t.acc.accts[st].ring = s.acc.accts[st].ring) ∧
      (v = s.clock ∨ (s.run.state ≠ .running ∧ s.walker.state = .unstarted) →
        t = { s.afterScanOnly t p with clock := v }) ∧
      (s.walker.state = .faulted → t.walker = s.walker ∧ t.gain = s.gain ∧ t.acc = s.acc ∧ t.links = s.links) ∧
      (v ≠ s.clock → s.walker.state = .waiting ∨ s.walker.state = .paused ∨ s.walker.state = .final →
        s.PassTaken t (s.withClock v).passFromHead) := by
  have hplaced : placed 4 (clockResults s.clock v u.walker.state) := by simp [placed, clockResults]
  generalize hres : clockResults s.clock v u.walker.state = results at hplaced
  obtain ⟨hholds, -⟩ := close_holds h.wf i copy (state := 3) (code := 0) hplaced (by decide) (by decide)
  obtain ⟨trun, tclock, tregs, tscan, -, -, tpoll, tbook, tacc, tgain, twalk, tlinks⟩ := close_parts i copy 3 0 results u
  have tforce := close_sameForce i copy 3 0 results u
  have tonly := close_only i copy 3 0 results u
  dsimp only
  generalize u.close i copy 3 0 results = t at *
  rw [twalk, hres, tgain, tlinks, tacc]
  refine ⟨tclock.trans h.clock, hholds, trun.trans h.run, tregs.trans h.regs, tpoll.trans h.poller, tbook.trans h.book,
    tscan.trans h.scanner, congrFun (congrArg Prod.snd h.rings), fun ho => ?_, h.faulted, fun hv hwalk =>
      tforce.passTaken (h.taken hv hwalk)⟩
  rw [h.only ho] at tonly
  exact tonly

/-- Settles O35. -/
theorem setClockMovesTheClock : Obligations.SetClockMovesTheClock := by
  unfold Obligations.SetClockMovesTheClock
  intro s i p logFirst hw ht
  dsimp only
  have hvalue : field (s.copyOf i) 0x04 4 = s.param i 0x04 4 := field_copy s i _ _ (by omega)
  rw [← hvalue]
  have hrefused := fun h => takeKind_refuses hw ht { logFirst := logFirst, unstated := 0 }
    (serveSetClock_refused logFirst (copy := s.copyOf i) h (s.atSlot p))
  have hdone := fun h => takeKind_done ht { logFirst := logFirst, unstated := 0 }
    (serveSetClock_done logFirst (copy := s.copyOf i) h (s.atSlot p))
  have htaken := clockSet_clockTaken logFirst hw p (field (s.copyOf i) 0x04 4)
  refine ⟨s.takeKind { logFirst := logFirst, unstated := 0 } (SlotKind.is .setClock) i, rfl, hrefused, fun h => ?_⟩
  rw [hdone h]
  exact htaken.closed i _

end Sys2Proof.Machine

/-! SUPPORT. The records of a book area and their checks (Table 9-4, R139), and O59. -/

namespace Sys2Proof.Machine

-- Proofs one at a time: those that wait side by side each hold a thread's stack.
set_option Elab.async false

variable {m : Memory} {a base n left : Nat}

/-! ### One record -/

/-- The share of a stage that the record at `a` holds (Table 9-4). -/
def recordShare (m : Memory) (a : Nat) (k : Stage) : Nat := m.readLe (a + 8 + 2 * k.val) 2

/-- R139: the record at `a` reads with a parity error. -/
def recordParity (m : Memory) (a : Nat) : Prop := ∃ b, a ≤ b ∧ b < a + 16 ∧ m.badAt b = true

/-- R139: a share of the record at `a` is above 256. -/
def recordRange (m : Memory) (a : Nat) : Prop := ∃ k : Stage, 256 < recordShare m a k

/-- R139: the shares of the record at `a` sum to more than 256. -/
def recordSum (m : Memory) (a : Nat) : Prop :=
  256 < recordShare m a 0 + recordShare m a 1 + recordShare m a 2 + recordShare m a 3

/-- R139: the record at `a` passes its three checks. -/
def recordPasses (m : Memory) (a : Nat) : Prop := ¬ recordParity m a ∧ ¬ recordRange m a ∧ ¬ recordSum m a

theorem readBookRecord_share (m : Memory) (a : Nat) (k : Stage) : (readBookRecord m a).shares[k] = recordShare m a k :=
  ofFn_get _ k

theorem readBookRecord_shareSum (m : Memory) (a : Nat) :
    (readBookRecord m a).shareSum = recordShare m a 0 + recordShare m a 1 + recordShare m a 2 + recordShare m a 3 := by
  unfold BookRecord.shareSum allStages
  simp only [readBookRecord_share, List.map_cons, List.map_nil, List.sum_cons, List.sum_nil]
  omega

theorem recordRange_iff (m : Memory) (a : Nat) :
    (allStages.any fun k => decide (256 < (readBookRecord m a).shares[k])) = true ↔ recordRange m a := by
  simp only [readBookRecord_share, List.any_eq_true, decide_eq_true_eq]
  exact ⟨fun ⟨k, _, hk⟩ => ⟨k, hk⟩, fun ⟨k, hk⟩ => ⟨k, by fin_cases k <;> decide, hk⟩⟩

theorem recordSum_iff (m : Memory) (a : Nat) : 256 < (readBookRecord m a).shareSum ↔ recordSum m a := by
  rw [readBookRecord_shareSum]
  rfl

theorem checkRecord_parity (h : recordParity m a) : checkRecord m a = .error .parity := if_pos ((parityError_iff m a 16).2 h)

theorem checkRecord_range (hp : ¬ recordParity m a) (h : recordRange m a) : checkRecord m a = .error .shareRange :=
  (if_neg fun e => hp ((parityError_iff m a 16).1 e)).trans (if_pos ((recordRange_iff m a).2 h))

theorem checkRecord_sum (hp : ¬ recordParity m a) (hr : ¬ recordRange m a) (h : recordSum m a) :
    checkRecord m a = .error .shareSum :=
  (if_neg fun e => hp ((parityError_iff m a 16).1 e)).trans <|
    (if_neg fun e => hr ((recordRange_iff m a).1 e)).trans (if_pos ((recordSum_iff m a).2 h))

theorem checkRecord_passes (h : recordPasses m a) : checkRecord m a = .ok (readBookRecord m a) := by
  obtain ⟨hp, hr, hs⟩ := h
  exact (if_neg fun e => hp ((parityError_iff m a 16).1 e)).trans <|
    (if_neg fun e => hr ((recordRange_iff m a).1 e)).trans (if_neg fun e => hs ((recordSum_iff m a).1 e))

theorem checkRecord_fails (h : ¬ recordPasses m a) : ∃ c, checkRecord m a = .error c := by
  by_cases hp : recordParity m a
  · exact ⟨_, checkRecord_parity hp⟩
  by_cases hr : recordRange m a
  · exact ⟨_, checkRecord_range hp hr⟩
  · exact ⟨_, checkRecord_sum hp hr (not_not.1 fun hs => h ⟨hp, hr, hs⟩)⟩

/-! ### The records of an area, in order -/

/-- The fault of record `n` of an area. -/
def bookFaultAt (n : Nat) (c : BookCause) : BookFault := { set := n / 16, station := n % 16, cause := c }

theorem checkRecords_error {c : BookCause} (h : checkRecord m (base + 24 * n) = .error c) (left : Nat) :
    checkRecords m base n (left + 1) = .error (bookFaultAt n c) := by
  rw [checkRecords, h]
  rfl

theorem checkRecords_ok (h : recordPasses m (base + 24 * n)) (left : Nat) :
    checkRecords m base n (left + 1) = (checkRecords m base (n + 1) left).map (readBookRecord m (base + 24 * n) :: ·) := by
  rw [checkRecords, checkRecord_passes h]
  cases checkRecords m base (n + 1) left <;> rfl

/-- Records that all pass are read, one after the other. -/
theorem checkRecords_pass (h : ∀ j, n ≤ j → j < n + left → recordPasses m (base + 24 * j)) :
    checkRecords m base n left = .ok ((List.range' n left).map fun j => readBookRecord m (base + 24 * j)) := by
  induction left generalizing n with
  | zero => rfl
  | succ left ih =>
    rw [checkRecords_ok (h n (le_refl n) (by omega)), ih fun j h1 h2 => h j (by omega) (by omega)]
    rfl

/-- The first record that fails is told, whatever the records after it hold. -/
theorem checkRecords_first {j : Nat} {c : BookCause} (hn : n ≤ j) (hj : j < n + left)
    (h : ∀ i, n ≤ i → i < j → recordPasses m (base + 24 * i)) (hc : checkRecord m (base + 24 * j) = .error c) :
    checkRecords m base n left = .error (bookFaultAt j c) := by
  induction left generalizing n with
  | zero => omega
  | succ left ih =>
    rcases Nat.eq_or_lt_of_le hn with rfl | hlt
    · exact checkRecords_error hc left
    · rw [checkRecords_ok (h n (le_refl n) hlt), ih hlt (by omega) fun i h1 h2 => h i (by omega) h2]
      rfl

/-! ### A whole area (R138, R139) -/

/-- Table 9-4: the place of record `n` of a book area. -/
def recordAt (area : Fin 2) (n : Nat) : Nat := Config.bookBase area.val + 24 * n

theorem recordAt_eq (area : Fin 2) (n : Nat) : recordAt area n = (if area = 0 then 0x0400 else 0x1000) + 24 * n := by
  unfold recordAt Config.bookBase
  simp only [Fin.val_eq_zero_iff]

/-- The records of an area as they stand in shared RAM. -/
def areaRecords (m : Memory) (area : Fin 2) : List BookRecord := (List.range 128).map fun n => readBookRecord m (recordAt area n)

variable {area : Fin 2} {b : List BookRecord}

theorem validateArea_pass (h : ∀ n, n < 128 → recordPasses m (recordAt area n)) : validateArea m area = .ok (areaRecords m area) := by
  rw [areaRecords, List.range_eq_range']
  exact checkRecords_pass fun n _ hn => h n (by omega)

theorem validateArea_first {c : BookCause} (hn : n < 128) (h : ∀ j, j < n → recordPasses m (recordAt area j))
    (hc : checkRecord m (recordAt area n) = .error c) : validateArea m area = .error (bookFaultAt n c) :=
  checkRecords_first (Nat.zero_le n) (by omega) (fun j _ hj => h j hj) hc

/-- R139: an area that is read has no record that fails: the first of those would have been told. -/
theorem validateArea_ok_iff :
    validateArea m area = .ok b ↔ (∀ n, n < 128 → recordPasses m (recordAt area n)) ∧ b = areaRecords m area := by
  refine ⟨fun h => ?_, fun ⟨hp, hb⟩ => hb ▸ validateArea_pass hp⟩
  have hpass : ∀ n, n < 128 → recordPasses m (recordAt area n) := by
    intro n
    induction n using Nat.strongRecOn with
    | ind n ih =>
      intro hn
      by_contra hfail
      obtain ⟨c, hc⟩ := checkRecord_fails hfail
      rw [validateArea_first hn (fun j hj => ih j hj (by omega)) hc] at h
      cases h
  rw [validateArea_pass hpass] at h
  exact ⟨hpass, by cases h; rfl⟩

/-- Settles O59. -/
theorem bookAreaValidated : Obligations.BookAreaValidated := by
  unfold Obligations.BookAreaValidated
  intro m area
  dsimp only
  simp only [← recordAt_eq]
  refine ⟨fun b => validateArea_ok_iff, fun n hn h => ⟨fun hp => ?_, fun hp hr => ?_, fun hp hr hs => ?_⟩⟩
  · exact validateArea_first hn h (checkRecord_parity hp)
  · exact validateArea_first hn h (checkRecord_range hp hr)
  · exact validateArea_first hn h (checkRecord_sum hp hr hs)

/-- R139, R140: an area that is read is a valid book. -/
theorem validateArea_bookValid (h : validateArea m area = .ok b) : bookValid b := by
  obtain ⟨hpass, rfl⟩ := validateArea_ok_iff.1 h
  refine ⟨by simp [areaRecords], fun r hr => ?_⟩
  obtain ⟨n, hn, rfl⟩ := List.mem_map.1 hr
  obtain ⟨-, -, hs⟩ := hpass n (List.mem_range.1 hn)
  exact Nat.not_lt.1 fun e => hs ((recordSum_iff m _).1 e)

end Sys2Proof.Machine

/-! SUPPORT. SET_AMBIENT (R147), and O43. -/

namespace Sys2Proof.Machine

-- Proofs one at a time: those that wait side by side each hold a thread's stack.
set_option Elab.async false

variable {s : State} {st : Station} {copy : List Byte}

/-- R147: an ambient measurement in flight that takes in the station. -/
def State.measures (st : Station) (s : State) : Prop :=
  s.acc.ambient.phase ≠ .none ∧ s.acc.ambient.mask.getLsbD st.val = true

/-- R147: the entries of a station replaced. -/
def State.setEntries (st : Station) (a c : Nat) (s : State) : State :=
  { s with book := { s.book with ambA := upd s.book.ambA st a, ambC := upd s.book.ambC st c } }

theorem measures_iff (s : State) (st : Station) :
    (s.acc.ambient.inFlight && s.acc.ambient.mask.getLsbD st.val) = true ↔ s.measures st := by
  rw [Bool.and_eq_true, inFlight_iff]
  rfl

theorem stationOf_val (st : Station) : stationOf st.val = some st := dif_pos st.isLt

theorem serveSetAmbient_refused (h : 15 < field copy 0x04 1) (s : State) :
    serveSetAmbient copy s = (s, .refused .badField []) := by
  have hnone : stationOf (field copy 0x04 1) = none := dif_neg (by omega)
  unfold serveSetAmbient
  rw [hnone]

/-- R147: a SET_AMBIENT of a station, refused while a measurement in flight takes it in. -/
theorem serveSetAmbient_station (h : field copy 0x04 1 = st.val) (s : State) :
    serveSetAmbient copy s =
      if s.acc.ambient.inFlight && s.acc.ambient.mask.getLsbD st.val then (s, .refused .busy [])
      else
        (s.setEntries st (field copy 0x08 4) (field copy 0x0C 4),
          .done [⟨0x20, 1, st.val⟩, ⟨0x24, 4, s.book.ambA[st]⟩, ⟨0x28, 4, s.book.ambC[st]⟩]) := by
  unfold serveSetAmbient
  rw [h, stationOf_val]
  rfl

theorem serveSetAmbient_busy (h : field copy 0x04 1 = st.val) (hm : s.measures st) :
    serveSetAmbient copy s = (s, .refused .busy []) :=
  (serveSetAmbient_station h s).trans (if_pos ((measures_iff s st).2 hm))

theorem serveSetAmbient_done (h : field copy 0x04 1 = st.val) (hm : ¬ s.measures st) :
    serveSetAmbient copy s =
      (s.setEntries st (field copy 0x08 4) (field copy 0x0C 4),
        .done [⟨0x20, 1, st.val⟩, ⟨0x24, 4, s.book.ambA[st]⟩, ⟨0x28, 4, s.book.ambC[st]⟩]) :=
  (serveSetAmbient_station h s).trans (if_neg fun e => hm ((measures_iff s st).1 e))

/-- Settles O43. -/
theorem setAmbientReplacesTheEntries : Obligations.SetAmbientReplacesTheEntries := by
  unfold Obligations.SetAmbientReplacesTheEntries
  intro s i p hw ht
  dsimp only
  have hstation : field (s.copyOf i) 0x04 1 = s.param i 0x04 1 := field_copy s i _ _ (by omega)
  have hambA : field (s.copyOf i) 0x08 4 = s.param i 0x08 4 := field_copy s i _ _ (by omega)
  have hambC : field (s.copyOf i) 0x0C 4 = s.param i 0x0C 4 := field_copy s i _ _ (by omega)
  rw [← hstation, ← hambA, ← hambC]
  refine ⟨fun h => ?_, fun st hst => ?_⟩
  · obtain ⟨hans, honly⟩ := takeKind_refuses hw ht Open.none (serveSetAmbient_refused h (s.atSlot p))
    exact ⟨_, ⟨rfl, hans⟩, honly⟩
  · split
    · next hm =>
      obtain ⟨hans, honly⟩ := takeKind_refuses hw ht Open.none (serveSetAmbient_busy (s := s.atSlot p) hst hm)
      exact ⟨_, ⟨rfl, hans⟩, honly⟩
    · next hm =>
      obtain ⟨hans, honly⟩ :=
        takeKind_completes hw ht Open.none (serveSetAmbient_done (s := s.atSlot p) hst hm) (by simp [placed]) rfl rfl rfl
      exact ⟨_, ⟨rfl, hans⟩, honly⟩

end Sys2Proof.Machine

/-! SUPPORT. The working book through every command: a book read whole from an area replaces it, a reset forgets it, and all else
keeps it (R140, R143, R164, R166); and O7. -/

namespace Sys2Proof.Machine

-- Proofs one at a time: those that wait side by side each hold a thread's stack.
set_option Elab.async false

variable {s t : State}

/-! ### What keeps the working book -/

@[simp] theorem closeByLastOutcome_working (s : State) : s.closeByLastOutcome.book.working = s.book.working := by
  unfold State.closeByLastOutcome
  simp

@[simp] theorem closeByDeadline_working (s : State) : s.closeByDeadline.book.working = s.book.working := by
  unfold State.closeByDeadline
  dsimp only
  split <;> simp

@[simp] theorem proceed_working (s : State) : s.proceed.book.working = s.book.working := (proceed_states s).2.2

@[simp] theorem endExchange_working (e : Exchange) (o : SecondOutcome) (s : State) :
    (s.endExchange e o).book.working = s.book.working := by
  unfold State.endExchange
  simp

@[simp] theorem failAttempt_working (e : Exchange) (s : State) : (s.failAttempt e).book.working = s.book.working := by
  unfold State.failAttempt
  dsimp only
  split <;> simp

@[simp] theorem openRound_working (s : State) : s.openRound.book.working = s.book.working := by
  unfold State.openRound
  simp

@[simp] theorem pollerSecond_working (s : State) : s.pollerSecond.book.working = s.book.working := by
  unfold State.pollerSecond
  dsimp only
  split <;> simp

@[simp] theorem frameAtExchange_working (l : Loop) (e : Exchange) (r : ReplyKind) (s : State) :
    (s.frameAtExchange l e r).book.working = s.book.working := by
  unfold State.frameAtExchange
  repeat' split
  all_goals simp

@[simp] theorem loopFrame_working (l : Loop) (bytes : List Byte) (s : State) :
    (s.loopFrame l bytes).book.working = s.book.working := by
  unfold State.loopFrame
  repeat' split
  all_goals simp

@[simp] theorem replyExpiry_working (l : Loop) (receiving : Bool) (s : State) :
    (s.replyExpiry l receiving).book.working = s.book.working := by
  unfold State.replyExpiry
  repeat' split
  all_goals simp

@[simp] theorem testExpiry_working (s : State) : s.testExpiry.book.working = s.book.working := by
  unfold State.testExpiry
  repeat' split
  all_goals simp

@[simp] theorem roundDeadline_working (s : State) : s.roundDeadline.book.working = s.book.working := by
  unfold State.roundDeadline
  split <;> simp

@[simp] theorem changeStation_working (st : Station) (before after : StationEntry) (s : State) :
    (s.changeStation st before after).book.working = s.book.working := by
  unfold State.changeStation
  dsimp only
  repeat' split
  · rw [(disableInRound_states _ st).2.2]
    simp
  all_goals simp

@[simp] theorem secondWork_working (wrapped : Bool) (w : SecondWork) (s : State) :
    (s.secondWork wrapped w).book.working = s.book.working := by
  cases w <;> simp only [State.secondWork]
  case linkSecond | occupancy => simp
  all_goals
    split <;> simp

@[simp] theorem secondEvent_working (order : List SecondWork) (s : State) :
    (s.secondEvent order).book.working = s.book.working := by
  unfold State.secondEvent
  split
  · rfl
  · exact foldl_keeps (fun t : State => t.book.working) _ (fun t w => secondWork_working _ w t) _ _

/-- R143: no request but a SWAP_BOOK replaces the working book. -/
theorem serve_working {k : RequestKind} (hk : k ≠ .swapBook) (o : Open) (i : Slot) (copy : List Byte) (s : State) :
    (serve o i copy s k).1.book.working = s.book.working := by
  cases k <;> simp only [serve]
  case swapBook => exact absurd rfl hk
  case setClock =>
    unfold serveSetClock
    dsimp only
    repeat' split
    all_goals simp
  case restartSchedule => unfold serveRestartSchedule; split <;> simp
  case resumeSchedule =>
    unfold serveResumeSchedule
    repeat' split
    all_goals simp
  case setWatch =>
    unfold serveSetWatch
    dsimp only
    repeat' split
    all_goals rfl
  case setFlags =>
    unfold serveSetFlags
    dsimp only
    split <;> rfl
  case holdStage => unfold serveHoldStage; split <;> simp
  case releaseStage => unfold serveReleaseStage; split <;> simp
  case measureAmbient =>
    unfold serveMeasureAmbient
    dsimp only
    repeat' split
    all_goals simp
  case abortAmbient => unfold serveAbortAmbient; split <;> simp
  case setAmbient =>
    unfold serveSetAmbient
    repeat' split
    all_goals rfl
  case loopTest =>
    unfold serveLoopTest
    repeat' split
    all_goals simp
  case setStation =>
    unfold serveSetStation
    dsimp only
    repeat' split
    all_goals simp
  case readWindow => unfold serveReadWindow; split <;> rfl

theorem markInFlight_book (i : Slot) (copy : List Byte) (r : Reply) (s : State) : (s.markInFlight i copy r).book = s.book := by
  unfold State.markInFlight
  split <;> rfl

@[simp] theorem stopShow_book (s : State) : s.stopShow.book = s.book := by
  obtain ⟨r, n, h⟩ := stopShow_of (s := s) rfl
  have hb : s.stopped.book = s.toIdle.stoppedWork.book := (stopped_keeps s).2.2.2.2.2.2.1
  rw [h]
  generalize s.stopped = v at hb ⊢
  exact hb.trans (stoppedWork_keeps _).2.2.2.2

@[simp] theorem writeRun_book (v : Bool) (s : State) : (s.writeRun v).book = s.book := by
  unfold State.writeRun State.beginStart State.failStart
  repeat' split
  all_goals simp

/-! ### The book valid through every command -/

/-- The validity of the book reads the working book alone. -/
theorem valid_congr (h : s.book.Valid) (hb : t.book.working = s.book.working := by simp) : t.book.Valid := by
  unfold BookStore.Valid
  rw [hb]
  exact h

/-- A working book that is an area read whole. -/
theorem valid_of_read {m : Memory} {area : Fin 2} {b : List BookRecord} (hv : validateArea m area = .ok b)
    (ht : t.book.working = some b) : t.book.Valid := by
  intro w hw
  rw [ht] at hw
  cases hw
  exact validateArea_bookValid hv

theorem valid_of_none (ht : t.book.working = none) : t.book.Valid := by
  intro w hw
  rw [ht] at hw
  cases hw

/-- R143: a SWAP_BOOK takes an area that has been read whole, or leaves the book. -/
theorem serveSwapBook_bookValid (h : s.book.Valid) (copy : List Byte) : (serveSwapBook copy s).1.book.Valid := by
  by_cases hr : s.run.state = .running
  · cases hv : validateArea s.ram (otherArea s.book.area) with
    | ok b =>
      rw [serveSwapBook_valid hr hv]
      exact valid_of_read hv (by unfold State.exchangeBook; simp)
    | error f =>
      rw [serveSwapBook_invalid hr hv]
      exact h
  · have hidle : serveSwapBook copy s = (s, .refused .notRunning []) := if_pos hr
    rw [hidle]
    exact h

theorem serve_bookValid (h : s.book.Valid) (o : Open) (i : Slot) (copy : List Byte) (k : RequestKind) :
    (serve o i copy s k).1.book.Valid := by
  by_cases hk : k = .swapBook
  · subst hk
    exact serveSwapBook_bookValid h copy
  · exact valid_congr h (serve_working hk o i copy s)

theorem takeSlot_bookValid (h : s.book.Valid) (o : Open) (i : Slot) (p : Scan) : (s.takeSlot o i p).book.Valid := by
  have hwritten : ∀ {v : State} (copy : List Byte) (r : Reply), v.book.Valid →
      ((v.answer i copy r).markInFlight i copy r).book.Valid := fun copy r hv =>
    valid_congr hv (by rw [markInFlight_book]; simp)
  have hread : (s.atSlot p).book.Valid := h
  unfold State.takeSlot
  dsimp only
  cases s.ram.slotKind i with
  | kind k => exact hwritten _ _ (serve_bookValid hread o i _ k)
  | bad code => exact hwritten _ _ hread

theorem takeKind_bookValid (h : s.book.Valid) (o : Open) (want : SlotKind → Bool) (i : Slot) :
    (s.takeKind o want i).book.Valid := by
  unfold State.takeKind
  repeat' split
  · exact takeSlot_bookValid h o i _
  · exact h
  · exact h

theorem runScan_bookValid (h : s.book.Valid) (o : Open) (n : Nat) : (s.runScan o n).book.Valid := by
  induction n generalizing s with
  | zero => exact h
  | succ n ih =>
    unfold State.runScan
    repeat' split
    · exact ih (takeSlot_bookValid h o _ _)
    · exact h
    · exact h

theorem scanToEnd_bookValid (h : s.book.Valid) (o : Open) : (s.scanToEnd o).book.Valid := by
  unfold State.scanToEnd
  repeat' split
  · exact runScan_bookValid h o _
  · exact h
  · exact h

/-- R141: the area that checks 5 to 7 have read. -/
theorem checkArea_ok {m : Memory} {named : Nat} {area : Fin 2} {b : List BookRecord} (h : checkArea m named = .ok (area, b)) :
    validateArea m area = .ok b := by
  unfold checkArea at h
  repeat' split at h
  all_goals cases h
  assumption

/-- R162: a start that passes its checks has read its book area whole. -/
theorem startCheck_book {m : Memory} {d : StartData} (h : startCheck m = .ok d) : validateArea m d.area = .ok d.book := by
  unfold startCheck at h
  dsimp only at h
  repeat' split at h
  all_goals cases h
  next harea _ _ _ _ => exact checkArea_ok harea

theorem completeStart_bookValid (h : s.book.Valid) : s.completeStart.book.Valid := by
  unfold State.completeStart
  repeat' split
  · next hs _ d hd => exact valid_of_read (startCheck_book hd) (succeedStart_after hs hd).2.2.2.2.2.1
  · exact valid_congr h (by unfold State.failStart; simp)
  · exact h

/-- R166: a software reset forgets the working book. -/
theorem softReset_bookValid (s : State) : s.softReset.book.Valid := valid_of_none (by rw [softReset_eq]; rfl)

theorem writeControl_bookValid (h : s.book.Valid) (v : Nat) : (s.writeControl v).book.Valid := by
  unfold State.writeControl
  split
  · exact softReset_bookValid s
  · refine valid_congr h ?_
    simp only [writeRun_book]
    unfold State.writeIntEnable State.writeMute
    repeat' split
    all_goals simp

theorem writeRegister_bookValid (h : s.book.Valid) (reg : Reg) (high : Half) : (s.writeRegister reg high).book.Valid := by
  unfold State.writeRegister
  dsimp only
  split
  · exact h
  · cases reg <;> dsimp only
    case control => exact writeControl_bookValid h _
    case status => unfold State.writeStatus; split <;> exact h
    case attention => unfold State.writeAttention; split <;> exact h
    case noticeTail =>
      unfold State.writeNoticeTail
      split
      · exact valid_congr h
      · exact h
    all_goals exact h

theorem exec_bookValid (h : s.book.Valid) (c : Instr) (ht : exec c s = .next t) : t.book.Valid := by
  cases c <;> cases ht
  case hardwareReset => exact valid_of_none rfl
  case resetRelease => unfold State.releaseReset; split <;> exact h
  case ramClearComplete =>
    refine valid_congr h ?_
    unfold State.endClearing
    split <;> simp
  case startChecksComplete => exact completeStart_bookValid h
  case start | stop | softReset | immediateMute | intEnable | noticeOverrunClear | attention | noticeTailWrite
      | registerWriteIgnored => exact writeRegister_bookValid h _ _
  case registerLowHalfWrite => unfold State.writeLowHalf; split <;> exact h
  case hostRamAccess word access =>
    unfold State.hostAccess
    cases access with
    | read => exact h
    | write data low high => dsimp only; split <;> exact h
  case requestScan => exact scanToEnd_bookValid h _
  case setClock | restartSchedule | resumeSchedule | setWatch | swapBook | setFlags | holdStage | releaseStage
      | measureAmbient | abortAmbient | setAmbient | loopTest | setStation | readWindow | requestBadKind =>
    exact takeKind_bookValid h _ _ _
  case loopFrameSilence => exact valid_congr h (by simp [State.loopSilence])
  case registerLowHalfRead => exact h
  case secondEvent | pollSent | replyTimeout | loopFrameReceived | roundDeadline | ceilingSent | ackTimeout | linkFrameReceived
      | linkFrameSilence | testFrameTimeout | ramContentDisturbed => exact valid_congr h

/-- Settles O7: a start and a SWAP_BOOK take an area that has passed R139, the resets leave no working book, and no other command
replaces it. -/
theorem stepKeepsBookValid : Obligations.StepKeepsBookValid := by
  unfold Obligations.StepKeepsBookValid
  intro s t h ht
  unfold step at ht
  split at ht
  · cases ht
    exact h
  · next c rest _ => exact exec_bookValid (s := { s with pending := rest }) h c ht

end Sys2Proof.Machine

/-! SUPPORT. A write of CONTROL as its four bits (R160), the writes that are ignored (R159, R192) and a write of ATTENTION (R169); O25,
O27 and O29. -/

namespace Sys2Proof.Machine

-- Proofs one at a time: those that wait side by side each hold a thread's stack.
set_option Elab.async false

variable {s : State} {high : Half} {run mute int : Bool}

/-! ### CONTROL (R160) -/

/-- R160: outside RESET_BUSY a CONTROL write that leaves SOFT_RESET 0 writes the mute, then the interrupt enable, then RUN. -/
theorem writeRegister_control (hr : s.run.state ≠ .resetBusy) (hw : s.WritesControl high run mute int) :
    s.writeRegister .control high = ((s.writeMute mute).writeIntEnable int).writeRun run := by
  obtain ⟨hsoft, hrun, hmute, hint⟩ := hw
  have hc : s.writeControl (s.written high) = ((s.writeMute mute).writeIntEnable int).writeRun run := by
    unfold State.writeControl
    rw [hsoft, hrun, hmute, hint]
    rfl
  exact (if_neg hr).trans hc

@[simp] theorem writeMute_same (s : State) : s.writeMute s.run.muteBit = s := if_pos rfl

@[simp] theorem writeIntEnable_same (s : State) : s.writeIntEnable s.run.intBit = s := if_pos rfl

@[simp] theorem writeRun_same (s : State) : s.writeRun s.run.runBit = s := if_pos rfl

/-- R160: a CONTROL write that changes no bit but RUN. -/
theorem writeRegister_run (hr : s.run.state ≠ .resetBusy) (hw : s.WritesControl high run s.run.muteBit s.run.intBit) :
    s.writeRegister .control high = s.writeRun run := by
  rw [writeRegister_control hr hw, writeMute_same, writeIntEnable_same]

/-- The state with INT_ENABLE as given. -/
def State.withIntEnable (b : Bool) (s : State) : State := { s with run := { s.run with intBit := b } }

theorem writeIntEnable_changed {b : Bool} (h : b ≠ s.run.intBit) : s.writeIntEnable b = (s.withIntEnable b).driveIrq := if_neg h

/-- Settles O25. -/
theorem intEnableDrivesTheLine : Obligations.IntEnableDrivesTheLine := by
  unfold Obligations.IntEnableDrivesTheLine
  intro s high v hr hv hw
  have hrun : ((s.withIntEnable v).driveIrq).writeRun s.run.runBit = (s.withIntEnable v).driveIrq :=
    writeRun_same (s.withIntEnable v).driveIrq
  have hreg : s.writeRegister .control high = (s.withIntEnable v).driveIrq := by
    rw [writeRegister_control hr hw, writeMute_same, writeIntEnable_changed hv, hrun]
  have hline : irqLevel s.notices.head s.notices.tail v = (v && decide (s.notices.head ≠ s.notices.tail)) := Bool.and_comm _ _
  rw [← hline]
  exact congrArg Host.Outcome.next hreg

/-! ### Writes that are ignored (R159, R192) -/

/-- R159: in RESET_BUSY every register write is ignored. -/
theorem writeRegister_resetBusy (h : s.run.state = .resetBusy) (reg : Reg) (high : Half) : s.writeRegister reg high = s := if_pos h

/-- R192: the registers that ignore writes. -/
theorem writeRegister_readOnly {reg : Reg} (h : reg = .ident ∨ reg = .noticeHead ∨ reg = .showClock ∨ reg = .reserved) (s : State)
    (high : Half) : s.writeRegister reg high = s := by
  rcases h with rfl | rfl | rfl | rfl <;> exact ite_self s

/-- Settles O27. -/
theorem writesThatAreIgnored : Obligations.WritesThatAreIgnored := by
  unfold Obligations.WritesThatAreIgnored
  intro s reg high value
  refine ⟨fun h => congrArg Host.Outcome.next (writeRegister_readOnly h s high), fun hr => ?_⟩
  have hbusy : ∀ r : Reg, Host.Outcome.next (s.writeRegister r high) = (.next s : Host.Outcome State Fault Refusal) :=
    fun r => congrArg Host.Outcome.next (writeRegister_resetBusy hr r high)
  have hlow : s.writeLowHalf reg value = s := if_pos (.inl hr)
  exact ⟨hbusy reg, congrArg Host.Outcome.next hlow, hbusy .control, hbusy .control, hbusy .control, hbusy .control, hbusy .control,
    hbusy .status, hbusy .attention, hbusy .noticeTail⟩

/-! ### ATTENTION (R161, R169) -/

/-- R169: the scan that begins at the pointer. -/
def Scanner.freshScan (c : Scanner) : Scan := { next := c.pointer, left := 32, last := none }

theorem beginScan_eq (c : Scanner) :
    c.beginScan = if c.scan.isSome = true then { c with again := true } else { c with scan := some c.freshScan } := rfl

/-- R161, R169: a write of ATTENTION outside RESET_BUSY, by the run state. -/
theorem writeAttention_scanner (hr : s.run.state ≠ .resetBusy) :
    s.writeAttention =
      { s with
        scanner :=
          if s.run.state = .starting ∨ s.scanner.scan.isSome = true then { s.scanner with again := true }
          else { s.scanner with scan := some s.scanner.freshScan } } := by
  unfold State.writeAttention
  cases hs : s.run.state with
  | resetBusy => exact absurd hs hr
  | starting => rw [if_pos (.inl rfl)]
  | idle | running =>
    simp only [reduceCtorEq, false_or]
    rw [beginScan_eq]

/-- Settles O29. -/
theorem attentionAsksForAScan : Obligations.AttentionAsksForAScan := by
  unfold Obligations.AttentionAsksForAScan
  intro s high hr
  have hreg : s.writeRegister .attention high = s.writeAttention := if_neg hr
  exact congrArg Host.Outcome.next (hreg.trans (writeAttention_scanner hr))

end Sys2Proof.Machine

/-! SUPPORT. The invariants right after the RESET input (R159), from what the earlier proofs say of a step that asserts it; O13. -/

namespace Sys2Proof.Machine

-- Proofs one at a time: those that wait side by side each hold a thread's stack.
set_option Elab.async false

/-- R159: asserted on the part that it leaves, the RESET input changes nothing. -/
theorem assertReset_reset : State.reset.assertReset = State.reset := rfl

/-- Settles O13: what each invariant's own proof shows of the RESET input, at the state that the input leaves. -/
theorem resetIsSound : Obligations.ResetIsSound := by
  unfold Obligations.ResetIsSound
  rw [← assertReset_reset]
  refine ⟨⟨rfl, rfl⟩, assertReset_bounded _, (exact_iff _).2 State.Meets.assertReset, fun _ hw => (nomatch hw),
    fun hr => (nomatch hr), fun _ => assertReset_over _, State.WalkerSound.assertReset, (termsSound_iff _).2 (assertReset_sound _),
    (State.CeilingsHold.assertReset _).links, (numbersInRange_iff _).2 State.Meets.assertReset⟩

end Sys2Proof.Machine

/-! SUPPORT. Host accesses to shared RAM (R190); O31. -/

namespace Sys2Proof.Machine

-- Proofs one at a time: those that wait side by side each hold a thread's stack.
set_option Elab.async false

variable {s : State} {m : Memory}

/-! ### Writes (R190) -/

/-- R190: a byte after a host write. -/
theorem byte_hostWrite (h : m.wf = true) (a : Nat) (data : Half) (low high : Bool) (x : Nat) :
    (m.hostWrite a data low high).byte x =
      if high = true ∧ x = a + 1 then (data >>> 8).setWidth 8
      else if low = true ∧ x = a then data.setWidth 8
      else m.byte x := by
  unfold Memory.hostWrite
  cases low <;> cases high <;> simp [byte_write, wf_write, h]

/-- R190: the parity of a byte after a host write. -/
theorem badAt_hostWrite (m : Memory) (a : Nat) (data : Half) (low high : Bool) (x : Nat) :
    (m.hostWrite a data low high).badAt x = (m.badAt x && !(low && decide (x = a)) && !(high && decide (x = a + 1))) := by
  unfold Memory.hostWrite
  cases low <;> cases high <;> simp [badAt_write]

/-- R190: the enabled halves of a host write, and what it leaves alone. -/
theorem hostWrite_stores (h : m.wf = true) (a : Nat) (data : Half) (low high : Bool) :
    let k := m.hostWrite a data low high
    (low = true → (k.byte a).toNat = data.toNat % 256 ∧ k.badAt a = false) ∧
      (high = true → (k.byte (a + 1)).toNat = data.toNat / 256 ∧ k.badAt (a + 1) = false) ∧
      keepsOutside (fun x => (low = true ∧ x = a) ∨ (high = true ∧ x = a + 1)) m k := by
  have hlow : (data.setWidth 8).toNat = data.toNat % 256 := BitVec.toNat_setWidth _ _
  have hhigh : ((data >>> 8).setWidth 8).toNat = data.toNat / 256 := by
    have := data.isLt
    rw [BitVec.toNat_setWidth, BitVec.toNat_ushiftRight, Nat.shiftRight_eq_div_pow]
    omega
  refine ⟨fun hl => ?_, fun hh => ?_, fun x hx => ?_⟩
  · rw [byte_hostWrite h, badAt_hostWrite, if_neg (by omega), if_pos ⟨hl, rfl⟩, hl]
    exact ⟨hlow, by simp⟩
  · rw [byte_hostWrite h, badAt_hostWrite, if_pos ⟨hh, rfl⟩, hh]
    exact ⟨hhigh, by simp⟩
  · rw [byte_hostWrite h, badAt_hostWrite, if_neg (fun e => hx (.inr e)), if_neg (fun e => hx (.inl e))]
    refine ⟨rfl, ?_⟩
    have h1 : (low && decide (x = a)) = false := by simpa using fun e e' => hx (.inl ⟨e, e'⟩)
    have h2 : (high && decide (x = a + 1)) = false := by simpa using fun e e' => hx (.inr ⟨e, e'⟩)
    rw [h1, h2]
    simp

/-! ### Reads (R190) -/

/-- A number of two bytes. -/
theorem readLe_two (m : Memory) (a : Nat) : m.readLe a 2 = (m.byte a).toNat + 256 * (m.byte (a + 1)).toNat := by
  simp [Memory.readLe, Memory.read, leNat]

theorem readLe_two_lt (m : Memory) (a : Nat) : m.readLe a 2 < 65536 := by
  have h1 := (m.byte a).isLt
  have h2 := (m.byte (a + 1)).isLt
  rw [readLe_two]
  omega

/-- R159, R190: the word that a host read puts on the bus. -/
theorem hostRead_bus (s : State) (word : BitVec 15) :
    (s.hostAccess word .read).regs.bus.toNat = if s.run.state = .resetBusy then 0 else s.ram.readLe (2 * word.toNat) 2 := by
  unfold State.hostAccess
  dsimp only
  split
  · rfl
  · exact Nat.mod_eq_of_lt (readLe_two_lt _ _)

/-- Settles O31. -/
theorem hostAccessToRam : Obligations.HostAccessToRam := by
  unfold Obligations.HostAccessToRam
  intro s word data low high hw
  refine ⟨fun hr => congrArg Host.Outcome.next (if_pos hr), fun hr => ?_, s.hostAccess word .read, rfl, rfl, ?_⟩
  · have hwrite : s.hostAccess word (.write data low high) = s.setRam (s.ram.hostWrite (2 * word.toNat) data low high) := if_neg hr
    exact ⟨_, congrArg Host.Outcome.next hwrite, rfl, hostWrite_stores hw _ data low high⟩
  · rw [hostRead_bus, readLe_two]

end Sys2Proof.Machine

/-! SUPPORT. READ_WINDOW (R27, R175); O46. -/

namespace Sys2Proof.Machine

-- Proofs one at a time: those that wait side by side each hold a thread's stack.
set_option Elab.async false

variable {copy : List Byte} {st : Station}

theorem serveReadWindow_refused (h : 15 < field copy 0x04 1) (s : State) : serveReadWindow copy s = (s, .refused .badField []) := by
  have hnone : stationOf (field copy 0x04 1) = none := dif_neg (by omega)
  unfold serveReadWindow
  rw [hnone]

theorem serveReadWindow_done (h : field copy 0x04 1 = st.val) (s : State) :
    serveReadWindow copy s = (s, .done (windowReport st s.poller.states[st] s.acc.accts[st])) := by
  unfold serveReadWindow
  rw [h, stationOf_val]

theorem windowReport_placed (st : Station) (v : StationState) (a : Account) : placed 4 (windowReport st v a) := by
  simp [placed, windowReport]

/-- Settles O46. -/
theorem readWindowReportsTheAccount : Obligations.ReadWindowReportsTheAccount := by
  unfold Obligations.ReadWindowReportsTheAccount
  intro s i p hw ht
  have hstation : field (s.copyOf i) 0x04 1 = s.param i 0x04 1 := field_copy s i _ _ (by omega)
  rw [← hstation]
  refine ⟨fun h => ?_, fun st hst => ?_⟩
  · exact ⟨_, rfl, takeKind_refuses hw ht Open.none (serveReadWindow_refused h (s.atSlot p))⟩
  · obtain ⟨hans, honly⟩ := takeKind_completes hw ht Open.none (serveReadWindow_done hst (s.atSlot p)) (windowReport_placed _ _ _)
      rfl rfl rfl
    exact ⟨_, rfl, honly, hans⟩

end Sys2Proof.Machine

/-! SUPPORT. The RUN_STATE notice at a change of the run state (R158); the end of a reset, the begin of a start and a start error
(R159, R161, R163); O15, O18 and O20. -/

namespace Sys2Proof.Machine

-- Proofs one at a time: those that wait side by side each hold a thread's stack.
set_option Elab.async false

variable {s t : State} {high : Half}

/-! ### RUN_STATE (R158) -/

/-- R158: the detail of RUN_STATE for the run state before, the run values after and the walker. -/
def runStateDetail (before : RunState) (r : RunControl) (w : WalkerState) : Nat :=
  before.code + 256 * r.state.code + 65536 * r.error.code + 16777216 * w.code

/-- R158: the run values become `r`, and RUN_STATE is handed. -/
def State.enterRun (before : RunState) (r : RunControl) (s : State) : State := ({ s with run := r } : State).postRunState before

/-- R158: from `s` to `t` the run values become `r` and one RUN_STATE notice is handed, and nothing else changes. -/
def State.EntersRun (s t : State) (before : RunState) (r : RunControl) : Prop :=
  t.run = r ∧ t.notices = (s.post 23 0 (runStateDetail before r s.walker.state)).notices ∧
    keepsOutside (inNextNotice s.notices) s.ram t.ram ∧ t = { s with run := r, ram := t.ram, notices := t.notices }

/-- The notices after a posting depend on the notices and INT_ENABLE alone, not on the other run values. -/
theorem post_notices_intBit {s t : State} (hn : t.notices = s.notices) (hi : t.run.intBit = s.run.intBit) (kind sub detail : Nat) :
    (t.post kind sub detail).notices = (s.post kind sub detail).notices := by
  unfold State.post State.driveIrq
  rw [hn, hi]
  split <;> rfl

theorem enterRun_enters (hw : s.ram.wf = true) {r : RunControl} (hi : r.intBit = s.run.intBit) (before : RunState) :
    s.EntersRun (s.enterRun before r) before r :=
  ⟨(postRunState_keeps before _).1, post_notices_intBit (s := s) (t := { s with run := r }) rfl hi _ _ _,
    keeps_post (s := { s with run := r }) hw _ _ _, post_only _ _ _ { s with run := r }⟩

/-! ### O15: the end of a reset (R159, R177) -/

theorem releaseReset_exec (hr : s.run.state = .resetBusy) (ha : s.run.resetAsserted = true) :
    exec .resetRelease s = .next { s with run := { s.run with resetAsserted := false }, ram := .cleared } :=
  congrArg Host.Outcome.next (if_pos ⟨hr, ha⟩)

/-- R159: the run values once the clearing has ended. -/
def RunControl.cleared (r : RunControl) : RunControl := { r with state := .idle }

theorem endClearing_exec (hr : s.run.state = .resetBusy) (ha : s.run.resetAsserted = false) :
    exec .ramClearComplete s = .next (s.enterRun .resetBusy s.run.cleared) :=
  congrArg Host.Outcome.next (if_pos ⟨hr, ha⟩)

/-- R177, R178: the first notice after a reset. -/
theorem post_first (hh : s.notices.head = 0) (ht : s.notices.tail = 0) (hq : s.notices.seq = 0) (kind sub detail : Nat) :
    s.post kind sub detail =
      { s with
        ram := s.ram.writeBytes 0x2400 (noticeBytes 0 kind sub s.clock detail)
        notices := { s.notices with head := 1, seq := 1, irq := s.run.intBit } } := by
  have hroom : s.notices.head + 1 ≠ s.notices.tail := by rw [hh, ht]; decide
  unfold State.post
  rw [if_neg hroom]
  unfold State.driveIrq
  dsimp only
  rw [hh, ht, hq]
  rfl

/-- Settles O15. -/
theorem resetReleaseEndsInIdle : Obligations.ResetReleaseEndsInIdle := by
  unfold Obligations.ResetReleaseEndsInIdle
  refine fun s hr => ⟨fun ha => ⟨_, releaseReset_exec hr ha, fun a => ⟨byte_cleared a, badAt_cleared a⟩, rfl⟩, ?_⟩
  intro ha hi he hu hh ht hq hw
  refine ⟨_, endClearing_exec hr ha, ?_⟩
  have hdetail : runStateDetail .resetBusy s.run.cleared s.walker.state = 0x100 := by
    unfold runStateDetail RunControl.cleared
    rw [he, hu]
    rfl
  have hpost : s.enterRun .resetBusy s.run.cleared =
      { s with
        run := s.run.cleared
        ram := s.ram.writeBytes 0x2400 (noticeBytes 0 23 0 s.clock 0x100)
        notices := { s.notices with head := 1, seq := 1, irq := false } } := by
    rw [← hdetail, ← hi]
    exact post_first (s := { s with run := s.run.cleared }) hh ht hq _ _ _
  obtain ⟨hseq, hkind, hsub, -, hdet⟩ := readLe_notice hw 0x2400 0 23 0 s.clock 0x100
  obtain ⟨-, -, hkeep, -⟩ := enterRun_enters hw (r := s.run.cleared) rfl .resetBusy
  rw [hpost] at hkeep ⊢
  refine ⟨rfl, hseq, hkind, hsub, hdet, rfl, fun a ha => hkeep a fun hn => ha ?_, rfl⟩
  unfold inNextNotice at hn
  rw [hh] at hn
  exact hn

/-! ### O18: a start begins (R160, R161) -/

/-- R161: the run values as a start begins. -/
def RunControl.begun (r : RunControl) : RunControl := { r with state := .starting, runBit := true }

/-- Settles O18. -/
theorem startBegins : Obligations.StartBegins := by
  unfold Obligations.StartBegins
  intro s high hw hr hb hc
  have hrun : s.writeRun true = s.beginStart := by
    unfold State.writeRun
    rw [if_neg (by simp [hb]), hr]
  have hreg : s.writeRegister .control high = s.beginStart := (writeRegister_run (by simp [hr]) hc).trans hrun
  have hbegin : s.beginStart = s.enterRun .idle s.run.begun := by
    unfold State.beginStart
    rw [hr]
    rfl
  obtain ⟨hafter, hnotices, hkeep, honly⟩ := enterRun_enters hw (r := s.run.begun) rfl .idle
  rw [← hbegin] at hafter hnotices hkeep honly
  refine ⟨_, congrArg Host.Outcome.next hreg, hafter, hnotices, hkeep, ?_⟩
  rw [hafter]
  exact honly

/-! ### O20: a start error (R161, R163) -/

/-- R169: the scanner as the part leaves STARTING. -/
theorem leaveStarting_eq (c : Scanner) :
    c.leaveStarting =
      if c.again = true ∧ c.scan = none then { c with again := false, scan := some c.freshScan } else c := by
  unfold Scanner.leaveStarting
  cases hs : c.scan with
  | some q => simp
  | none => cases ha : c.again <;> simp [Scanner.beginScan, Scanner.freshScan]

/-- R163: the run values after a start error. -/
def RunControl.failed (e : StartError) (r : RunControl) : RunControl := { r with state := .idle, error := e, runBit := false }

/-- R163: a start error is the return to IDLE with its RUN_STATE notice, and then the end of STARTING at the scanner. -/
theorem failStart_enters (hw : s.ram.wf = true) (hr : s.run.state = .starting) (e : StartError) :
    ∃ u, s.EntersRun u .starting (s.run.failed e) ∧ s.failStart e = { u with scanner := s.scanner.leaveStarting } := by
  have henters := enterRun_enters hw (r := s.run.failed e) rfl .starting
  have hscan : (s.enterRun .starting (s.run.failed e)).scanner = s.scanner := by
    obtain ⟨-, -, -, honly⟩ := henters
    rw [honly]
  refine ⟨_, henters, ?_⟩
  rw [← hscan]
  unfold State.failStart
  rw [hr]
  rfl

/-- R161, R163: what a command that ends the start in the error `e` leaves. -/
theorem failStart_returns (hw : s.ram.wf = true) (hr : s.run.state = .starting) (e : StartError) {c : Instr}
    (hc : exec c s = .next (s.failStart e)) :
    ∃ t, exec c s = .next t ∧ t.run = { s.run with state := .idle, error := e, runBit := false } ∧
      t.notices = (s.post 23 0 (2 + 256 * 1 + 65536 * e.code + 16777216 * s.walker.state.code)).notices ∧
      keepsOutside (inNextNotice s.notices) s.ram t.ram ∧
      t.scanner = (if s.scanner.again = true ∧ s.scanner.scan = none then
        { s.scanner with again := false, scan := some s.scanner.freshScan } else s.scanner) ∧
      t = { s with run := t.run, ram := t.ram, notices := t.notices, scanner := t.scanner } := by
  obtain ⟨u, ⟨hrun, hnotices, hkeep, honly⟩, hfail⟩ := failStart_enters hw hr e
  refine ⟨_, hc, ?_⟩
  rw [hfail]
  refine ⟨hrun, hnotices, hkeep, leaveStarting_eq _, ?_⟩
  dsimp only
  rw [hrun, honly]

/-- Settles O20. -/
theorem startErrorReturnsToIdle : Obligations.StartErrorReturnsToIdle := by
  unfold Obligations.StartErrorReturnsToIdle
  intro s high hw hr
  refine ⟨fun e he => failStart_returns hw hr e ?_, fun hb hc => failStart_returns hw hr .stopped ?_⟩
  · have hcheck : s.completeStart = s.failStart e := by
      unfold State.completeStart
      rw [if_pos hr, he]
    exact congrArg Host.Outcome.next hcheck
  · have hrun : s.writeRun false = s.failStart .stopped := by
      unfold State.writeRun
      rw [if_neg (by simp [hb]), hr]
    exact congrArg Host.Outcome.next ((writeRegister_run (by simp [hr]) hc).trans hrun)

end Sys2Proof.Machine

/-! SUPPORT. The scan to its end (R169): what a taking leaves of the scan, the slot taken next, and the takings one after the
other until none is left; O34. -/

namespace Sys2Proof.Machine

-- Proofs one at a time: those that wait side by side each hold a thread's stack.
set_option Elab.async false

variable {s t : State} {i : Slot} {p q : Scan} {n : Nat}

/-! ### What a taking leaves of the scan -/

/-- The scan in progress and the pending-scan flag. -/
def Scanner.progress (c : Scanner) : Option Scan × Bool := (c.scan, c.again)

/-- R171: a completion removes an in-flight mark and leaves the scan alone. -/
@[simp] theorem complete_progress (j : Slot) (results : List Result) (s : State) :
    (s.complete j results).scanner.progress = s.scanner.progress := by
  rw [complete_forgets]
  rfl

@[simp] theorem completeAmbient_progress (m : Ambient) (s : State) : (s.completeAmbient m).scanner.progress = s.scanner.progress := by
  simp [State.completeAmbient]

@[simp] theorem abortAmbient_progress (s : State) : s.abortAmbient.scanner.progress = s.scanner.progress := by
  simp [State.abortAmbient]

@[simp] theorem ambientClosure_progress (s : State) : s.ambientClosure.scanner.progress = s.scanner.progress := by
  unfold State.ambientClosure
  dsimp only
  repeat' split
  all_goals simp

@[simp] theorem closeByLastOutcome_progress (s : State) : s.closeByLastOutcome.scanner.progress = s.scanner.progress := by
  simp [State.closeByLastOutcome, State.closeRound]

@[simp] theorem proceed_progress (s : State) : s.proceed.scanner.progress = s.scanner.progress := by
  unfold State.proceed
  split <;> simp

@[simp] theorem disableInRound_progress (st : Station) (s : State) :
    (s.disableInRound st).scanner.progress = s.scanner.progress := by
  unfold State.disableInRound
  repeat' split
  all_goals simp

@[simp] theorem changeStation_progress (st : Station) (before after : StationEntry) (s : State) :
    (s.changeStation st before after).scanner.progress = s.scanner.progress := by
  unfold State.changeStation
  dsimp only
  repeat' split
  all_goals simp

/-- R169: no block that serves a request begins or ends a scan. An ABORT_AMBIENT and the closure that a SET_STATION can bring end
requests in flight and a SET_FLAGS replaces the flags; every other kind leaves the scanner whole. -/
theorem serve_progress (o : Open) (i : Slot) (copy : List Byte) (s : State) (k : RequestKind) :
    (serve o i copy s k).1.scanner.progress = s.scanner.progress := by
  cases k <;> simp only [serve]
  case abortAmbient =>
    unfold serveAbortAmbient
    split <;> simp
  case setStation =>
    unfold serveSetStation
    dsimp only
    repeat' split
    all_goals simp
  case setFlags =>
    unfold serveSetFlags
    dsimp only
    split <;> rfl
  all_goals
    simp only [serveSetClock, serveRestartSchedule, serveResumeSchedule, serveSetWatch, serveSwapBook, serveHoldStage,
      serveReleaseStage, serveMeasureAmbient, serveSetAmbient, serveLoopTest, serveReadWindow]
    repeat' split
    all_goals simp

theorem markInFlight_progress (i : Slot) (copy : List Byte) (r : Reply) (s : State) :
    (s.markInFlight i copy r).scanner.progress = s.scanner.progress := by
  unfold State.markInFlight
  split <;> rfl

/-- R169: after a taking the scan goes on from the slot taken, and the pending-scan flag is as it was. -/
theorem takeSlot_progress (o : Open) (i : Slot) (p : Scan) (s : State) :
    (s.takeSlot o i p).scanner.progress = (some p, s.scanner.again) := by
  have hwritten : ∀ (v : State) (copy : List Byte) (r : Reply),
      ((v.answer i copy r).markInFlight i copy r).scanner.progress = v.scanner.progress := fun v copy r => by
    rw [markInFlight_progress, (answer_keeps i copy r v).2.2.2.2.2.2.2.2.2.1]
  unfold State.takeSlot
  dsimp only
  cases s.ram.slotKind i with
  | kind k => exact (hwritten _ _ _).trans (serve_progress o i _ (s.atSlot p) k)
  | bad code => exact hwritten _ _ _

/-! ### The slot taken next -/

theorem slotAfter_zero (i : Slot) : slotAfter i 0 = i := by
  apply Fin.ext
  simp only [slotAfter, Fin.ofNat]
  omega

/-- R169: a scan passes over no slot that it takes. -/
theorem passOver_first {left : Nat} (h : s.passOver i left = some n) :
    n < left ∧ ∀ m, m < n → s.takes (slotAfter i m) = false := by
  induction left generalizing i n with
  | zero => cases h
  | succ left ih =>
    unfold State.passOver at h
    split at h
    · cases h
      exact ⟨by omega, fun m hm => by omega⟩
    · next ht =>
      obtain ⟨k, hk, rfl⟩ := Option.map_eq_some_iff.1 h
      obtain ⟨hlt, hbefore⟩ := ih hk
      refine ⟨by omega, fun m hm => ?_⟩
      cases m with
      | zero => rw [slotAfter_zero]; exact Bool.not_eq_true _ ▸ ht
      | succ m => rw [← slotAfter_slotAfter]; exact hbefore m (by omega)

/-- R169: a scan that takes none of the slots still to be read. -/
theorem passOver_none {left : Nat} (h : s.passOver i left = none) : ∀ m, m < left → s.takes (slotAfter i m) = false := by
  induction left generalizing i with
  | zero => exact fun m hm => by omega
  | succ left ih =>
    unfold State.passOver at h
    split at h
    · cases h
    · next ht =>
      intro m hm
      cases m with
      | zero => rw [slotAfter_zero]; exact Bool.not_eq_true _ ▸ ht
      | succ m =>
        rw [← slotAfter_slotAfter]
        exact ih (Option.map_eq_none_iff.1 h) m (by omega)

/-- R169: a scan that passes over `n` slots and takes the one after them: that slot, and the scan's progress from it. -/
def Scan.takenAfter (q : Scan) (n : Nat) : Slot × Scan :=
  let i := slotAfter q.next n
  (i, { next := slotAfter i 1, left := q.left - (n + 1), last := some i })

/-- Table 7-1: the scan of a part in IDLE or RUNNING. -/
theorem nextTaken_eq (hr : s.run.state = .idle ∨ s.run.state = .running) (hs : s.scanner.scan = some q) :
    s.nextTaken = (s.passOver q.next q.left).map q.takenAfter := by
  unfold State.nextTaken
  rw [if_pos hr, hs]
  dsimp only
  cases s.passOver q.next q.left <;> rfl

/-- R169: the slot that a scan takes next, and its progress from there. -/
theorem nextTaken_some (hr : s.run.state = .idle ∨ s.run.state = .running) (hs : s.scanner.scan = some q)
    (h : s.nextTaken = some (i, p)) :
    ∃ n, n < q.left ∧ i = slotAfter q.next n ∧ (∀ m, m < n → s.takes (slotAfter q.next m) = false) ∧
      p = { next := slotAfter i 1, left := q.left - (n + 1), last := some i } := by
  rw [nextTaken_eq hr hs] at h
  obtain ⟨n, hn, he⟩ := Option.map_eq_some_iff.1 h
  obtain ⟨hlt, hbefore⟩ := passOver_first hn
  cases he
  exact ⟨n, hlt, rfl, hbefore, rfl⟩

theorem nextTaken_none (hr : s.run.state = .idle ∨ s.run.state = .running) (hs : s.scanner.scan = some q)
    (h : s.nextTaken = none) : ∀ m, m < q.left → s.takes (slotAfter q.next m) = false := by
  rw [nextTaken_eq hr hs] at h
  exact passOver_none (Option.map_eq_none_iff.1 h)

/-! ### The end of a scan -/

/-- R169: where the pointer stands once the scan `q` has ended. -/
def Scanner.pointerAfter (c : Scanner) (q : Scan) : Slot :=
  match q.last with
  | some i => slotAfter i 1
  | none => c.pointer

/-- R169: the pointer moves, and a pending scan begins there. -/
theorem endScan_eq (c : Scanner) (q : Scan) :
    c.endScan q =
      { c with
        again := false
        pointer := c.pointerAfter q
        scan := if c.again then some { next := c.pointerAfter q, left := 32, last := none } else none } := by
  obtain ⟨pointer, scan, again, inFlight, flags⟩ := c
  cases again <;> rfl

theorem runScan_taken (o : Open) (n : Nat) (h : s.nextTaken = some (i, p)) :
    s.runScan o (n + 1) = (s.takeSlot o i p).runScan o n := by
  rw [State.runScan, h]

theorem runScan_ended (o : Open) (n : Nat) (h : s.nextTaken = none) (hs : s.scanner.scan = some q) :
    s.runScan o (n + 1) = { s with scanner := s.scanner.endScan q } := by
  rw [State.runScan, h, hs]

/-- A slot taken leaves fewer to read, and the scan where it stood. -/
theorem takeSlot_goes_on (hr : s.run.state = .idle ∨ s.run.state = .running) (hs : s.scanner.scan = some q)
    (h : s.nextTaken = some (i, p)) (o : Open) :
    p.left < q.left ∧ (s.takeSlot o i p).scanner.scan = some p ∧ (s.takeSlot o i p).scanner.again = s.scanner.again ∧
      (s.takeSlot o i p).run = s.run := by
  obtain ⟨n, hn, -, -, rfl⟩ := nextTaken_some hr hs h
  obtain ⟨hscan, hagain⟩ := Prod.mk.inj (takeSlot_progress o i _ s)
  exact ⟨by simp only; omega, hscan, hagain, (takeSlot_run o i _ s).1⟩

/-- The takings allowed, once they outnumber the slots still to be read, do not bound the scan. -/
theorem runScan_enough (o : Open) {m : Nat} (hr : s.run.state = .idle ∨ s.run.state = .running) (hs : s.scanner.scan = some q)
    (hn : q.left < n) (hm : q.left < m) : s.runScan o n = s.runScan o m := by
  induction n generalizing s q m with
  | zero => omega
  | succ n ih =>
    obtain ⟨m, rfl⟩ : ∃ k, m = k + 1 := ⟨m - 1, by omega⟩
    cases h : s.nextTaken with
    | none => rw [runScan_ended o n h hs, runScan_ended o m h hs]
    | some ip =>
      obtain ⟨i, p⟩ := ip
      obtain ⟨hleft, hscan, -, hrun⟩ := takeSlot_goes_on hr hs h o
      rw [runScan_taken o n h, runScan_taken o m h]
      exact ih (by rw [hrun]; exact hr) hscan (by omega) (by omega)

/-- R169: once none is left to read the scan has ended, and a pending scan has begun. -/
theorem runScan_ends (o : Open) (hr : s.run.state = .idle ∨ s.run.state = .running) (hs : s.scanner.scan = some q)
    (hn : q.left < n) :
    (s.runScan o n).scanner.again = false ∧
      (s.runScan o n).scanner.scan =
        if s.scanner.again then some { next := (s.runScan o n).scanner.pointer, left := 32, last := none } else none := by
  induction n generalizing s q with
  | zero => omega
  | succ n ih =>
    cases h : s.nextTaken with
    | none =>
      rw [runScan_ended o n h hs, endScan_eq]
      exact ⟨rfl, rfl⟩
    | some ip =>
      obtain ⟨i, p⟩ := ip
      obtain ⟨hleft, hscan, hagain, hrun⟩ := takeSlot_goes_on hr hs h o
      rw [runScan_taken o n h, ← hagain]
      exact ih (by rw [hrun]; exact hr) hscan (by omega)

/-- What a REQUEST_SCAN leaves open (log entries 11, 12 and 33). -/
def Open.ofScan (u : Half) : Open := { logFirst := false, unstated := u }

theorem requestScan_exec (u : Half) (hr : s.run.state = .idle ∨ s.run.state = .running) (hs : s.scanner.scan = some q) :
    exec (.requestScan u) s = .next (s.runScan (.ofScan u) (q.left + 1)) := by
  have h : s.scanToEnd (.ofScan u) = s.runScan (.ofScan u) (q.left + 1) := by
    unfold State.scanToEnd
    rw [if_pos hr, hs]
  exact congrArg Host.Outcome.next h

/-- R169: a scan that takes a slot goes on from what the taking leaves. -/
theorem requestScan_goes_on (u : Half) (hr : s.run.state = .idle ∨ s.run.state = .running) (hs : s.scanner.scan = some q)
    (h : s.nextTaken = some (i, p)) : exec (.requestScan u) s = exec (.requestScan u) (s.takeSlot (.ofScan u) i p) := by
  obtain ⟨hleft, hscan, -, hrun⟩ := takeSlot_goes_on hr hs h (.ofScan u)
  have hr' : (s.takeSlot (.ofScan u) i p).run.state = .idle ∨ (s.takeSlot (.ofScan u) i p).run.state = .running := by
    rw [hrun]
    exact hr
  rw [requestScan_exec u hr hs, requestScan_exec u hr' hscan, runScan_taken _ _ h,
    runScan_enough (.ofScan u) hr' hscan hleft (Nat.lt_succ_self p.left)]

/-- Settles O34. -/
theorem requestScanRunsToItsEnd : Obligations.RequestScanRunsToItsEnd := by
  unfold Obligations.RequestScanRunsToItsEnd
  intro s u q hr hs
  refine ⟨fun i p h => ?_, fun h => ⟨nextTaken_none hr hs h, ?_⟩, _, requestScan_exec u hr hs, ?_, ?_⟩
  · exact ⟨nextTaken_takes h, requestScan_goes_on u hr hs h, nextTaken_some hr hs h⟩
  · rw [requestScan_exec u hr hs, runScan_ended _ _ h hs, endScan_eq]
    rfl
  · exact (runScan_run _ _ s).1
  · exact runScan_ends _ hr hs (Nat.lt_succ_self q.left)

end Sys2Proof.Machine

/-! SUPPORT. The RAM's canonical form and the interrupt line (R179, R190) through every operation of the part, and O4. -/

namespace Sys2Proof.Machine

-- Proofs one at a time: those that wait side by side each hold a thread's stack.
set_option Elab.async false

variable {s t u : State}

/-- R164: the run state becomes RUNNING, and the scan held in STARTING goes on. -/
def State.enterRunning (before : RunState) (s : State) : State :=
  let t := s.enterRun before { s.run with state := .running, error := .none }
  { t with scanner := t.scanner.leaveStarting }

theorem succeedStart_eq (d : StartData) (s : State) : s.succeedStart d = (s.started d).enterRunning s.run.state := by
  unfold State.succeedStart State.enterRunning State.enterRun State.started State.configured
  rfl

/-- R179, R190: the RAM is in its canonical form and the interrupt line at its level; a structure, so that its lemmas apply without the
invariant being unfolded. -/
structure State.RamAndLine (s : State) : Prop where
  both : s.Quiet

namespace State.RamAndLine

/-- They read the RAM, the notices and INT_ENABLE alone. -/
theorem congr (h : s.RamAndLine) (hm : t.ram = s.ram := by simp) (hn : t.notices = s.notices := by simp)
    (hi : t.run.intBit = s.run.intBit := by simp) : t.RamAndLine := by
  refine ⟨?_⟩
  unfold State.Quiet
  rw [hm, hn, hi]
  exact h.both

/-- An operation that keeps both for the INT_ENABLE bit it finds, and leaves the run values alone. -/
theorem of_run (h : Machine.Quiet t.ram t.notices s.run.intBit) (hr : t.run = s.run := by simp) : t.RamAndLine := by
  refine ⟨?_⟩
  unfold State.Quiet
  rw [hr]
  exact h

theorem withRun (h : s.RamAndLine) (r : RunControl) (hr : r.intBit = s.run.intBit := by rfl) : State.RamAndLine { s with run := r } :=
  h.congr rfl rfl hr

theorem withClock (h : s.RamAndLine) (c : Nat) : State.RamAndLine { s with clock := c } := h.congr rfl rfl rfl

theorem withAcc (h : s.RamAndLine) (a : Accumulator) : State.RamAndLine { s with acc := a } := h.congr rfl rfl rfl

theorem withWalker (h : s.RamAndLine) (w : Walker) : State.RamAndLine { s with walker := w } := h.congr rfl rfl rfl

theorem withPoller (h : s.RamAndLine) (p : Poller) : State.RamAndLine { s with poller := p } := h.congr rfl rfl rfl

theorem withScanner (h : s.RamAndLine) (c : Scanner) : State.RamAndLine { s with scanner := c } := h.congr rfl rfl rfl

theorem setRam {m : Memory} (h : s.RamAndLine) (hm : m.wf = true) : (s.setRam m).RamAndLine := ⟨hm, h.both.2⟩

/-- R179: the line driven is at its level. -/
theorem driveIrq (h : s.ram.wf = true) : s.driveIrq.RamAndLine := ⟨h, rfl⟩

theorem post (h : s.RamAndLine) (kind subject detail : Nat) : (s.post kind subject detail).RamAndLine :=
  of_run (post_quiet rfl h.both _ _ _)

theorem postRunState (h : s.RamAndLine) (before : RunState) : (s.postRunState before).RamAndLine := h.post _ _ _

/-! ### Requests (R170) -/

theorem clockMoved (h : s.RamAndLine) (logFirst : Bool) (before : Nat) : (s.clockMoved logFirst before).RamAndLine :=
  of_run (clockMoved_quiet rfl h.both _ _)

theorem modLoop (h : s.RamAndLine) (l : Loop) (f : LoopLine → LoopLine) : (s.modLoop l f).RamAndLine :=
  of_run (modLoop_quiet rfl h.both _ _)

theorem setHold (h : s.RamAndLine) (k : Stage) (v : Option Nat) : (s.setHold k v).RamAndLine := of_run (setHold_quiet rfl h.both _ _)

theorem setAmbientMute (h : s.RamAndLine) (b : Bool) : (s.setAmbientMute b).RamAndLine := of_run (setAmbientMute_quiet rfl h.both _)

theorem walkerRestart (h : s.RamAndLine) : s.walkerRestart.1.RamAndLine := of_run (walkerRestart_quiet rfl h.both)

theorem walkerResume (h : s.RamAndLine) (p : Pause) (holder : Byte) : (s.walkerResume p holder).1.RamAndLine :=
  of_run (walkerResume_quiet rfl h.both _ _)

theorem exchangeBook (h : s.RamAndLine) (b : List BookRecord) : (s.exchangeBook b).RamAndLine :=
  of_run (exchangeBook_quiet rfl h.both b)

/-- R170: a request served by its owner. -/
theorem serve (h : s.RamAndLine) (o : Open) (i : Slot) (copy : List Byte) (k : RequestKind) :
    (Machine.serve o i copy s k).1.RamAndLine := by
  cases k <;> simp only [Machine.serve]
  case setClock =>
    unfold serveSetClock
    dsimp only
    repeat' split
    · exact h
    · exact h.withClock _
    · exact (h.withClock _).clockMoved _ _
  case restartSchedule =>
    unfold serveRestartSchedule
    split
    · exact h
    · exact h.walkerRestart
  case resumeSchedule =>
    unfold serveResumeSchedule
    repeat' split
    · exact h
    · exact h.walkerResume _ _
    · exact h
  case setWatch =>
    unfold serveSetWatch
    dsimp only
    repeat' split
    · exact h
    · exact h
    · exact h.withWalker _
  case swapBook =>
    unfold serveSwapBook
    dsimp only
    split
    · exact h
    · cases validateArea s.ram (otherArea s.book.area) with
      | ok b =>
        dsimp only
        exact h.exchangeBook b
      | error f => exact h
  case setFlags =>
    unfold serveSetFlags
    dsimp only
    split
    · exact h
    · exact h.withScanner _
  case holdStage =>
    unfold serveHoldStage
    split
    · exact h
    · dsimp only
      exact h.setHold _ _
  case releaseStage =>
    unfold serveReleaseStage
    split
    · exact h
    · dsimp only
      exact h.setHold _ _
  case measureAmbient =>
    unfold serveMeasureAmbient
    dsimp only
    repeat' split
    · exact h
    · exact h
    · exact h
    · dsimp only
      exact setAmbientMute (h.withAcc _) true
  case abortAmbient =>
    unfold serveAbortAmbient
    split
    · exact of_run (abortAmbient_quiet rfl h.both)
    · exact h
  case setAmbient =>
    unfold serveSetAmbient
    repeat' split
    · exact h
    · exact h
    · exact h.congr rfl rfl rfl
  case loopTest =>
    unfold serveLoopTest
    repeat' split
    · exact h
    · exact h
    · exact h
    · exact h
    · exact (h.modLoop _ _).withPoller _
  case setStation =>
    unfold serveSetStation
    dsimp only
    repeat' split
    · exact h
    · exact h
    · exact h
    · exact h
    · exact of_run (changeStation_quiet rfl h.both _ _ _)
  case readWindow =>
    unfold serveReadWindow
    split
    · exact h
    · exact h

theorem takeSlot (h : s.RamAndLine) (o : Open) (i : Slot) (p : Scan) : (s.takeSlot o i p).RamAndLine := by
  have hmark : ∀ (u : State) (copy : List Byte) (r : Reply), u.RamAndLine → ((u.answer i copy r).markInFlight i copy r).RamAndLine := by
    intro u copy r hu
    have hanswer : (u.answer i copy r).RamAndLine := of_run (answer_quiet rfl hu.both _ _ _)
    unfold State.markInFlight
    split
    · exact hanswer.withScanner _
    · exact hanswer
  unfold State.takeSlot
  dsimp only
  refine hmark _ _ _ ?_
  split
  · exact (h.withScanner _).serve o i _ _
  · exact h.withScanner _

theorem takeKind (h : s.RamAndLine) (o : Open) (want : SlotKind → Bool) (i : Slot) : (s.takeKind o want i).RamAndLine := by
  unfold State.takeKind
  repeat' split
  · exact h.takeSlot _ _ _
  · exact h
  · exact h

theorem runScan (h : s.RamAndLine) (o : Open) (n : Nat) : (s.runScan o n).RamAndLine := by
  induction n generalizing s with
  | zero => exact h
  | succ n ih =>
    unfold State.runScan
    repeat' split
    · exact ih (h.takeSlot _ _ _)
    · exact h.withScanner _
    · exact h

theorem scanToEnd (h : s.RamAndLine) (o : Open) : (s.scanToEnd o).RamAndLine := by
  unfold State.scanToEnd
  repeat' split
  · exact h.runScan _ _
  · exact h
  · exact h

/-! ### Starts, stops and resets (R159, R161 to R166) -/

theorem enterRun (h : s.RamAndLine) (before : RunState) (r : RunControl) (hr : r.intBit = s.run.intBit := by rfl) :
    (s.enterRun before r).RamAndLine := (h.withRun r hr).postRunState before

theorem configured (h : s.RamAndLine) (d : StartData) : (s.configured d).RamAndLine := by
  have hconf : (s.takeConfig d).RamAndLine := of_run (takeConfig_quiet rfl h.both d)
  unfold State.configured
  generalize s.takeConfig d = v at hconf ⊢
  exact hconf.congr rfl rfl rfl

theorem started (h : s.RamAndLine) (d : StartData) : (s.started d).RamAndLine := by
  have hgain : (s.configured d).startGain.RamAndLine := of_run (startGain_quiet rfl (h.configured d).both)
  have hwalk : ((s.configured d).startGain.startWalker d).RamAndLine := of_run (startWalker_quiet rfl hgain.both d)
  unfold State.started
  exact hwalk.congr

theorem enterRunning (h : s.RamAndLine) (before : RunState) : (s.enterRunning before).RamAndLine :=
  (h.enterRun _ _).withScanner _

theorem succeedStart (h : s.RamAndLine) (d : StartData) : (s.succeedStart d).RamAndLine := by
  rw [succeedStart_eq]
  exact (h.started d).enterRunning _

theorem failStart (h : s.RamAndLine) (e : StartError) : (s.failStart e).RamAndLine := (h.enterRun _ _).withScanner _

theorem completeStart (h : s.RamAndLine) : s.completeStart.RamAndLine := by
  unfold State.completeStart
  repeat' split
  · exact h.succeedStart _
  · exact h.failStart _
  · exact h

theorem stoppedWork (h : s.RamAndLine) : s.stoppedWork.RamAndLine := by
  have hambient : s.stopAmbient.RamAndLine := of_run (stopAmbient_quiet rfl h.both)
  have hround : s.stopAmbient.stopRound.RamAndLine := of_run (stopRound_quiet rfl hambient.both)
  have htest : s.stopAmbient.stopRound.stopTest.RamAndLine := of_run (stopTest_quiet rfl hround.both)
  have hminute : s.stopAmbient.stopRound.stopTest.stopMinute.RamAndLine := of_run (stopMinute_quiet rfl htest.both)
  unfold State.stoppedWork
  exact of_run (stopStations_quiet rfl hminute.both)

theorem stopShow (h : s.RamAndLine) : s.stopShow.RamAndLine := by
  have hwork : s.toIdle.stoppedWork.RamAndLine := stoppedWork (h.withRun _)
  have hstop : s.stopped.RamAndLine := by
    unfold State.stopped
    exact hwork.congr
  have heq : s.stopShow = ({ s.stopped with walker := s.stopped.walker.stop } : State).postRunState s.run.state := stopShow_eq s
  rw [heq]
  generalize s.stopped = v at hstop
  exact (hstop.withWalker _).postRunState _

/-- R166, R177: the requests in flight get their final states, and RUN_STATE stands in a queue that was empty, with INT_ENABLE 0. -/
theorem softReset (h : s.RamAndLine) : s.softReset.RamAndLine := by
  have hram : (s.ram.refuseInFlight s.scanner.inFlight).wf = true := (Machine.Quiet.refuseInFlight h.both _).1
  rw [softReset_eq]
  exact ⟨wf_writeBytes hram _ _, rfl⟩

theorem assertReset (h : s.RamAndLine) : s.assertReset.RamAndLine := ⟨h.both.1, rfl⟩

theorem releaseReset (h : s.RamAndLine) : s.releaseReset.RamAndLine := by
  unfold State.releaseReset
  split
  · exact ⟨wf_cleared, h.both.2⟩
  · exact h

theorem endClearing (h : s.RamAndLine) : s.endClearing.RamAndLine := by
  unfold State.endClearing
  split
  · exact h.enterRun _ _
  · exact h

/-! ### The registers (R160, R178, R179, R192) -/

theorem writeMute (h : s.RamAndLine) (v : Bool) : (s.writeMute v).RamAndLine := by
  unfold State.writeMute
  split
  · exact h
  · exact of_run (setImmediateMute_quiet rfl (h.withRun _).both v)

theorem writeIntEnable (h : s.RamAndLine) (v : Bool) : (s.writeIntEnable v).RamAndLine := by
  unfold State.writeIntEnable
  split
  · exact h
  · exact driveIrq h.both.1

theorem writeRun (h : s.RamAndLine) (v : Bool) : (s.writeRun v).RamAndLine := by
  unfold State.writeRun
  repeat' split
  · exact h
  · exact h.enterRun _ _
  · exact h.stopShow
  · exact h.failStart _
  · exact h.withRun _

theorem writeControl (h : s.RamAndLine) (v : Nat) : (s.writeControl v).RamAndLine := by
  unfold State.writeControl
  split
  · exact h.softReset
  · exact ((h.writeMute _).writeIntEnable _).writeRun _

theorem writeStatus (h : s.RamAndLine) (v : Nat) : (s.writeStatus v).RamAndLine := by
  unfold State.writeStatus
  split
  · exact ⟨h.both⟩
  · exact h

theorem writeAttention (h : s.RamAndLine) : s.writeAttention.RamAndLine := by
  unfold State.writeAttention
  split
  · exact h
  · exact h.withScanner _
  · exact h.withScanner _
  · exact h.withScanner _

theorem writeNoticeTail (h : s.RamAndLine) (v : Nat) : (s.writeNoticeTail v).RamAndLine := by
  unfold State.writeNoticeTail
  split
  · exact driveIrq h.both.1
  · exact h

theorem writeRegister (h : s.RamAndLine) (reg : Reg) (high : Half) : (s.writeRegister reg high).RamAndLine := by
  unfold State.writeRegister
  dsimp only
  split
  · exact h
  · cases reg with
    | control => exact h.writeControl _
    | status => exact h.writeStatus _
    | attention => exact h.writeAttention
    | noticeTail => exact h.writeNoticeTail _
    | ident | noticeHead | showClock | reserved => exact h

theorem writeLowHalf (h : s.RamAndLine) (reg : Reg) (value : Half) : (s.writeLowHalf reg value).RamAndLine := by
  unfold State.writeLowHalf
  split
  · exact h
  · exact h.congr rfl rfl rfl

/-! ### Shared RAM (R190) -/

theorem hostAccess (h : s.RamAndLine) (word : BitVec 15) (access : RamAccess) : (s.hostAccess word access).RamAndLine := by
  unfold State.hostAccess
  cases access with
  | read => exact h.congr rfl rfl rfl
  | write data low high =>
    dsimp only
    split
    · exact h
    · exact ⟨Machine.Quiet.hostWrite h.both _ data low high⟩

/-! ### The second event and the timers (Table 5-1) -/

theorem closeMinute (h : s.RamAndLine) (minute : Nat) (f : RecordFlags) : (s.closeMinute minute f).RamAndLine :=
  of_run (closeMinute_quiet rfl h.both _ _)

theorem walkerSecond (h : s.RamAndLine) : s.walkerSecond.RamAndLine := of_run (walkerSecond_quiet rfl h.both)

theorem secondWork (h : s.RamAndLine) (wrapped : Bool) (w : SecondWork) : (s.secondWork wrapped w).RamAndLine := by
  cases w <;> simp only [State.secondWork]
  case accumulator =>
    split
    · exact h.congr
    · exact h
  case poller =>
    split
    · exact of_run (pollerSecond_quiet rfl h.both)
    · exact h
  case linkSecond => exact h.congr
  case linkOffer =>
    split
    · exact h.congr
    · exact h
  case scanner =>
    split
    · exact h.withScanner _
    · exact h
  case walker =>
    split
    · exact of_run (walkerMoved_quiet rfl h.walkerSecond.both)
    · exact h.walkerSecond
  case minute =>
    split
    · exact h.closeMinute _ _
    · exact h
  case occupancy => exact of_run (readOccupancy_quiet rfl h.both)

theorem secondEvent (h : s.RamAndLine) (order : List SecondWork) : (s.secondEvent order).RamAndLine := by
  unfold State.secondEvent
  split
  · exact h
  · exact foldl_preserves State.RamAndLine _ (fun _ w ht => ht.secondWork _ w) _ _ (h.congr rfl rfl rfl)

theorem loopFrame (h : s.RamAndLine) (l : Loop) (bytes : List Byte) : (s.loopFrame l bytes).RamAndLine :=
  of_run (loopFrame_quiet rfl h.both _ _)

theorem roundDeadline (h : s.RamAndLine) : s.roundDeadline.RamAndLine := by
  unfold State.roundDeadline
  split
  · exact of_run (closeByDeadline_quiet rfl h.both)
  · exact h

theorem testExpiry (h : s.RamAndLine) : s.testExpiry.RamAndLine := by
  unfold State.testExpiry
  repeat' split
  · exact of_run (endTestFrame_quiet rfl h.both _ _)
  · exact h
  · exact h

/-! ### Every command -/

theorem exec (h : s.RamAndLine) (c : Instr) (ht : Machine.exec c s = .next t) : t.RamAndLine := by
  cases c <;> cases ht
  case hardwareReset => exact h.assertReset
  case resetRelease => exact h.releaseReset
  case ramClearComplete => exact h.endClearing
  case secondEvent => exact h.secondEvent _
  case startChecksComplete => exact h.completeStart
  case start | stop | softReset | immediateMute | intEnable | noticeOverrunClear | attention | noticeTailWrite
      | registerWriteIgnored => exact h.writeRegister _ _
  case registerLowHalfWrite => exact h.writeLowHalf _ _
  case registerLowHalfRead => exact h.congr rfl rfl rfl
  case hostRamAccess => exact h.hostAccess _ _
  case ramContentDisturbed => exact h.setRam (wf_disturb h.both.1 _ _)
  case requestScan => exact h.scanToEnd _
  case setClock | restartSchedule | resumeSchedule | setWatch | swapBook | setFlags | holdStage | releaseStage
      | measureAmbient | abortAmbient | setAmbient | loopTest | setStation | readWindow | requestBadKind =>
    exact h.takeKind _ _ _
  case pollSent | ceilingSent => exact h.congr
  case replyTimeout => exact of_run (replyExpiry_quiet rfl h.both _ _)
  case loopFrameReceived | loopFrameSilence => exact h.loopFrame _ _
  case roundDeadline => exact h.roundDeadline
  case ackTimeout => exact of_run (ackExpiry_quiet rfl h.both _ _)
  case linkFrameReceived | linkFrameSilence => exact of_run (judgeAck_quiet rfl h.both _ _)
  case testFrameTimeout => exact h.testExpiry

end State.RamAndLine

/-- Settles O4: every RAM write keeps the canonical form, and what moves the head, the tail or INT_ENABLE drives the line. -/
theorem stepKeepsRamAndLine : Obligations.StepKeepsRamAndLine := by
  unfold Obligations.StepKeepsRamAndLine
  intro s t h ht
  unfold step at ht
  split at ht
  · cases ht
    exact h
  · next c rest _ =>
    have hs : State.RamAndLine { s with pending := rest } := ⟨h⟩
    exact (hs.exec c ht).both

end Sys2Proof.Machine

/-! SUPPORT. Writes of STATUS and NOTICE_TAIL (R178, R179, R192); O28 and O30. -/

namespace Sys2Proof.Machine

-- Proofs one at a time: those that wait side by side each hold a thread's stack.
set_option Elab.async false

variable {s : State} {high : Half}

/-! ### STATUS (R178) -/

/-- R191: bit 16 of a value written is bit 0 of its high half. -/
theorem bit_written (s : State) (high : Half) : bit (s.written high) 16 = high.getLsbD 0 := by
  have hlow := s.regs.writeLatch.isLt
  have hdiv : s.written high / 2 ^ 16 = high.toNat := by
    unfold State.written
    omega
  have hbit : (s.written high / 2 ^ 16).testBit 0 = (s.written high).testBit (16 + 0) := by
    rw [Nat.testBit_div_two_pow, Nat.add_comm]
  rw [hdiv] at hbit
  exact hbit.symm

/-- The state with the overrun flag as given. -/
def State.withOverrun (b : Bool) (s : State) : State := { s with notices := { s.notices with overrun := b } }

theorem writeStatus_overrun (v : Nat) (s : State) : s.writeStatus v = s.withOverrun (s.notices.overrun && !bit v 16) := by
  unfold State.writeStatus
  cases bit v 16 with
  | true => rw [if_pos rfl, Bool.not_true, Bool.and_false]; rfl
  | false => rw [if_neg Bool.false_ne_true, Bool.not_false, Bool.and_true]; rfl

/-- Settles O28. -/
theorem overrunClearedByOne : Obligations.OverrunClearedByOne := by
  unfold Obligations.OverrunClearedByOne
  intro s high hr
  have hreg : s.writeRegister .status high = s.writeStatus (s.written high) := if_neg hr
  rw [writeStatus_overrun, bit_written] at hreg
  exact congrArg Host.Outcome.next hreg

/-! ### NOTICE_TAIL (R179) -/

/-- The state with the tail as given. -/
def State.withTail (tail : BitVec 8) (s : State) : State := { s with notices := { s.notices with tail := tail } }

theorem writeNoticeTail_le {v : Nat} (h : v ≤ 255) (s : State) : s.writeNoticeTail v = (s.withTail (BitVec.ofNat 8 v)).driveIrq :=
  if_pos h

theorem writeNoticeTail_gt {v : Nat} (h : 255 < v) (s : State) : s.writeNoticeTail v = s := if_neg (not_le.2 h)

/-- Settles O30. -/
theorem tailWriteReplacesTheTail : Obligations.TailWriteReplacesTheTail := by
  unfold Obligations.TailWriteReplacesTheTail
  intro s high hr
  have hreg : s.writeRegister .noticeTail high = s.writeNoticeTail (s.written high) := if_neg hr
  refine ⟨fun h => ?_, fun h => ?_⟩
  · have hline : irqLevel s.notices.head (BitVec.ofNat 8 (s.written high)) s.run.intBit =
        (s.run.intBit && decide (s.notices.head ≠ BitVec.ofNat 8 (s.written high))) := Bool.and_comm _ _
    rw [writeNoticeTail_le h] at hreg
    rw [← hline]
    exact congrArg Host.Outcome.next hreg
  · rw [writeNoticeTail_gt h] at hreg
    exact congrArg Host.Outcome.next hreg

end Sys2Proof.Machine

/-! SUPPORT. A notice written whole or lost (R178), and a condition transition (R180); O57. -/

namespace Sys2Proof.Machine

-- Proofs one at a time: those that wait side by side each hold a thread's stack.
set_option Elab.async false

variable {s : State}

/-! ### Notices (R178, R179) -/

/-- R178: with 255 unread notices a notice is lost. -/
theorem post_lost (h : s.notices.head + 1 = s.notices.tail) (kind subject detail : Nat) :
    s.post kind subject detail = s.withOverrun true := if_pos h

/-- R178, R179: otherwise it is written at the head, and the line follows INT_ENABLE. -/
theorem post_written (h : s.notices.head + 1 ≠ s.notices.tail) (kind subject detail : Nat) :
    s.post kind subject detail =
      { s with
        ram := s.ram.writeBytes (0x2400 + 16 * s.notices.head.toNat) (noticeBytes s.notices.seq.toNat kind subject s.clock detail)
        notices := { s.notices with head := s.notices.head + 1, seq := s.notices.seq + 1, irq := s.run.intBit } } := by
  have hline : irqLevel (s.notices.head + 1) s.notices.tail s.run.intBit = s.run.intBit := by
    unfold irqLevel
    rw [decide_eq_true h, Bool.true_and]
  unfold State.post
  rw [if_neg h]
  unfold State.driveIrq
  dsimp only
  rw [hline]
  rfl

theorem length_noticeBytes (seq kind subject clock detail : Nat) : (noticeBytes seq kind subject clock detail).length = 16 := by
  simp [noticeBytes]

/-- R178: the last four bytes of a notice are 0. -/
theorem readLe_notice_end {m : Memory} (h : m.wf = true) (a seq kind subject clock detail : Nat) :
    (m.writeBytes a (noticeBytes seq kind subject clock detail)).readLe (a + 12) 4 = 0 :=
  (readLe_writeBytes_field h a _ (off := 12) (n := 4) (by rw [length_noticeBytes])).trans (leNat_leBytes 4 0)

/-- R190: bytes written have good parity. -/
theorem badAt_writeBytes_inside (m : Memory) (a : Nat) (bs : List Byte) {x : Nat} (h1 : a ≤ x) (h2 : x < a + bs.length) :
    (m.writeBytes a bs).badAt x = false := by
  rw [badAt_writeBytes, decide_eq_false (by omega), Bool.and_false]

/-! ### Condition transitions (R180) -/

/-- R180, step 3: the edge selection asks for a notice of a transition to `now`. -/
def EdgeSelection.asks (e : EdgeSelection) (now : Bool) : Prop :=
  match e with
  | .none => False
  | .enter => now = true
  | .leave => now = false
  | .both => True

theorem EdgeSelection.asks_iff (e : EdgeSelection) (now : Bool) : e.asks now ↔ e.selects now = true := by
  cases e with
  | none => exact iff_of_false id Bool.false_ne_true
  | enter => exact Iff.rfl
  | leave => exact Iff.of_eq (Bool.not_eq_true' now).symm
  | both => exact iff_of_true trivial rfl

/-- R180, step 1: the subject's state set. -/
def State.holding (cls : CondClass) (subject : Fin 16) (now : Bool) (s : State) : State :=
  { s with notices := { s.notices with conds := upd s.notices.conds cls.ix (upd s.notices.conds[cls.ix] subject now) } }

variable {cls : CondClass} {subject : Fin 16} {now : Bool}

theorem report_held (h : s.notices.conds[cls.ix][subject] = now) (value : Nat) : s.report cls subject now value = s := if_pos h

theorem report_silent (h : s.notices.conds[cls.ix][subject] ≠ now) (ha : ¬ s.notices.edges[cls.ix].asks now) (value : Nat) :
    s.report cls subject now value = s.holding cls subject now := by
  rw [EdgeSelection.asks_iff] at ha
  exact (if_neg h).trans (if_neg ha)

/-- R180, step 2: the number of subjects of a class in the condition, as the detail of the notice holds it. -/
theorem condDetail_count (v : Vector Bool 16) (now : Bool) (value : Nat) :
    condDetail now (condCount v) value =
      boolCode now + 256 * ((List.finRange 16).countP fun j => v[j]) + 65536 * (value % 65536) := by
  have hall : allStations = List.finRange 16 := by decide
  have hcount : condCount v < 256 := lt_of_le_of_lt List.countP_le_length (by decide)
  unfold condDetail
  rw [Nat.mod_eq_of_lt hcount]
  unfold condCount
  rw [hall]

theorem report_noticed (h : s.notices.conds[cls.ix][subject] ≠ now) (ha : s.notices.edges[cls.ix].asks now) (value : Nat) :
    s.report cls subject now value =
      (s.holding cls subject now).post (cls.ix.val + 1) subject.val
        (boolCode now + 256 * ((List.finRange 16).countP fun j => (s.report cls subject now value).notices.conds[cls.ix][j]) +
          65536 * (value % 65536)) := by
  rw [EdgeSelection.asks_iff] at ha
  have hpost : s.report cls subject now value =
      (s.holding cls subject now).post (cls.ix.val + 1) subject.val
        (condDetail now (condCount (upd s.notices.conds[cls.ix] subject now)) value) := (if_neg h).trans (if_pos ha)
  have hrow : (s.report cls subject now value).notices.conds[cls.ix] = upd s.notices.conds[cls.ix] subject now := by
    rw [hpost, post_conds]
    exact upd_same _ _ _
  rw [hrow, ← condDetail_count]
  exact hpost

/-- Settles O57. -/
theorem noticesAreWrittenOrLost : Obligations.NoticesAreWrittenOrLost := by
  unfold Obligations.NoticesAreWrittenOrLost
  refine ⟨fun s kind subject detail hw => ⟨fun h => ?_, fun h => post_lost h kind subject detail⟩,
    fun s cls subject now value => ⟨fun h => report_held h value, fun h =>
      ⟨report_cond_same cls subject now value s, fun ha => report_silent h ha value, fun ha => report_noticed h ha value⟩⟩⟩
  have hkeep := keeps_post hw kind subject detail
  have heq := post_written h kind subject detail
  obtain ⟨hseq, hkind, hsub, hclock, hdetail⟩ :=
    readLe_notice hw (0x2400 + 16 * s.notices.head.toNat) s.notices.seq.toNat kind subject s.clock detail
  have hend := readLe_notice_end hw (0x2400 + 16 * s.notices.head.toNat) s.notices.seq.toNat kind subject s.clock detail
  have hbad := fun b => badAt_writeBytes_inside s.ram (0x2400 + 16 * s.notices.head.toNat)
    (noticeBytes s.notices.seq.toNat kind subject s.clock detail) (x := b)
  rw [length_noticeBytes] at hbad
  rw [Nat.mod_eq_of_lt s.notices.seq.isLt] at hseq
  have hram := congrArg State.ram heq
  dsimp only at hram ⊢
  rw [← hram] at hseq hkind hsub hclock hdetail hend
  refine ⟨hseq, hkind, hsub, hclock, hdetail, hend, fun b h1 h2 => ?_, hkeep, ?_⟩
  · rw [hram]
    exact hbad b h1 h2
  · rw [hram]
    exact heq

end Sys2Proof.Machine

/-! SUPPORT. Compliance records in shared RAM (R187, R189): where they lie, the archive index, and one record written, dropped or
written over the oldest. -/

namespace Sys2Proof.Machine

-- Proofs one at a time: those that wait side by side each hold a thread's stack.
set_option Elab.async false

variable {s t : State} {m k : Memory}

/-! ### The places of the records (Table 9-1) -/

/-- The address of the record of an index. -/
def logRecordAt (i : BitVec 10) : Nat := 0x5400 + 32 * i.toNat

/-- A byte of the record of an index. -/
def inLogRecord (i : BitVec 10) (a : Nat) : Prop := logRecordAt i ≤ a ∧ a < logRecordAt i + 32

/-- A byte of the write index in the log header. -/
def inWriteIndex (a : Nat) : Prop := a = 0x0240 ∨ a = 0x0241

theorem inLogRecord_ge {i : BitVec 10} {a : Nat} (h : inLogRecord i a) : 0x5400 ≤ a := by
  unfold inLogRecord logRecordAt at h
  omega

/-- Records of different indices have no byte in common. -/
theorem inLogRecord_unique {i j : BitVec 10} {a : Nat} (hi : inLogRecord i a) (hj : inLogRecord j a) : i = j := by
  unfold inLogRecord logRecordAt at hi hj
  exact BitVec.eq_of_toNat_eq (by omega)

/-! ### The archive index (R187) -/

/-- R187: the archive index as the header of the log gives it. -/
theorem archiveIndex_eq (s : State) :
    s.archiveIndex =
      if s.ram.badAt 0x0242 = true ∨ s.ram.badAt 0x0243 = true ∨ 1023 < s.ram.readLe 0x0242 2 then s.log.writeIdx + 1
      else BitVec.ofNat 10 (s.ram.readLe 0x0242 2) := by
  have hp : s.ram.parityError 0x0242 2 = (s.ram.badAt 0x0242 || s.ram.badAt 0x0243) := by
    unfold Memory.parityError Memory.parityError Memory.parityError
    rw [Bool.or_false]
  have hc : (s.ram.parityError 0x0242 2 || decide (1023 < s.ram.readLe 0x0242 2)) = true ↔
      s.ram.badAt 0x0242 = true ∨ s.ram.badAt 0x0243 = true ∨ 1023 < s.ram.readLe 0x0242 2 := by
    rw [hp, Bool.or_eq_true, Bool.or_eq_true, decide_eq_true_eq, or_assoc]
  exact if_congr hc rfl rfl

/-- The header of the log holds the archive index `v`, readable and in range. -/
def archives (m : Memory) (v : Nat) : Prop :=
  m.badAt 0x0242 = false ∧ m.badAt 0x0243 = false ∧ m.readLe 0x0242 2 = v ∧ v ≤ 1023

theorem archiveIndex_of_archives {v : Nat} (h : archives s.ram v) : s.archiveIndex = BitVec.ofNat 10 v := by
  obtain ⟨hlow, hhigh, hread, hv⟩ := h
  rw [archiveIndex_eq, hlow, hhigh, hread, if_neg (by simpa using hv)]

theorem archives_congr {p : Nat → Prop} {v : Nat} (hk : keepsOutside p m k) (hlow : ¬ p 0x0242) (hhigh : ¬ p 0x0243)
    (h : archives m v) : archives k v := by
  obtain ⟨hl, hh, hread, hv⟩ := h
  have hsame : k.readLe 0x0242 2 = m.readLe 0x0242 2 := readLe_congr _ _ fun x h1 h2 => by
    obtain rfl | rfl : x = 0x0242 ∨ x = 0x0243 := by omega
    · exact (hk _ hlow).1
    · exact (hk _ hhigh).1
  exact ⟨(hk _ hlow).2.trans hl, (hk _ hhigh).2.trans hh, hsame.trans hread, hv⟩

/-! ### A record written (R187, R189) -/

/-- From `s` to `t` the record `bytes` is written at the write index, which advances, in the header as well; a notice is written at
most besides. -/
structure State.Records (s t : State) (bytes : List Byte) : Prop where
  wf : t.ram.wf = true
  record : t.ram.read (logRecordAt s.log.writeIdx) 32 = bytes
  header : t.ram.readLe 0x0240 2 = (s.log.writeIdx + 1).toNat
  log : t.log = { s.log with writeIdx := s.log.writeIdx + 1, full := false, half := t.log.half }
  keeps : keepsOutside (fun a => inLogRecord s.log.writeIdx a ∨ inWriteIndex a ∨ inNextNotice s.notices a) s.ram t.ram

/-- R189: the two flags of the occupancy brought up to date. -/
def LogWriter.measured (n : Nat) (g : LogWriter) : LogWriter :=
  { g with half := decide (512 ≤ n), full := g.full && decide (1023 ≤ n) }

theorem readOccupancy_eq (s : State) :
    s.readOccupancy =
      ({ s with log := s.log.measured s.occupancy } : State).report .logHalf 0 (decide (512 ≤ s.occupancy)) s.occupancy := rfl

theorem readOccupancy_log (s : State) : s.readOccupancy.log = s.log.measured s.occupancy := by
  rw [readOccupancy_eq, report_log]

theorem keeps_readOccupancy (h : s.ram.wf = true) : keepsOutside (inNextNotice s.notices) s.ram s.readOccupancy.ram :=
  keeps_report (s := { s with log := s.log.measured s.occupancy }) h _ _ _ _

/-- A record and the write index after it, put into shared RAM. -/
def Memory.withRecord (i : BitVec 10) (bytes : List Byte) (m : Memory) : Memory :=
  (m.writeBytes (logRecordAt i) bytes).writeLe 0x0240 2 (i + 1).toNat

/-- The write index advanced past a record, with the full flag clear. -/
def LogWriter.advanced (g : LogWriter) : LogWriter := { g with writeIdx := g.writeIdx + 1, full := false }

theorem putRecord_eq (bytes : List Byte) (s : State) :
    s.putRecord bytes =
      ({ s with ram := s.ram.withRecord s.log.writeIdx bytes, log := s.log.advanced } : State).readOccupancy := rfl

theorem putRecord_records (hw : s.ram.wf = true) {bytes : List Byte} (hl : bytes.length = 32) : s.Records (s.putRecord bytes) bytes := by
  have hrec := wf_writeBytes hw (logRecordAt s.log.writeIdx) bytes
  have hmem : (s.ram.withRecord s.log.writeIdx bytes).wf = true := wf_writeLe hrec _ _ _
  have hbelow := (s.log.writeIdx + 1).isLt
  have hocc := keeps_readOccupancy (s := { s with ram := s.ram.withRecord s.log.writeIdx bytes, log := s.log.advanced }) hmem
  have hout : ∀ a, a < 0x2400 ∨ 0x3400 ≤ a → ¬ inNextNotice s.notices a := fun a ha hn => by
    have hq := inNextNotice_queue hn
    unfold inNoticeQueue at hq
    omega
  have hindex := keeps_writeLe hrec 0x0240 2 (s.log.writeIdx + 1).toNat
  rw [putRecord_eq]
  refine ⟨wf_report hmem _ _ _ _, ?_, ?_, ?_, ?_⟩
  · have hread := read_writeBytes hw (logRecordAt s.log.writeIdx) bytes
    rw [hl] at hread
    refine Eq.trans (read_congr _ _ fun x h1 h2 => ?_) hread
    have hx := inLogRecord_ge (i := s.log.writeIdx) ⟨h1, h2⟩
    exact (hocc x (hout x (by omega))).1.trans (hindex x (by omega)).1
  · refine (readLe_congr _ _ fun x h1 h2 => (hocc x (hout x (by omega))).1).trans ((readLe_writeLe hrec _ _ _).trans ?_)
    exact Nat.mod_eq_of_lt (by omega)
  · rw [readOccupancy_log]
    rfl
  · have hboth :
        keepsOutside (fun a => inLogRecord s.log.writeIdx a ∨ inWriteIndex a) s.ram (s.ram.withRecord s.log.writeIdx bytes) := by
      refine keepsOutside_trans (keeps_writeBytes hw _ bytes) hindex (fun a ha => .inl ?_) fun a ha => .inr ?_
      · rw [hl] at ha
        exact ha
      · unfold inWriteIndex
        omega
    exact keepsOutside_trans hboth hocc (fun a ha => ha.imp_right .inl) fun a ha => .inr (.inr ha)

/-! ### The three ends of a record (R187) -/

theorem writeRecord_room (h : s.log.writeIdx + 1 ≠ s.archiveIndex) (bytes : List Byte) (given : Nat) :
    s.writeRecord bytes given = (s.putRecord bytes, given) := if_pos h

/-- R187, KEEP_OLDEST: the record is dropped, and LOG_FULL told when the log was not yet full. -/
theorem writeRecord_dropped (h : s.log.writeIdx + 1 = s.archiveIndex) (hm : s.log.mode = .keepOldest) (bytes : List Byte)
    (given : Nat) :
    s.writeRecord bytes given =
      (if s.log.full then s else ({ s with log := { s.log with full := true } } : State).postLogFull s.log.writeIdx.toNat, given) := by
  unfold State.writeRecord
  rw [if_neg (not_not.2 h), hm]
  cases s.log.full <;> rfl

/-- R187, KEEP_NEWEST: the archive index moves past the oldest record. -/
theorem writeRecord_over (h : s.log.writeIdx + 1 = s.archiveIndex) (hm : s.log.mode = .keepNewest) (bytes : List Byte)
    (given : Nat) :
    s.writeRecord bytes given =
      ((s.setRam (s.ram.writeLe 0x0242 2 (s.archiveIndex + 1).toNat)).putRecord bytes, given + 1) := by
  unfold State.writeRecord
  rw [if_neg (not_not.2 h), hm]
  rfl

end Sys2Proof.Machine

/-! SUPPORT. The records of a minute and the emptying of the accumulators (R184, R185), and O58. -/

namespace Sys2Proof.Machine

-- Proofs one at a time: those that wait side by side each hold a thread's stack.
set_option Elab.async false

variable {s t : State} {minute : Nat} {f : RecordFlags} {st : Station} {l : List Station} {v : Nat}

/-! ### The bytes of a record (Table 8-4) -/

theorem length_recordBytes (minute : Nat) (st : Station) (f : RecordFlags) (a : MinuteAccount) (r : Account) :
    (recordBytes minute st f a r).length = 32 := by
  simp [recordBytes]

/-- The number in the last 20 bytes of a record. -/
def recordWide (a : MinuteAccount) (r : Account) : Nat :=
  a.sumA % 2 ^ 38 + 2 ^ 38 * (a.sumC % 2 ^ 38) + 2 ^ 76 * ((r.a.s - r.n * r.a.pAmb) % 2 ^ 42) +
    2 ^ 118 * ((r.c.s - r.n * r.c.pAmb) % 2 ^ 42)

theorem recordWide_lt (a : MinuteAccount) (r : Account) : recordWide a r < 256 ^ 20 := by
  unfold recordWide
  omega

/-- The flags of a record (Table 8-4). -/
def recordFlagByte (f : RecordFlags) (a : MinuteAccount) : Nat :=
  boolCode a.exceed + 2 * boolCode a.held + 4 * boolCode f.clockSet + 8 * boolCode f.stopped

theorem recordFlagByte_lt (f : RecordFlags) (a : MinuteAccount) : recordFlagByte f a < 256 := by
  have hle : ∀ b : Bool, boolCode b ≤ 1 := by decide
  have h1 := hle a.exceed
  have h2 := hle a.held
  have h3 := hle f.clockSet
  have h4 := hle f.stopped
  unfold recordFlagByte
  omega

theorem recordBytes_eq (minute : Nat) (st : Station) (f : RecordFlags) (a : MinuteAccount) (r : Account) :
    recordBytes minute st f a r =
      leBytes 4 minute ++ leBytes 1 st.val ++ leBytes 1 (recordFlagByte f a) ++ leBytes 2 a.count ++ leBytes 2 a.lowest ++
        leBytes 2 r.n ++ leBytes 20 (recordWide a r) := rfl

/-- The fields of a record where it lies. -/
theorem readLe_record {m : Memory} {at' : Nat} {a : MinuteAccount} {r : Account}
    (h : m.read at' 32 = recordBytes minute st f a r) :
    m.readLe at' 4 = minute % 4294967296 ∧ m.readLe (at' + 4) 1 = st.val ∧ m.readLe (at' + 5) 1 = recordFlagByte f a ∧
      m.readLe (at' + 6) 2 = a.count % 65536 ∧ m.readLe (at' + 8) 2 = a.lowest % 65536 ∧ m.readLe (at' + 10) 2 = r.n % 65536 ∧
      m.readLe (at' + 12) 20 = recordWide a r := by
  have hfield : ∀ off n value, off + n ≤ 32 → ((recordBytes minute st f a r).drop off).take n = leBytes n value →
      m.readLe (at' + off) n = value % 256 ^ n := fun off n value hn hb => by
    rw [← field_read m at' 32 off n hn, h, field, hb, leNat_leBytes]
  have hst := st.isLt
  rw [recordBytes_eq] at hfield
  refine ⟨hfield 0 4 minute (by omega) rfl, (hfield 4 1 st.val (by omega) rfl).trans (Nat.mod_eq_of_lt (by omega)),
    (hfield 5 1 (recordFlagByte f a) (by omega) rfl).trans (Nat.mod_eq_of_lt (recordFlagByte_lt f a)),
    hfield 6 2 a.count (by omega) rfl, hfield 8 2 a.lowest (by omega) rfl, hfield 10 2 r.n (by omega) rfl,
    (hfield 12 20 (recordWide a r) (by omega) rfl).trans (Nat.mod_eq_of_lt (recordWide_lt a r))⟩

/-! ### The records of a minute (R185) -/

/-- From `s` to `t` the records of the stations `l` are written at the write index and after it, each of what its accumulator and its
account hold in `s`. -/
structure State.MinuteRecords (minute : Nat) (f : RecordFlags) (s t : State) (l : List Station) : Prop where
  wf : t.ram.wf = true
  poller : t.poller = s.poller
  acc : t.acc = s.acc
  accs : t.log.accs = s.log.accs
  writeIdx : t.log.writeIdx = s.log.writeIdx + BitVec.ofNat 10 l.length
  header : l ≠ [] → t.ram.readLe 0x0240 2 = t.log.writeIdx.toNat
  record : ∀ (j : Nat) (st : Station), l[j]? = some st →
    t.ram.read (logRecordAt (s.log.writeIdx + BitVec.ofNat 10 j)) 32 = recordBytes minute st f s.log.accs[st] s.acc.accts[st]
  keeps : keepsOutside
    (fun a => inWriteIndex a ∨ inNoticeQueue a ∨ ∃ j, j < l.length ∧ inLogRecord (s.log.writeIdx + BitVec.ofNat 10 j) a) s.ram t.ram

namespace State.MinuteRecords

theorem nil (hw : s.ram.wf = true) : s.MinuteRecords minute f s [] :=
  ⟨hw, rfl, rfl, rfl, (BitVec.add_zero _).symm, fun h => absurd rfl h, fun j st h => (by cases h), keepsOutside_refl _ _⟩

/-- Fewer than 1024 records on from the write index lie at indices of their own. -/
theorem index_ne {i : BitVec 10} {j n : Nat} (hj : j < n) (hn : n < 1024) : i + BitVec.ofNat 10 j ≠ i + BitVec.ofNat 10 n := by
  intro h
  have hnat := congrArg BitVec.toNat h
  rw [BitVec.toNat_add, BitVec.toNat_add, BitVec.toNat_ofNat, BitVec.toNat_ofNat] at hnat
  omega

/-- One record more. -/
theorem snoc (h : s.MinuteRecords minute f t l) (hl : l.length < 1024) (st : Station) :
    s.MinuteRecords minute f (t.putRecord (recordBytes minute st f t.log.accs[st] t.acc.accts[st])) (l ++ [st]) := by
  obtain ⟨-, -, -, hacc, -, hpoll, -⟩ := putRecord_keeps (recordBytes minute st f t.log.accs[st] t.acc.accts[st]) t
  have hput := putRecord_records h.wf (length_recordBytes minute st f t.log.accs[st] t.acc.accts[st])
  generalize t.putRecord (recordBytes minute st f t.log.accs[st] t.acc.accts[st]) = u at hput hacc hpoll
  have hnext : u.log.writeIdx = t.log.writeIdx + 1 := by rw [hput.log]
  have hqueue : ∀ a, inNextNotice t.notices a → inNoticeQueue a := fun a => inNextNotice_queue
  refine ⟨hput.wf, hpoll.trans h.poller, hacc.trans h.acc, ?_, ?_, fun _ => ?_, fun j o hj => ?_, ?_⟩
  · rw [hput.log]
    exact h.accs
  · rw [hnext, h.writeIdx, List.length_append, List.length_singleton, BitVec.add_assoc, BitVec.ofNat_add]
    rfl
  · rw [hput.header, hnext]
  · rcases Nat.lt_or_ge j l.length with hlt | hge
    · rw [List.getElem?_append_left hlt] at hj
      refine Eq.trans (read_congr _ _ fun x h1 h2 => (hput.keeps x ?_).1) (h.record j o hj)
      have hin : inLogRecord (s.log.writeIdx + BitVec.ofNat 10 j) x := ⟨h1, h2⟩
      have hge := inLogRecord_ge hin
      rintro (hx | hx | hx)
      · rw [h.writeIdx] at hx
        exact index_ne hlt hl (inLogRecord_unique hin hx)
      · unfold inWriteIndex at hx
        omega
      · have hq := hqueue x hx
        unfold inNoticeQueue at hq
        omega
    · have hone := (List.getElem?_eq_some_iff.1 hj).1
      rw [List.length_append, List.length_singleton] at hone
      obtain rfl : j = l.length := by omega
      rw [List.getElem?_append_right hge, Nat.sub_self] at hj
      obtain rfl : st = o := Option.some.inj hj
      rw [← h.writeIdx, hput.record, h.accs, h.acc]
  · refine keepsOutside_trans h.keeps hput.keeps (fun a ha => ?_) fun a ha => ?_
    · obtain hx | hx | ⟨j, hj, hx⟩ := ha
      · exact .inl hx
      · exact .inr (.inl hx)
      · exact .inr (.inr ⟨j, by rw [List.length_append]; omega, hx⟩)
    · obtain hx | hx | hx := ha
      · rw [h.writeIdx] at hx
        exact .inr (.inr ⟨l.length, by rw [List.length_append, List.length_singleton]; omega, hx⟩)
      · exact .inl hx
      · exact .inr (.inl (hqueue a hx))

theorem enabledStation (h : s.MinuteRecords minute f t l) (st : Station) : t.enabledStation st = s.enabledStation st := by
  unfold State.enabledStation
  rw [h.poller]

/-- No record of a minute touches the archive index. -/
theorem archives (h : s.MinuteRecords minute f t l) (ha : Machine.archives s.ram v) : Machine.archives t.ram v := by
  have hoff : ∀ a, a = 0x0242 ∨ a = 0x0243 → ¬ (inWriteIndex a ∨ inNoticeQueue a ∨
      ∃ j, j < l.length ∧ inLogRecord (s.log.writeIdx + BitVec.ofNat 10 j) a) := by
    rintro a ha (hx | hx | ⟨j, -, hx⟩)
    · unfold inWriteIndex at hx
      omega
    · unfold inNoticeQueue at hx
      omega
    · have hge := inLogRecord_ge hx
      omega
  exact archives_congr h.keeps (hoff _ (.inl rfl)) (hoff _ (.inr rfl)) ha

/-- R187: with fewer than 1023 unarchived records there is room for one more. -/
theorem room (h : s.MinuteRecords minute f t l) (ha : Machine.archives s.ram v)
    (hroom : (s.log.writeIdx - BitVec.ofNat 10 v).toNat + l.length < 1023) : t.log.writeIdx + 1 ≠ t.archiveIndex := by
  rw [archiveIndex_of_archives (h.archives ha), h.writeIdx]
  intro he
  have hnat := congrArg BitVec.toNat he
  rw [BitVec.toNat_add, BitVec.toNat_add, BitVec.toNat_ofNat, BitVec.toNat_ofNat] at hnat
  rw [BitVec.toNat_sub, BitVec.toNat_ofNat] at hroom
  have hone : (1 : BitVec 10).toNat = 1 := rfl
  omega

end State.MinuteRecords

/-- R185: one station's turn at the closing of a minute. -/
def recordTurn (minute : Nat) (f : RecordFlags) (p : State × Nat) (st : Station) : State × Nat :=
  if p.1.enabledStation st then p.1.writeRecord (recordBytes minute st f p.1.log.accs[st] p.1.acc.accts[st]) p.2 else p

theorem writeRecords_eq (minute : Nat) (f : RecordFlags) (s : State) :
    s.writeRecords minute f = allStations.foldl (recordTurn minute f) (s, 0) := rfl

/-- R185: while the log has room, each enabled station of a list gets its record, and none is given up. -/
theorem recordTurns (ha : archives s.ram v) {done : List Station} (h : s.MinuteRecords minute f t done)
    (hroom : (s.log.writeIdx - BitVec.ofNat 10 v).toNat + (done ++ l.filter fun st => s.enabledStation st).length ≤ 1023) :
    s.MinuteRecords minute f (l.foldl (recordTurn minute f) (t, 0)).1 (done ++ l.filter fun st => s.enabledStation st) ∧
      (l.foldl (recordTurn minute f) (t, 0)).2 = 0 := by
  induction l generalizing t done with
  | nil => exact ⟨by rw [List.filter_nil, List.append_nil]; exact h, rfl⟩
  | cons st l ih =>
    rw [List.foldl_cons]
    cases he : s.enabledStation st with
    | false =>
      have hturn : recordTurn minute f (t, 0) st = (t, 0) := if_neg (by rw [h.enabledStation, he]; exact Bool.false_ne_true)
      rw [List.filter_cons_of_neg (by rw [he]; exact Bool.false_ne_true)] at hroom ⊢
      rw [hturn]
      exact ih h hroom
    | true =>
      rw [List.filter_cons_of_pos he, List.append_cons] at hroom ⊢
      rw [List.length_append, List.length_append, List.length_singleton] at hroom
      have hturn : recordTurn minute f (t, 0) st = (t.putRecord (recordBytes minute st f t.log.accs[st] t.acc.accts[st]), 0) :=
        (if_pos (by rw [h.enabledStation, he])).trans (writeRecord_room (h.room ha (by omega)) _ 0)
      rw [hturn]
      refine ih (h.snoc (by omega) st) ?_
      rw [List.length_append, List.length_append, List.length_singleton]
      exact hroom

theorem writeRecords_records (hw : s.ram.wf = true) (ha : archives s.ram v)
    (hroom : (s.log.writeIdx - BitVec.ofNat 10 v).toNat + (allStations.filter fun st => s.enabledStation st).length ≤ 1023)
    (minute : Nat) (f : RecordFlags) :
    s.MinuteRecords minute f (s.writeRecords minute f).1 (allStations.filter fun st => s.enabledStation st) ∧
      (s.writeRecords minute f).2 = 0 := recordTurns ha (.nil hw) hroom

/-! ### The accumulators emptied (R184, R185) -/

/-- The minute that is open: its accumulators and its flag. -/
def LogWriter.openMinute (g : LogWriter) : Vector MinuteAccount 16 × Bool := (g.accs, g.minuteOpen)

theorem putRecord_minute (bytes : List Byte) (s : State) : (s.putRecord bytes).log.openMinute = s.log.openMinute := by
  rw [putRecord_eq, readOccupancy_log]
  rfl

theorem writeRecord_minute (bytes : List Byte) (given : Nat) (s : State) :
    (s.writeRecord bytes given).1.log.openMinute = s.log.openMinute := by
  by_cases h : s.log.writeIdx + 1 = s.archiveIndex
  · cases hm : s.log.mode with
    | keepOldest =>
      rw [writeRecord_dropped h hm]
      cases s.log.full with
      | true => rfl
      | false =>
        dsimp only
        rw [if_neg Bool.false_ne_true]
        have hlog := (postLogFull_keeps s.log.writeIdx.toNat { s with log := { s.log with full := true } }).2.2.2.2.2.2.2.2.2.2.1
        exact (congrArg LogWriter.openMinute hlog).trans rfl
    | keepNewest =>
      rw [writeRecord_over h hm]
      exact putRecord_minute _ _
  · rw [writeRecord_room h]
    exact putRecord_minute _ _

theorem writeRecords_minute (minute : Nat) (f : RecordFlags) (s : State) :
    (s.writeRecords minute f).1.log.openMinute = s.log.openMinute := by
  refine foldl_keeps (fun p : State × Nat => p.1.log.openMinute) (recordTurn minute f) (fun p st => ?_) allStations (s, 0)
  unfold recordTurn
  split
  · exact writeRecord_minute _ _ _
  · rfl

/-- A closure with the accumulators emptied. -/
def State.withEmptied (s : State) : State := { s with log := s.log.emptied }

theorem withEmptied_ram (s : State) : s.withEmptied.ram = s.ram := by rw [State.withEmptied]

theorem withEmptied_writeIdx (s : State) : s.withEmptied.log.writeIdx = s.log.writeIdx := by rw [State.withEmptied, LogWriter.emptied]

theorem withEmptied_minuteOpen (s : State) : s.withEmptied.log.minuteOpen = s.log.minuteOpen := by
  rw [State.withEmptied, LogWriter.emptied]

theorem withEmptied_accs (s : State) (st : Station) :
    s.withEmptied.log.accs[st] = MinuteAccount.empty s.log.accs[st].lastExceed := by
  rw [State.withEmptied, LogWriter.emptied]
  exact ofFn_get _ st

theorem withEmptied_only (s : State) : s.withEmptied = { s with log := s.withEmptied.log } := by rw [State.withEmptied]

/-- R185: no driving closure folded, no record. -/
theorem closeMinute_unfolded (ho : s.log.minuteOpen = true) (hf : s.log.folded = 0) (minute : Nat) (f : RecordFlags) :
    s.closeMinute minute f = s.withEmptied := by
  unfold State.closeMinute
  rw [if_pos ho, if_pos hf]
  rfl

/-- R185, R188: a driving closure folded: the records, LOG_WRAP when some were given up, and the accumulators emptied. -/
theorem closeMinute_folded (ho : s.log.minuteOpen = true) (hf : s.log.folded ≠ 0) (minute : Nat) (f : RecordFlags) :
    s.closeMinute minute f =
      (let p := s.writeRecords minute f
       if p.2 = 0 then p.1 else p.1.postLogWrap p.2 p.1.archiveIndex.toNat).withEmptied := by
  unfold State.closeMinute
  rw [if_pos ho, if_neg hf]
  rfl

/-- R185: every closure empties the accumulators that it finds. -/
theorem closeMinute_log (ho : s.log.minuteOpen = true) (minute : Nat) (f : RecordFlags) :
    ∃ u : State, s.closeMinute minute f = u.withEmptied ∧ u.log.openMinute = s.log.openMinute := by
  by_cases hf : s.log.folded = 0
  · exact ⟨s, closeMinute_unfolded ho hf minute f, rfl⟩
  · refine ⟨_, closeMinute_folded ho hf minute f, ?_⟩
    have hmin := writeRecords_minute minute f s
    generalize s.writeRecords minute f = p at hmin
    dsimp only
    split
    · exact hmin
    · exact (congrArg LogWriter.openMinute (postLogWrap_keeps p.2 p.1.archiveIndex.toNat p.1).2.2.2.2.2.2.2.2.2.2.1).trans hmin

/-! ### O58 -/

/-- R187: what a record written leaves where it lies, in the header and in the log. -/
theorem State.Records.written {bytes : List Byte} (h : s.Records t bytes) :
    t.ram.read (0x5400 + 32 * s.log.writeIdx.toNat) 32 = bytes ∧ t.ram.readLe 0x0240 2 = (s.log.writeIdx + 1).toNat ∧
      t.log.writeIdx = s.log.writeIdx + 1 ∧ t.log.full = false :=
  ⟨h.record, h.header, by rw [h.log], by rw [h.log]⟩

/-- R187: the archive index that KEEP_NEWEST writes stays as the record is written. -/
theorem over_archive (hw : s.ram.wf = true) {bytes : List Byte} {i : BitVec 10}
    (h : (s.setRam (s.ram.writeLe 0x0242 2 i.toNat)).Records t bytes) : t.ram.readLe 0x0242 2 = i.toNat := by
  have hi := i.isLt
  refine (readLe_congr _ _ fun x h1 h2 => (h.keeps x ?_).1).trans ((readLe_writeLe hw _ _ _).trans (Nat.mod_eq_of_lt (by omega)))
  rintro (hx | hx | hx)
  · have hge := inLogRecord_ge hx
    omega
  · unfold inWriteIndex at hx
    omega
  · have hq := inNextNotice_queue hx
    unfold inNoticeQueue at hq
    omega

/-- R185: while the log has room, a closure with a driving closure folded writes the records and nothing more. -/
theorem closeMinute_records (ho : s.log.minuteOpen = true) (hf : s.log.folded ≠ 0) (hw : s.ram.wf = true) (ha : archives s.ram v)
    (hroom : (s.log.writeIdx - BitVec.ofNat 10 v).toNat + (allStations.filter fun st => s.enabledStation st).length ≤ 1023)
    (minute : Nat) (f : RecordFlags) :
    ∃ u : State, s.closeMinute minute f = u.withEmptied ∧
      s.MinuteRecords minute f u (allStations.filter fun st => s.enabledStation st) := by
  obtain ⟨hrec, hgiven⟩ := writeRecords_records hw ha hroom minute f
  refine ⟨_, (closeMinute_folded ho hf minute f).trans ?_, hrec⟩
  dsimp only
  rw [if_pos hgiven]

/-- Settles O58: one record by the room that the archive index leaves, and a minute as one record after the other, each at an index of
its own. -/
theorem recordsFillTheLog : Obligations.RecordsFillTheLog := by
  unfold Obligations.RecordsFillTheLog
  refine ⟨fun s bytes given hw hl => ?_, fun s minute f hw ho hf hlow hhigh hv hroom => ?_, fun s minute f ho => ?_⟩
  · dsimp only
    rw [← archiveIndex_eq]
    refine ⟨fun h => ?_, fun h => ⟨fun hm => ?_, fun hm => ?_⟩⟩
    · have hput := putRecord_records hw hl
      rw [writeRecord_room h]
      refine ⟨hput.written, rfl, fun a ha => hput.keeps a fun hx => ha (hx.imp_right or_assoc.1)⟩
    · rw [writeRecord_dropped h hm]
      exact ⟨rfl, rfl⟩
    · have hput := putRecord_records (s := s.setRam (s.ram.writeLe 0x0242 2 (s.archiveIndex + 1).toNat)) (wf_writeLe hw _ _ _) hl
      rw [writeRecord_over h hm]
      exact ⟨hput.written, rfl, over_archive hw hput⟩
  · obtain ⟨u, ht, hrec⟩ := closeMinute_records ho hf hw ⟨hlow, hhigh, rfl, hv⟩ hroom minute f
    rw [ht]
    dsimp only
    rw [withEmptied_writeIdx, withEmptied_ram]
    exact ⟨hrec.writeIdx, hrec.header, fun j st hj => readLe_record (hrec.record j st hj), hrec.keeps⟩
  · obtain ⟨u, ht, hu⟩ := closeMinute_log ho minute f
    have haccs : u.log.accs = s.log.accs := congrArg Prod.fst hu
    have hopen : u.log.minuteOpen = s.log.minuteOpen := congrArg Prod.snd hu
    refine ⟨by rw [ht]; rfl, by rw [ht, withEmptied_minuteOpen, hopen, ho], fun st => ?_, fun hf => ?_⟩
    · rw [ht, ← haccs]
      exact withEmptied_accs u st
    · rw [closeMinute_unfolded ho hf]
      exact ⟨withEmptied_only s, withEmptied_writeIdx s⟩

end Sys2Proof.Machine

/-! SUPPORT. A disturbed byte of shared RAM (R190) and the low-half accesses of the register window (R191, R192); O32 and O26. -/

namespace Sys2Proof.Machine

-- Proofs one at a time: those that wait side by side each hold a thread's stack.
set_option Elab.async false

variable {s : State} {m : Memory} {reg : Reg}

/-! ### A disturbed byte (R190) -/

/-- R190: a disturbance reaches the byte that it names and no other. -/
theorem keeps_disturb (h : m.wf = true) (a : Nat) (b : Byte) : keepsOutside (fun x => x = a) m (m.disturb a b) := fun x hx =>
  ⟨by rw [byte_disturb h, if_neg hx], by rw [badAt_disturb, decide_eq_false hx, Bool.or_false]⟩

theorem disturb_stores (h : m.wf = true) (a : Nat) (b : Byte) : (m.disturb a b).byte a = b ∧ (m.disturb a b).badAt a = true :=
  ⟨by rw [byte_disturb h, if_pos rfl], by rw [badAt_disturb, decide_eq_true rfl, Bool.or_true]⟩

/-- R190: a byte written holds good parity, whatever it held before. -/
theorem write_stores (h : m.wf = true) (a : Nat) (b : Byte) : (m.write a b).byte a = b ∧ (m.write a b).badAt a = false :=
  ⟨by rw [byte_write h, if_pos rfl], by rw [badAt_write, decide_eq_false (not_not.2 rfl), Bool.and_false]⟩

/-- Settles O32: a disturbed RAM is as canonical as it was, so a write to it mends the byte's parity as it does anywhere. -/
theorem disturbedByteHasBadParity : Obligations.DisturbedByteHasBadParity := by
  unfold Obligations.DisturbedByteHasBadParity
  intro s addr content hw
  obtain ⟨hbyte, hbad⟩ := disturb_stores hw addr.toNat content
  exact ⟨s.setRam (s.ram.disturb addr.toNat content), rfl, rfl, hbyte, hbad, keeps_disturb hw addr.toNat content,
    write_stores (wf_disturb hw addr.toNat content) addr.toNat⟩

/-! ### Values of the registers (Table 9-10) -/

/-- R167: what bit 18 of STATUS stands for. -/
theorem muteActive_iff :
    s.muteActive = true ↔
      ∃ k : Stage, s.gain.stages[k].immediate.isSome = true ∨ s.gain.stages[k].ambient.isSome = true := by
  unfold State.muteActive
  rw [List.any_eq_true]
  exact ⟨fun ⟨k, _, h⟩ => ⟨k, Bool.or_eq_true_iff.1 h⟩, fun ⟨k, h⟩ => ⟨k, mem_allStages k, Bool.or_eq_true_iff.2 h⟩⟩

/-- Table 9-10: STATUS below the bit of the mute. -/
def State.statusBelowMute (s : State) : Nat :=
  s.run.state.code + 16 * s.walker.state.code + 256 * s.run.error.code + 65536 * boolCode s.notices.overrun
    + 131072 * boolCode s.log.full

theorem statusValue_muted (h : s.muteActive = true) : s.statusValue = s.statusBelowMute + 262144 :=
  congrArg (fun b => s.statusBelowMute + 262144 * boolCode b) h

theorem statusValue_unmuted (h : s.muteActive = false) : s.statusValue = s.statusBelowMute :=
  congrArg (fun b => s.statusBelowMute + 262144 * boolCode b) h

/-- R159: in RESET_BUSY every register reads 0. -/
theorem registerValue_resetBusy (h : s.run.state = .resetBusy) (reg : Reg) : s.registerValue reg = 0 := if_pos h

theorem registerValue_status (h : s.run.state ≠ .resetBusy) : s.registerValue .status = s.statusValue := if_neg h

/-! ### The low halves (R191) -/

theorem writeLowHalf_latches (hr : s.run.state ≠ .resetBusy) (hreg : reg ≠ .reserved) (value : Half) :
    s.writeLowHalf reg value = { s with regs := { s.regs with writeLatch := value } } :=
  if_neg (not_or.2 ⟨hr, hreg⟩)

/-- R191: a low half read gives the register's value to the bus and the read latch. -/
theorem exec_registerLowHalfRead {v : Nat} (h : s.registerValue reg = v) :
    exec (.registerLowHalfRead reg) s =
      .next { s with regs := { s.regs with bus := BitVec.ofNat 16 v, readLatch := BitVec.ofNat 16 (v / 65536) } } := by
  subst h
  rfl

/-- Settles O26: STATUS is the one register whose value depends on the mute; every other reads its row of Table 9-10. -/
theorem lowHalvesUseTheLatches : Obligations.LowHalvesUseTheLatches := by
  unfold Obligations.LowHalvesUseTheLatches
  intro s reg value
  refine ⟨fun hr => exec_registerLowHalfRead (registerValue_resetBusy hr reg), fun hr =>
    ⟨fun hreg => congrArg Host.Outcome.next (writeLowHalf_latches hr hreg value), fun hm => exec_registerLowHalfRead ?_,
      fun hreg hm => exec_registerLowHalfRead ?_⟩⟩
  · cases reg with
    | status =>
      have hmute : s.muteActive = false := Bool.eq_false_iff.2 fun h => hm ⟨rfl, muteActive_iff.1 h⟩
      exact (registerValue_status hr).trans (statusValue_unmuted hmute)
    | ident | control | attention | noticeHead | noticeTail | showClock | reserved => exact if_neg hr
  · subst hreg
    exact (registerValue_status hr).trans (statusValue_muted (muteActive_iff.2 hm))

end Sys2Proof.Machine

/-! SUPPORT. The regions of shared RAM that Table 9-1 names the part as a writer of, through every operation of the part, and O3. -/

namespace Sys2Proof.Machine

-- Proofs one at a time: those that wait side by side each hold a thread's stack.
set_option Elab.async false

variable {s t : State} {m : Memory} {p : Nat → Prop} {rs : List Result}

/-! ### The regions (Table 9-1) -/

theorem scratch_partWrites {a : Nat} (h : scratch a) : partWrites a := by
  unfold scratch at h
  unfold partWrites
  tauto

theorem queue_partWrites {a : Nat} (h : inNoticeQueue a) : partWrites a := scratch_partWrites (.inl h)

/-- Record, index and notice of a minute's closure lie in the log and in the notice queue. -/
theorem record_partWrites {i : BitVec 10} {n : NoticeWriter} {a : Nat} (h : inLogRecord i a ∨ inWriteIndex a ∨ inNextNotice n a) :
    partWrites a := by
  obtain h | h | h := h
  · have hlt := i.isLt
    unfold inLogRecord logRecordAt at h
    unfold partWrites inLog
    omega
  · unfold inWriteIndex at h
    unfold partWrites inLog
    omega
  · exact queue_partWrites (inNextNotice_queue h)

/-- The RAM is canonical, and is what `m` was but for the regions that the part writes. -/
structure State.Confined (m : Memory) (s : State) : Prop where
  wf : s.ram.wf = true
  keeps : keepsOutside partWrites m s.ram

namespace State.Confined

theorem refl (hw : s.ram.wf = true) : s.Confined s.ram := ⟨hw, keepsOutside_refl _ _⟩

/-- An operation whose writes lie in the part's regions. -/
theorem after (h : s.Confined m) (hw : t.ram.wf = true) (hk : keepsOutside p s.ram t.ram) (hp : ∀ a, p a → partWrites a) :
    t.Confined m := ⟨hw, keepsOutside_trans h.keeps hk (fun _ ha => ha) hp⟩

theorem congr (h : s.Confined m) (hr : t.ram = s.ram := by simp) : t.Confined m :=
  ⟨by rw [hr]; exact h.wf, by rw [hr]; exact h.keeps⟩

theorem tidy (h : s.Confined m) : s.Tidy s.ram s.log.writeIdx s.scanner.scan s.scanner.flags :=
  ⟨h.wf, keepsOutside_refl _ _, rfl, rfl, rfl⟩

/-- An operation that writes notices, slots and the fault record alone. -/
theorem of_tidy {n : BitVec 10} {scan : Option Scan} {flags : BitVec 8} (h : s.Confined m) (ht : t.Tidy s.ram n scan flags) :
    t.Confined m := h.after ht.wf ht.keeps fun _ => scratch_partWrites

theorem withPoller (h : s.Confined m) (q : Poller) : State.Confined m { s with poller := q } := h.congr rfl

theorem withScanner (h : s.Confined m) (c : Scanner) : State.Confined m { s with scanner := c } := h.congr rfl

theorem withRun (h : s.Confined m) (r : RunControl) : State.Confined m { s with run := r } := h.congr rfl

theorem withAcc (h : s.Confined m) (a : Accumulator) : State.Confined m { s with acc := a } := h.congr rfl

theorem withWalker (h : s.Confined m) (w : Walker) : State.Confined m { s with walker := w } := h.congr rfl

theorem withBook (h : s.Confined m) (b : BookStore) : State.Confined m { s with book := b } := h.congr rfl

theorem withLog (h : s.Confined m) (g : LogWriter) : State.Confined m { s with log := g } := h.congr rfl

/-- A number written within one of the part's regions. -/
theorem writeLe (h : s.Confined m) (a n v : Nat) (hin : ∀ x, a ≤ x → x < a + n → partWrites x) :
    State.Confined m (s.setRam (s.ram.writeLe a n v)) :=
  h.after (t := s.setRam _) (wf_writeLe h.wf a n v) (keeps_writeLe h.wf a n v) fun x hx => hin x hx.1 hx.2

/-! ### Notices and the log (R178, R185 to R189) -/

theorem post (h : s.Confined m) (kind sub detail : Nat) : (s.post kind sub detail).Confined m := h.of_tidy (h.tidy.post _ _ _)

theorem report (h : s.Confined m) (cls : CondClass) (sub : Fin 16) (now : Bool) (v : Nat) : (s.report cls sub now v).Confined m :=
  h.of_tidy (h.tidy.report _ _ _ _)

theorem writeHeader (h : s.Confined m) (a n v : Nat) (ha : 0x0240 ≤ a ∧ a + n ≤ 0x0280) :
    State.Confined m (s.setRam (s.ram.writeLe a n v)) :=
  h.writeLe a n v fun x h1 h2 => by
    unfold partWrites inLog
    omega

theorem putRecord (h : s.Confined m) {bytes : List Byte} (hl : bytes.length = 32) : (s.putRecord bytes).Confined m :=
  have hrec := putRecord_records h.wf hl
  h.after hrec.wf hrec.keeps fun _ => record_partWrites

theorem writeRecord (h : s.Confined m) {bytes : List Byte} (hl : bytes.length = 32) (given : Nat) :
    (s.writeRecord bytes given).1.Confined m := by
  unfold State.writeRecord
  repeat' split
  · exact h.putRecord hl
  · exact h
  · exact (h.withLog _).post _ _ _
  · exact (h.writeHeader 0x0242 2 _ (by omega)).putRecord hl

theorem writeRecords (h : s.Confined m) (minute : Nat) (f : RecordFlags) : (s.writeRecords minute f).1.Confined m := by
  refine foldl_preserves (fun q : State × Nat => q.1.Confined m) _ (fun q st hq => ?_) allStations (s, 0) h
  split
  · exact hq.writeRecord (length_recordBytes _ _ _ _ _) _
  · exact hq

theorem closeMinute (h : s.Confined m) (minute : Nat) (f : RecordFlags) : (s.closeMinute minute f).Confined m := by
  have hrecs : (if s.log.folded = 0 then (s, 0) else s.writeRecords minute f).1.Confined m := by
    split
    · exact h
    · exact h.writeRecords minute f
  unfold State.closeMinute
  split
  · dsimp only
    generalize (if s.log.folded = 0 then (s, 0) else s.writeRecords minute f) = q at hrecs ⊢
    split
    · exact hrecs.withLog _
    · exact (hrecs.post _ _ _).withLog _
  · exact h

/-! ### Exposure Accumulator and Stage Link Controller -/

theorem takeControllability (h : s.Confined m) (k : Stage) (now : Bool) : (s.takeControllability k now).Confined m := by
  refine forStations_preserves (State.Confined m) _ (fun st u hu => ?_) _ (h.withAcc _)
  split
  · exact hu.of_tidy (hu.tidy.stageFive st)
  · exact hu

theorem modLink (h : s.Confined m) (k : Stage) (f : Link → Link) : (s.modLink k f).Confined m := h.congr

theorem reevaluateLink (h : s.Confined m) (k : Stage) : (s.reevaluateLink k).Confined m := by
  unfold State.reevaluateLink
  dsimp only
  split
  · exact h.report _ _ _ _
  · exact (h.takeControllability _ _).report _ _ _ _

theorem acknowledge (h : s.Confined m) (k : Stage) (v : LimiterState) : (s.acknowledge k v).Confined m :=
  ((h.modLink k _).reevaluateLink k).modLink k _

theorem failCommand (h : s.Confined m) (k : Stage) (c : Command) : (s.failCommand k c).Confined m := by
  unfold State.failCommand
  split
  · exact h.modLink k _
  · exact ((h.modLink k _).reevaluateLink k).modLink k _

theorem judgeAck (h : s.Confined m) (k : Stage) (f : Option AckFrame) : (s.judgeAck k f).Confined m := by
  unfold State.judgeAck
  repeat' split
  · exact h
  · exact h
  · exact h
  · exact h
  · exact h.failCommand k _
  · exact h.acknowledge k _
  · exact h
  · exact h.failCommand k _
  · exact h.acknowledge k _
  · exact h.failCommand k _

theorem ackExpiry (h : s.Confined m) (k : Stage) (receiving : Bool) : (s.ackExpiry k receiving).Confined m := by
  unfold State.ackExpiry
  repeat' split
  · exact h
  · exact h.modLink k _
  · exact h.failCommand k _
  · exact h

/-! ### Gain Allocator and measurement -/

theorem changeTerms (h : s.Confined m) (f : Stage → GainStage → GainStage) : (s.changeTerms f).Confined m :=
  h.of_tidy (h.tidy.changeTerms f)

theorem logClip (h : s.Confined m) (k : Stage) (v : Nat) : (s.logClip k v).Confined m := h.congr

theorem stageConditions (h : s.Confined m) (k : Stage) : (s.stageConditions k).Confined m := h.of_tidy (h.tidy.stageConditions k)

theorem setHold (h : s.Confined m) (k : Stage) (v : Option Nat) : (s.setHold k v).Confined m := h.changeTerms _

theorem setAmbientMute (h : s.Confined m) (b : Bool) : (s.setAmbientMute b).Confined m := h.changeTerms _

theorem startGain (h : s.Confined m) : s.startGain.Confined m := by
  refine forStages_preserves (State.Confined m) _ (fun k u hu => ?_) _ (h.congr rfl)
  exact stageConditions ((hu.modLink k _).logClip k _) k

theorem complete (h : s.Confined m) (i : Slot) (hp : placed 4 rs) : (s.complete i rs).Confined m :=
  h.of_tidy (h.tidy.complete i hp)

theorem abortAmbient (h : s.Confined m) : s.abortAmbient.Confined m :=
  ((h.changeTerms _).complete _ (ambientResults_placed 2 s.acc.ambient.settled s.acc.ambient.measured 0)).withAcc _

/-! ### Station Poller -/

theorem modLoop (h : s.Confined m) (l : Loop) (f : LoopLine → LoopLine) : (s.modLoop l f).Confined m :=
  State.Confined.report (h.congr (t := s.setLoop l (f (s.loopLine l)))) _ _ _ _

theorem proceed (h : s.Confined m) : s.proceed.Confined m := h.of_tidy h.tidy.proceed

theorem endExchange (h : s.Confined m) (e : Exchange) (o : SecondOutcome) : (s.endExchange e o).Confined m := by
  have hsettle : (s.settle e).Confined m := h.congr
  exact (hsettle.of_tidy (hsettle.tidy.takeOutcome e.station o)).proceed

theorem retry (h : s.Confined m) (e : Exchange) : (s.retry e).Confined m := h.congr

theorem beginProbe (h : s.Confined m) : s.beginProbe.Confined m := h.congr

theorem failAttempt (h : s.Confined m) (e : Exchange) : (s.failAttempt e).Confined m := by
  unfold State.failAttempt
  dsimp only
  split
  · exact (h.modLoop _ _).retry e
  · exact (h.modLoop _ _).endExchange e _

theorem endProbe (h : s.Confined m) (b : Probe) (f : LoopLine → LoopLine) : (s.endProbe b f).Confined m :=
  ((h.withPoller _).modLoop _ _).beginProbe

theorem frameAtExchange (h : s.Confined m) (l : Loop) (e : Exchange) (kind : ReplyKind) : (s.frameAtExchange l e kind).Confined m := by
  unfold State.frameAtExchange
  repeat' split
  · exact (h.modLoop l _).endExchange e _
  · exact h.failAttempt e
  · exact h
  · exact h.failAttempt e
  · exact h
  · exact (h.modLoop l _).endExchange e _
  · exact h
  · exact h
  · exact h

theorem frameAtProbe (h : s.Confined m) (l : Loop) (b : Probe) (kind : ReplyKind) : (s.frameAtProbe l b kind).Confined m := by
  unfold State.frameAtProbe
  repeat' split
  · exact h.endProbe b _
  · exact h.endProbe b _
  · exact h
  · exact h.endProbe b _
  · exact h

theorem completeTest (h : s.Confined m) (q : LoopTest) : (s.completeTest q).Confined m :=
  ((h.withPoller _).complete _ (testResults_placed _ _ _)).modLoop _ _

theorem endTestFrame (h : s.Confined m) (q : LoopTest) (intact : Bool) : (s.endTestFrame q intact).Confined m := by
  unfold State.endTestFrame
  dsimp only
  split
  · exact h.completeTest _
  · exact h.withPoller _

theorem testExpiry (h : s.Confined m) : s.testExpiry.Confined m := by
  unfold State.testExpiry
  repeat' split
  · exact h.endTestFrame _ _
  · exact h
  · exact h

theorem loopFrame (h : s.Confined m) (l : Loop) (bytes : List Byte) : (s.loopFrame l bytes).Confined m := by
  unfold State.loopFrame
  repeat' split
  · exact h.endTestFrame _ _
  · exact h
  · exact h
  · exact h.frameAtExchange l _ _
  · exact h.frameAtProbe l _ _
  · exact h

theorem replyExpiry (h : s.Confined m) (l : Loop) (receiving : Bool) : (s.replyExpiry l receiving).Confined m := by
  unfold State.replyExpiry
  repeat' split
  · exact h.withPoller _
  · exact h.failAttempt _
  · exact h
  · exact h.withPoller _
  · exact h.endProbe _ _
  · exact h
  · exact h

theorem roundDeadline (h : s.Confined m) : s.roundDeadline.Confined m := by
  unfold State.roundDeadline
  split
  · exact h.of_tidy h.tidy.closeByDeadline
  · exact h

/-! ### Schedule Walker -/

theorem endPass (h : s.Confined m) (cause : PassCause) (starting : Bool) (found : WalkerState) (q : Pass) :
    (s.endPass cause starting found q).Confined m := h.of_tidy (h.tidy.endPass _ _ _ _)

theorem walkerMoved (h : s.Confined m) : s.walkerMoved.Confined m := h.of_tidy h.tidy.walkerMoved

theorem leaveFaulted (h : s.Confined m) : s.leaveFaulted.Confined m := by
  unfold State.leaveFaulted
  split
  · exact h.changeTerms _
  · exact h

theorem walkerRestart (h : s.Confined m) : s.walkerRestart.1.Confined m := by
  unfold State.walkerRestart
  dsimp only
  exact h.leaveFaulted.endPass _ _ _ _

theorem walkerResume (h : s.Confined m) (q : Pause) (holder : Byte) : (s.walkerResume q holder).1.Confined m := by
  unfold State.walkerResume
  dsimp only
  exact h.endPass _ _ _ _

/-- R143: the working book exchanged, and the lost-station terms evaluated with it. -/
theorem exchangeBook (h : s.Confined m) (b : List BookRecord) : (s.exchangeBook b).Confined m := by
  unfold State.exchangeBook State.evaluateLost
  exact (h.withBook _).changeTerms _

theorem clockMoved (h : s.Confined m) (logFirst : Bool) (before : Nat) : (s.clockMoved logFirst before).Confined m := by
  have hminute : ∀ {u : State}, u.Confined m → (u.minuteMoved before).Confined m := fun {u} hu => by
    unfold State.minuteMoved
    split
    · exact hu.closeMinute _ _
    · exact hu
  rw [clockMoved_eq]
  split
  · exact (hminute h).walkerMoved
  · exact hminute h.walkerMoved

/-! ### Requests (R170) -/

/-- A final state is written within its slot, and REQUEST_DONE in the notice queue. -/
theorem close (h : s.Confined m) (i : Slot) (copy : List Byte) (state code : Nat) (hp : placed 4 rs) :
    (s.close i copy state code rs).Confined m := by
  have hslot : (s.setRam (s.ram.finishSlot i state code rs)).Confined m :=
    h.after (t := s.setRam _) (wf_finishSlot h.wf i state code rs) (keeps_finishSlot h.wf i state code rs) fun a ha =>
      scratch_partWrites (State.Tidy.inResults_scratch hp ha)
  unfold State.close State.notifyDone
  split
  · exact hslot.post _ _ _
  · exact hslot

/-- R61: an entry is written within the station table. -/
theorem putEntry (h : s.Confined m) (st : Station) (e : StationEntry) : (s.putEntry st e).Confined m := by
  refine h.after (wf_writeBytes h.wf _ _) (keeps_writeBytes h.wf _ _) fun a ha => ?_
  have hst := st.isLt
  have hbase : Config.stationBase = 0x0100 := rfl
  simp only [List.length_append, length_leBytes] at ha
  unfold partWrites
  omega

theorem changeStation (h : s.Confined m) (st : Station) (before after : StationEntry) :
    (s.changeStation st before after).Confined m :=
  have hput := h.putEntry st after
  hput.of_tidy (hput.tidy.changeStation (s := s))

end State.Confined

/-- The results of an answer lie in the slot (Table 9-8). -/
def Reply.Placed : Reply → Prop
  | .done rs => placed 4 rs
  | .refused _ rs => placed 4 rs
  | .taken => True

theorem Reply.placed_done (h : placed 4 rs) : (Reply.done rs).Placed := h

theorem Reply.placed_refused {code : ResultCode} (h : placed 4 rs) : (Reply.refused code rs).Placed := h

/-- Every block that serves a request answers with results that lie in the slot. -/
theorem serve_placed (o : Open) (i : Slot) (copy : List Byte) (s : State) (k : RequestKind) : (serve o i copy s k).2.Placed := by
  have hnone : ∀ {code : ResultCode}, (Reply.refused code []).Placed := by simp [Reply.Placed, placed]
  cases k <;> simp only [serve]
  case setClock =>
    unfold serveSetClock
    dsimp only
    split
    · exact hnone
    · simp [Reply.Placed, placed]
  case restartSchedule =>
    unfold serveRestartSchedule
    split
    · exact hnone
    · exact Reply.placed_done (passResults_placed _ _)
  case resumeSchedule =>
    unfold serveResumeSchedule
    repeat' split
    · exact hnone
    · exact Reply.placed_done (passResults_placed _ _)
    · exact hnone
  case setWatch =>
    unfold serveSetWatch
    dsimp only
    repeat' split
    · exact hnone
    · exact hnone
    · simp [Reply.Placed, placed]
  case swapBook =>
    unfold serveSwapBook
    dsimp only
    split
    · exact hnone
    · cases validateArea s.ram (otherArea s.book.area) with
      | ok b => exact Reply.placed_done (swapResults_placed s.book.area)
      | error f => exact Reply.placed_refused (faultResults_placed _ f)
  case setFlags =>
    unfold serveSetFlags
    dsimp only
    split
    · exact hnone
    · simp [Reply.Placed, placed]
  case holdStage =>
    unfold serveHoldStage
    split
    · exact hnone
    · simp [Reply.Placed, placed, holdBefore, boundResults]
  case releaseStage =>
    unfold serveReleaseStage
    split
    · exact hnone
    · simp [Reply.Placed, placed, holdBefore, boundResults]
  case measureAmbient =>
    unfold serveMeasureAmbient
    dsimp only
    repeat' split
    · exact hnone
    · exact hnone
    · exact hnone
    · trivial
  case abortAmbient =>
    unfold serveAbortAmbient
    split
    · simp [Reply.Placed, placed]
    · exact hnone
  case setAmbient =>
    unfold serveSetAmbient
    repeat' split
    · exact hnone
    · exact hnone
    · simp [Reply.Placed, placed]
  case loopTest =>
    unfold serveLoopTest
    repeat' split
    · exact hnone
    · exact hnone
    · exact hnone
    · exact hnone
    · trivial
  case setStation =>
    unfold serveSetStation
    dsimp only
    repeat' split
    · exact hnone
    · exact hnone
    · exact Reply.placed_done (stationResults_placed _ _ _ _)
    · exact hnone
    · exact Reply.placed_done (stationResults_placed _ _ _ _)
  case readWindow =>
    unfold serveReadWindow
    split
    · exact hnone
    · exact Reply.placed_done (windowReport_placed _ _ _)

namespace State.Confined

/-- R170: a request served by its owner. -/
theorem serve (h : s.Confined m) (o : Open) (i : Slot) (copy : List Byte) (k : RequestKind) :
    (Machine.serve o i copy s k).1.Confined m := by
  cases k <;> simp only [Machine.serve]
  case setClock =>
    unfold serveSetClock
    dsimp only
    have hset : State.Confined m { s with clock := field copy 0x04 4 } := h.congr rfl
    repeat' split
    · exact h
    · exact hset
    · exact hset.clockMoved _ _
  case restartSchedule =>
    unfold serveRestartSchedule
    split
    · exact h
    · exact h.walkerRestart
  case resumeSchedule =>
    unfold serveResumeSchedule
    repeat' split
    · exact h
    · exact h.walkerResume _ _
    · exact h
  case setWatch =>
    unfold serveSetWatch
    dsimp only
    repeat' split
    · exact h
    · exact h
    · exact h.congr rfl
  case swapBook =>
    unfold serveSwapBook
    dsimp only
    split
    · exact h
    · cases validateArea s.ram (otherArea s.book.area) with
      | ok b =>
        dsimp only
        exact h.exchangeBook b
      | error f => exact h
  case setFlags =>
    unfold serveSetFlags
    dsimp only
    split
    · exact h
    · exact h.withScanner _
  case holdStage =>
    unfold serveHoldStage
    split
    · exact h
    · dsimp only
      exact h.setHold _ _
  case releaseStage =>
    unfold serveReleaseStage
    split
    · exact h
    · dsimp only
      exact h.setHold _ _
  case measureAmbient =>
    unfold serveMeasureAmbient
    dsimp only
    repeat' split
    · exact h
    · exact h
    · exact h
    · dsimp only
      exact (h.withAcc _).setAmbientMute true
  case abortAmbient =>
    unfold serveAbortAmbient
    split
    · exact h.abortAmbient
    · exact h
  case setAmbient =>
    unfold serveSetAmbient
    repeat' split
    · exact h
    · exact h
    · exact h.congr rfl
  case loopTest =>
    unfold serveLoopTest
    repeat' split
    · exact h
    · exact h
    · exact h
    · exact h
    · exact (h.modLoop _ _).withPoller _
  case setStation =>
    unfold serveSetStation
    dsimp only
    repeat' split
    · exact h
    · exact h
    · exact h
    · exact h
    · dsimp only
      exact h.changeStation _ _ _
  case readWindow =>
    unfold serveReadWindow
    split
    · exact h
    · exact h

theorem answer (h : s.Confined m) (i : Slot) (copy : List Byte) {r : Reply} (hr : r.Placed) : (s.answer i copy r).Confined m := by
  cases r with
  | done rs => exact h.close i copy _ _ hr
  | refused code rs => exact h.close i copy _ _ hr
  | taken =>
    refine h.writeLe _ _ _ fun x h1 h2 => ?_
    have hi := i.isLt
    have hs : slotAddr i = 0x1C00 + 64 * i.val := rfl
    unfold partWrites
    omega

theorem markInFlight (h : s.Confined m) (i : Slot) (copy : List Byte) (r : Reply) : (s.markInFlight i copy r).Confined m := by
  unfold State.markInFlight
  split
  · exact h.withScanner _
  · exact h

theorem takeSlot (h : s.Confined m) (o : Open) (i : Slot) (q : Scan) : (s.takeSlot o i q).Confined m := by
  unfold State.takeSlot
  dsimp only
  cases s.ram.slotKind i with
  | kind k => exact (((h.withScanner _).serve o i _ k).answer i _ (serve_placed _ _ _ _ _)).markInFlight i _ _
  | bad code => exact ((h.withScanner _).answer i _ (r := .refused code []) (by simp [Reply.Placed, placed])).markInFlight i _ _

theorem takeKind (h : s.Confined m) (o : Open) (want : SlotKind → Bool) (i : Slot) : (s.takeKind o want i).Confined m := by
  unfold State.takeKind
  repeat' split
  · exact h.takeSlot _ _ _
  · exact h
  · exact h

theorem runScan (h : s.Confined m) (o : Open) (n : Nat) : (s.runScan o n).Confined m := by
  induction n generalizing s with
  | zero => exact h
  | succ n ih =>
    unfold State.runScan
    repeat' split
    · exact ih (h.takeSlot _ _ _)
    · exact h.withScanner _
    · exact h

theorem scanToEnd (h : s.Confined m) (o : Open) : (s.scanToEnd o).Confined m := by
  unfold State.scanToEnd
  repeat' split
  · exact h.runScan _ _
  · exact h
  · exact h

/-! ### Starts, stops and resets (R159, R161 to R166) -/

theorem enterRun (h : s.Confined m) (before : RunState) (r : RunControl) : (s.enterRun before r).Confined m :=
  (h.withRun r).post _ _ _

theorem startLinks (h : s.Confined m) (cfg : LinkConfig) : (s.startLinks cfg).Confined m :=
  forStages_preserves (State.Confined m) _ (fun k _ hu => (hu.modLink k _).reevaluateLink k) _ (h.congr rfl)

theorem startWriters (h : s.Confined m) (c : StartConfig) : (s.startWriters c).Confined m := by
  unfold State.startWriters State.writeLogHeader
  dsimp only
  have hlog : State.Confined m
      { s with
        notices := { s.notices with edges := c.edges }, log := { s.log.emptied with mode := c.mode, minuteOpen := true } } :=
    h.congr rfl
  exact (hlog.writeHeader _ 2 _ (by decide)).writeHeader (Config.logHeaderBase + 4) 1 _ (by decide)

theorem configured (h : s.Confined m) (d : StartData) : (s.configured d).Confined m := by
  have htaken : (s.takeConfig d).Confined m := by
    have hheld : State.Confined m
        { s with
          poller := { s.poller with copy := some d.copy, timing := some d.config.timing }
          gain := { s.gain with cfg := some d.config.gain } } := h.congr rfl
    unfold State.takeConfig
    exact (hheld.startLinks _).startWriters _
  unfold State.configured
  generalize s.takeConfig d = u at htaken ⊢
  exact htaken.withBook _

theorem startWalker (h : s.Confined m) (d : StartData) : (s.startWalker d).Confined m := by
  unfold State.startWalker
  dsimp only
  exact (h.withWalker _).endPass _ _ _ _

theorem started (h : s.Confined m) (d : StartData) : (s.started d).Confined m := by
  have hpass : ((s.configured d).startGain.startWalker d).Confined m := (h.configured d).startGain.startWalker d
  unfold State.started
  exact hpass.congr

theorem succeedStart (h : s.Confined m) (d : StartData) : (s.succeedStart d).Confined m := by
  rw [succeedStart_eq]
  exact ((h.started d).enterRun _ _).withScanner _

theorem failStart (h : s.Confined m) (e : StartError) : (s.failStart e).Confined m := (h.enterRun _ _).withScanner _

theorem completeStart (h : s.Confined m) : s.completeStart.Confined m := by
  unfold State.completeStart
  repeat' split
  · exact h.succeedStart _
  · exact h.failStart _
  · exact h

theorem stopAmbient (h : s.Confined m) : s.stopAmbient.Confined m := by
  unfold State.stopAmbient
  split
  · exact h.abortAmbient
  · exact h

theorem stopRound (h : s.Confined m) : s.stopRound.Confined m := by
  have hidle : State.Confined m
      { s with poller := { s.poller with exch := none, probe := none, probeDue := [], todo := [] } } := h.withPoller _
  unfold State.stopRound
  dsimp only
  split
  · exact (hidle.of_tidy (hidle.tidy.handMissing s.poller.unresolved).advanceRest).withPoller _
  · exact hidle

theorem stopTest (h : s.Confined m) : s.stopTest.Confined m := by
  unfold State.stopTest
  split
  · exact ((h.withPoller _).complete _ (testResults_placed _ _ _)).modLoop _ _
  · exact h

theorem stopMinute (h : s.Confined m) : s.stopMinute.Confined m := (h.closeMinute _ _).withLog _

theorem stopStations (h : s.Confined m) : s.stopStations.Confined m :=
  forStations_preserves (State.Confined m) _ (fun _ _ hu => ((hu.withPoller _).report _ _ _ _).report _ _ _ _) _ (h.withAcc _)

theorem stopShow (h : s.Confined m) : s.stopShow.Confined m := by
  have hwork : s.toIdle.stoppedWork.Confined m := (h.withRun _).stopAmbient.stopRound.stopTest.stopMinute.stopStations
  have hstopped : s.stopped.Confined m := by
    unfold State.stopped
    exact hwork.congr
  have heq : s.stopShow = ({ s.stopped with walker := s.stopped.walker.stop } : State).postRunState s.run.state := stopShow_eq s
  rw [heq]
  generalize s.stopped = v at hstopped
  exact (hstopped.withWalker _).post _ _ _

/-- R176, R177: the slots of the requests in flight, and RUN_STATE in a queue that was empty. -/
theorem softReset (h : s.Confined m) : s.softReset.Confined m := by
  obtain ⟨-, -, -, -, -, -, hkeep⟩ := softReset_ram h.wf rfl
  rw [softReset_eq]
  refine h.after (wf_writeBytes (wf_refuseInFlight h.wf _) _ _) hkeep fun a ha => ?_
  obtain hnotice | ⟨i, -, hslot⟩ := ha
  · unfold partWrites inNoticeQueue
    omega
  · have hi := i.isLt
    have hs : slotAddr i = 0x1C00 + 64 * i.val := rfl
    unfold partWrites
    omega

theorem assertReset (h : s.Confined m) : s.assertReset.Confined m := h.congr rfl

theorem endClearing (h : s.Confined m) : s.endClearing.Confined m := by
  unfold State.endClearing
  split
  · exact h.enterRun _ _
  · exact h

/-! ### The registers (R160, R178, R179, R192) -/

theorem writeMute (h : s.Confined m) (v : Bool) : (s.writeMute v).Confined m := by
  unfold State.writeMute
  split
  · exact h
  · exact (h.withRun _).changeTerms _

theorem writeIntEnable (h : s.Confined m) (v : Bool) : (s.writeIntEnable v).Confined m := by
  unfold State.writeIntEnable
  split
  · exact h
  · exact h.congr rfl

theorem writeRun (h : s.Confined m) (v : Bool) : (s.writeRun v).Confined m := by
  unfold State.writeRun
  repeat' split
  · exact h
  · exact h.enterRun _ _
  · exact h.stopShow
  · exact h.failStart _
  · exact h.withRun _

theorem writeControl (h : s.Confined m) (v : Nat) : (s.writeControl v).Confined m := by
  unfold State.writeControl
  split
  · exact h.softReset
  · exact ((h.writeMute _).writeIntEnable _).writeRun _

theorem writeStatus (h : s.Confined m) (v : Nat) : (s.writeStatus v).Confined m := by
  unfold State.writeStatus
  split
  · exact h.congr rfl
  · exact h

theorem writeAttention (h : s.Confined m) : s.writeAttention.Confined m := by
  unfold State.writeAttention
  split
  · exact h
  · exact h.withScanner _
  · exact h.withScanner _
  · exact h.withScanner _

theorem writeNoticeTail (h : s.Confined m) (v : Nat) : (s.writeNoticeTail v).Confined m := by
  unfold State.writeNoticeTail
  split
  · exact h.congr rfl
  · exact h

theorem writeRegister (h : s.Confined m) (reg : Reg) (high : Half) : (s.writeRegister reg high).Confined m := by
  unfold State.writeRegister
  dsimp only
  split
  · exact h
  · cases reg with
    | control => exact h.writeControl _
    | status => exact h.writeStatus _
    | attention => exact h.writeAttention
    | noticeTail => exact h.writeNoticeTail _
    | ident | noticeHead | showClock | reserved => exact h

theorem writeLowHalf (h : s.Confined m) (reg : Reg) (value : Half) : (s.writeLowHalf reg value).Confined m := by
  unfold State.writeLowHalf
  split
  · exact h
  · exact h.congr rfl

/-! ### The second event (Table 5-1) -/

theorem secondWork (h : s.Confined m) (wrapped : Bool) (w : SecondWork) : (s.secondWork wrapped w).Confined m := by
  have hwalk : s.walkerSecond.Confined m := h.of_tidy h.tidy.walkerSecond
  cases w <;> simp only [State.secondWork]
  case accumulator =>
    split
    · exact h.congr
    · exact h
  case poller =>
    split
    · exact h.of_tidy h.tidy.pollerSecond
    · exact h
  case linkSecond => exact h.congr
  case linkOffer =>
    split
    · exact h.congr
    · exact h
  case scanner =>
    split
    · exact h.withScanner _
    · exact h
  case walker =>
    split
    · exact hwalk.walkerMoved
    · exact hwalk
  case minute =>
    split
    · exact h.closeMinute _ _
    · exact h
  case occupancy => exact h.of_tidy h.tidy.readOccupancy

theorem secondEvent (h : s.Confined m) (order : List SecondWork) : (s.secondEvent order).Confined m := by
  unfold State.secondEvent
  split
  · exact h
  · exact foldl_preserves (State.Confined m) _ (fun _ w hu => hu.secondWork _ w) _ _ (h.congr rfl)

/-! ### Every command -/

/-- The commands that are the part's own: all but the host's access to RAM, the clearing of a reset and a disturbance. -/
theorem exec (h : s.Confined m) (c : Instr) (hhost : ∀ word access, c ≠ .hostRamAccess word access) (hclear : c ≠ .resetRelease)
    (hdisturb : ∀ addr content, c ≠ .ramContentDisturbed addr content) (ht : Machine.exec c s = .next t) : t.Confined m := by
  cases c <;> cases ht
  case hardwareReset => exact h.assertReset
  case resetRelease => exact absurd rfl hclear
  case ramClearComplete => exact h.endClearing
  case secondEvent => exact h.secondEvent _
  case startChecksComplete => exact h.completeStart
  case start | stop | softReset | immediateMute | intEnable | noticeOverrunClear | attention | noticeTailWrite
      | registerWriteIgnored => exact h.writeRegister _ _
  case registerLowHalfWrite => exact h.writeLowHalf _ _
  case registerLowHalfRead => exact h.congr rfl
  case hostRamAccess word access => exact absurd rfl (hhost word access)
  case ramContentDisturbed addr content => exact absurd rfl (hdisturb addr content)
  case requestScan => exact h.scanToEnd _
  case setClock | restartSchedule | resumeSchedule | setWatch | swapBook | setFlags | holdStage | releaseStage
      | measureAmbient | abortAmbient | setAmbient | loopTest | setStation | readWindow | requestBadKind =>
    exact h.takeKind _ _ _
  case pollSent | ceilingSent => exact h.congr
  case replyTimeout => exact h.replyExpiry _ _
  case loopFrameReceived | loopFrameSilence => exact h.loopFrame _ _
  case roundDeadline => exact h.roundDeadline
  case ackTimeout => exact h.ackExpiry _ _
  case linkFrameReceived | linkFrameSilence => exact h.judgeAck _ _
  case testFrameTimeout => exact h.testExpiry

end State.Confined

/-- Settles O3: every write of the part's own lies in the station table, the fault record, the slots, the notice queue or the log. -/
theorem partWritesOnlyItsRegions : Obligations.PartWritesOnlyItsRegions := by
  unfold Obligations.PartWritesOnlyItsRegions
  intro c s t hw hhost hclear hdisturb ht
  exact ((State.Confined.refl hw).exec c hhost hclear hdisturb ht).keeps

end Sys2Proof.Machine

/-! SUPPORT. The queue of commands, which no meaning touches; O1 and O2. -/

namespace Sys2Proof.Machine

-- Proofs one at a time: those that wait side by side each hold a thread's stack.
set_option Elab.async false

/-- Settles O1: with a command at the front, `step` is its second case. -/
theorem stepTakesTheFront : Obligations.StepTakesTheFront := by
  unfold Obligations.StepTakesTheFront
  intro s c rest h
  unfold step
  rw [h]

/-! ### Starts, stops and resets -/

section

variable (s : State)

@[simp] theorem failStart_pending (e : StartError) : (s.failStart e).pending = s.pending := by
  simp [State.failStart]

@[simp] theorem stopShow_pending : s.stopShow.pending = s.pending := by
  simp [State.stopShow]

@[simp] theorem softReset_pending : s.softReset.pending = s.pending := by
  simp [State.softReset]

@[simp] theorem succeedStart_pending (d : StartData) : (s.succeedStart d).pending = s.pending := by
  simp [State.succeedStart]

@[simp] theorem beginStart_pending : s.beginStart.pending = s.pending := by
  simp [State.beginStart]

theorem completeStart_pending : s.completeStart.pending = s.pending := by
  unfold State.completeStart
  repeat' split
  all_goals simp

theorem releaseReset_pending : s.releaseReset.pending = s.pending := by
  unfold State.releaseReset
  split <;> rfl

theorem endClearing_pending : s.endClearing.pending = s.pending := by
  unfold State.endClearing
  split <;> simp

/-! ### The registers, shared RAM and the scan -/

@[simp] theorem writeMute_pending (v : Bool) : (s.writeMute v).pending = s.pending := by
  unfold State.writeMute
  split <;> simp

@[simp] theorem writeIntEnable_pending (v : Bool) : (s.writeIntEnable v).pending = s.pending := by
  unfold State.writeIntEnable
  split <;> rfl

@[simp] theorem writeRun_pending (v : Bool) : (s.writeRun v).pending = s.pending := by
  unfold State.writeRun
  repeat' split
  all_goals simp

theorem writeControl_pending (v : Nat) : (s.writeControl v).pending = s.pending := by
  unfold State.writeControl
  split <;> simp

theorem writeStatus_pending (v : Nat) : (s.writeStatus v).pending = s.pending := by
  unfold State.writeStatus
  split <;> rfl

theorem writeAttention_pending : s.writeAttention.pending = s.pending := by
  unfold State.writeAttention
  split <;> rfl

theorem writeNoticeTail_pending (v : Nat) : (s.writeNoticeTail v).pending = s.pending := by
  unfold State.writeNoticeTail
  split <;> rfl

theorem writeRegister_pending (reg : Reg) (high : Half) : (s.writeRegister reg high).pending = s.pending := by
  unfold State.writeRegister
  dsimp only
  split
  · rfl
  · cases reg with
    | control => exact writeControl_pending s _
    | status => exact writeStatus_pending s _
    | attention => exact writeAttention_pending s
    | noticeTail => exact writeNoticeTail_pending s _
    | ident | noticeHead | showClock | reserved => rfl

theorem writeLowHalf_pending (reg : Reg) (value : Half) : (s.writeLowHalf reg value).pending = s.pending := by
  unfold State.writeLowHalf
  split <;> rfl

theorem hostAccess_pending (word : BitVec 15) (access : RamAccess) : (s.hostAccess word access).pending = s.pending := by
  unfold State.hostAccess
  cases access with
  | read => rfl
  | write data low high =>
    dsimp only
    split <;> rfl

theorem takeKind_pending (o : Open) (want : SlotKind → Bool) (i : Slot) : (s.takeKind o want i).pending = s.pending := by
  unfold State.takeKind
  repeat' split
  · exact (takeSlot_run o i _ s).2
  · rfl
  · rfl

theorem scanToEnd_pending (o : Open) : (s.scanToEnd o).pending = s.pending := by
  unfold State.scanToEnd
  repeat' split
  · exact (runScan_run o _ s).2
  · rfl
  · rfl

/-! ### The second event and the timers -/

theorem secondWork_pending (wrapped : Bool) (w : SecondWork) : (s.secondWork wrapped w).pending = s.pending := by
  cases w <;> simp only [State.secondWork]
  case accumulator => split <;> simp
  case poller => split <;> simp
  case linkSecond => simp
  case linkOffer => split <;> simp
  case scanner => split <;> rfl
  case walker => split <;> simp
  case minute => split <;> simp
  case occupancy => simp

theorem secondEvent_pending (order : List SecondWork) : (s.secondEvent order).pending = s.pending := by
  unfold State.secondEvent
  split
  · rfl
  · exact foldl_keeps State.pending _ (fun t w => secondWork_pending t _ w) _ _

theorem roundDeadline_pending : s.roundDeadline.pending = s.pending := by
  unfold State.roundDeadline
  split <;> simp

theorem testExpiry_pending : s.testExpiry.pending = s.pending := by
  unfold State.testExpiry
  repeat' split
  all_goals simp

/-! ### Every command -/

/-- No command faults or is refused. -/
theorem exec_next (c : Instr) : ∃ t, exec c s = .next t := by
  cases c <;> exact ⟨_, rfl⟩

/-- What a command does, it does to the part and not to the queue. -/
theorem exec_pending {t : State} (c : Instr) (ht : exec c s = .next t) : t.pending = s.pending := by
  cases c <;> cases ht
  case hardwareReset | registerLowHalfRead | ramContentDisturbed => rfl
  case resetRelease => exact releaseReset_pending s
  case ramClearComplete => exact endClearing_pending s
  case secondEvent => exact secondEvent_pending s _
  case startChecksComplete => exact completeStart_pending s
  case start | stop | softReset | immediateMute | intEnable | noticeOverrunClear | attention | noticeTailWrite
      | registerWriteIgnored => exact writeRegister_pending s _ _
  case registerLowHalfWrite => exact writeLowHalf_pending s _ _
  case hostRamAccess => exact hostAccess_pending s _ _
  case requestScan => exact scanToEnd_pending s _
  case setClock | restartSchedule | resumeSchedule | setWatch | swapBook | setFlags | holdStage | releaseStage
      | measureAmbient | abortAmbient | setAmbient | loopTest | setStation | readWindow | requestBadKind =>
    exact takeKind_pending s _ _ _
  case pollSent | replyTimeout | loopFrameReceived | ceilingSent | ackTimeout | linkFrameReceived | linkFrameSilence => simp
  case loopFrameSilence => simp [State.loopSilence]
  case roundDeadline => exact roundDeadline_pending s
  case testFrameTimeout => exact testExpiry_pending s

end

/-- Settles O2: every arm of the dispatch answers a next state, and no meaning touches the queue. -/
theorem everyCommandCompletes : Obligations.EveryCommandCompletes := by
  unfold Obligations.EveryCommandCompletes
  intro c s
  obtain ⟨t, ht⟩ := exec_next s c
  exact ⟨t, ht, exec_pending s c ht⟩

end Sys2Proof.Machine
